-- ==== Sys2Proof/Word.lean ====
section
/-!
DEFINITION. Sys2Proof/Word.lean: the word types of the machine and their plainest arithmetic (spec/00_scope.md R3, R8).
-/
namespace Sys2Proof

/-- Eight bits of memory. -/
abbrev Byte := BitVec 8
/-- A 32-bit register, queue cell or mask (R12, R128). -/
abbrev Word := BitVec 32
/-- A 64-bit operand, PC or trap value (R14, R17, R379). -/
abbrev Dword := BitVec 64

/-- `x[hi:lo]` of R7: the unsigned integer formed by those bits of `x`. -/
def bits (x hi lo : Nat) : Nat := x / 2 ^ lo % 2 ^ (hi + 1 - lo)

/-- Bit `i` of a natural number. -/
def bitAt (x i : Nat) : Bool := x.testBit i

/-- `sext(x, n)` of R8. -/
def sext (x n : Nat) : Int := if x % 2 ^ n < 2 ^ (n - 1) then (x % 2 ^ n : Nat) else (x % 2 ^ n : Nat) - (2 : Int) ^ n

/-- `zext(x, n)` of R8. -/
def zext (x n : Nat) : Nat := x % 2 ^ n

/-- `wrap(x, n)` of R8: `x` modulo `2^n`. -/
def wrap (x : Int) (n : Nat) : Nat := (x % (2 : Int) ^ n).toNat

/-- The low word of a 64-bit value. -/
def loWord (x : Dword) : Word := x.setWidth 32
/-- The high word of a 64-bit value. -/
def hiWord (x : Dword) : Word := (x >>> 32).setWidth 32
/-- A pair of words as one 64-bit value, low word first. -/
def pairOf (lo hi : Word) : Dword := (hi ++ lo : BitVec 64)

end Sys2Proof
end

