-- ==== Sys2Proof/Config.lean ====
section
/-!
DEFINITION. Sys2Proof/Config.lean: what the spec leaves open. Each constant has no value that a proof can see; log entry 7
says where each stands. The first argument of a choice is the counter State.free, which every use advances.
-/
namespace Sys2Proof

/-- A choice the spec grants the device: which enabled step comes next, which line a fetch returns (R165, R250, R254). (log entry 7: DESIGN CHOICE) -/
opaque Config.choice : Nat → Nat

/-- Whether the copy at an index of a cache stays for another period (R203, R204, R415: replacement). -/
opaque Config.retains : Nat → Nat → Bool

/-- A value the spec leaves unspecified, as an unsigned number; it is used modulo the width of the value. -/
opaque Config.freeBits : Nat → Nat

/-- What a byte of a scratchpad reads as while a traversal thread owns its record (R340): the second number tells the bytes apart. -/
opaque Config.recordByte : Nat → Nat → Byte

/-- Whether a firmware image carries a valid ML-DSA-44 signature under the fused key (R472). -/
opaque Config.signed : List Byte → Bool

/-- What HBM4 holds after a cold reset: bytes by address (R482). -/
opaque Config.memoryAfter : Nat → List (Nat × Byte)

/-- Die 0's ML-DSA-44 signature over a message: 2,420 bytes (R474). -/
opaque Config.signature : List Byte → List Byte

/-- The identity public key of each die (R473). -/
opaque Config.identityKey : Nat → List Byte

/-- The device's certificate chain for die 0's key (R473). -/
opaque Config.certificates : List Byte

end Sys2Proof
end

