-- ==== Sys2Proof/Syntax.lean ====
section
/-!
DEFINITION. Sys2Proof/Syntax.lean: the instructions and events of the part as typed terms. Slot fields follow
spec/02_instruction_words.md (R34 to R43); each constructor of `Instr` is one row of spec/opcode_table.json.
-/
namespace Sys2Proof

/-! ## Specifiers (R37, R39) -/

/-- A source specifier (R37), one constructor per range of its table. -/
inductive Src where
  | v (n : Fin 128)
  | q (n : Fin 16)
  | k (n : Fin 8)
  | f (n : Fin 8)
  | lane
  | skeinIx
  | plyIx
  | plyLane
  | origin
  | zero
  | lit
  | reserved (n : Fin 9)
  | t (n : Fin 8)
  | x (n : Fin 8)
  | s (n : Fin 64)
deriving DecidableEq, Repr

/-- A destination specifier (R39), one constructor per range of its table. -/
inductive Dst where
  | v (n : Fin 128)
  | q (n : Fin 16)
  | k (n : Fin 8)
  | f (n : Fin 8)
  | index (n : Fin 16)
  | t (n : Fin 8)
  | x (n : Fin 8)
  | s (n : Fin 62)
  | push
  | none
deriving DecidableEq, Repr

/-! ## Field values -/

/-- The type codes of R42. -/
inductive Ty where
  | b32 | i8 | i16 | i32 | i64 | n8 | n16 | n32 | n64 | f16 | bf16 | f32 | f16x2 | bf16x2 | e4m3 | e5m2
deriving DecidableEq, Repr

/-- The rounding override of R41; codes 6 and 7 are refused by the decoder. -/
inductive Rnd where
  | captured | rne | rtz | rdn | rup | sto
deriving DecidableEq, Repr

/-- SPACE of R43. -/
inductive Space where
  | global | panel | cluster | constants | opbuf
deriving DecidableEq, Repr

/-- SCOPE codes 0 to 6 (R43, R238). -/
inductive Scope where
  | skein | panel | cluster | die | tenant | device | system
deriving DecidableEq, Repr

/-- ORD of R43. -/
inductive Ord where
  | relaxed | acquire | release | acqRel
deriving DecidableEq, Repr

/-- CPOL of R43 and R205. -/
inductive Cpol where
  | plain | evictFirst | bypass | evictLast
deriving DecidableEq, Repr

/-- SIZE of R43. -/
inductive Size where
  | w8 | w16 | w32 | w64 | w128
deriving DecidableEq, Repr

/-- The completion object of an engine operation: MBS of R277. -/
inductive ObjSpace where
  | none | panel | cluster
deriving DecidableEq, Repr

/-- FORM of CPY (R277). -/
inductive CopyForm where
  | linear | shape | records
deriving DecidableEq, Repr

/-- TRN of CPY (R277): the element size of a transposition. -/
inductive Trn where
  | none | bytes | halves
deriving DecidableEq, Repr

/-- COP of COLL (R460). -/
inductive Cop where
  | allReduce | reduceScatter | allGather | broadcast
deriving DecidableEq, Repr

/-- ROP of COLL (R460). -/
inductive Rop where
  | add | min | max
deriving DecidableEq, Repr

/-! ## Instruction records -/

/-- The fields every slot has (R34), but for OP and MOD. -/
structure Slot where
  stall : Fin 16
  pred : Fin 8
  pneg : Bool
  dst : Dst
  sa : Src
  sb : Src
  sc : Src
  lit : Word
deriving DecidableEq, Repr

/-- A slot with the ALU layout of MOD (R41). -/
structure Alu where
  slot : Slot
  sf : Bool
  ty : Ty
  rnd : Rnd
  sat : Bool
  sub : Fin 8
  aneg : Bool
  aabs : Bool
  bneg : Bool
  babs : Bool
deriving DecidableEq, Repr

/-- A slot with the memory layout of MOD (R43). -/
structure Mem where
  slot : Slot
  space : Space
  scope : Scope
  ord : Ord
  cpol : Cpol
  size : Size
  msub : Fin 8
deriving DecidableEq, Repr

/-- CTL of SETFP (R98). -/
structure FpSet where
  wftz : Bool
  wrm : Bool
  ftz : Bool
  rm : Fin 4
deriving DecidableEq, Repr

/-- MOD of CPY (R277). -/
structure CopyMod where
  ssp : Space
  dsp : Space
  form : CopyForm
  chan : Fin 8
  trn : Trn
  mbs : ObjSpace
deriving DecidableEq, Repr

/-- MOD of XFM (R286). -/
structure XfmMod where
  op : Fin 8
  rnd : Rnd
  sat : Bool
  mbs : ObjSpace
deriving DecidableEq, Repr

/-- MOD of QNT and DQNT (R290, R291). -/
structure QntMod where
  ty : Ty
  rnd : Rnd
deriving DecidableEq, Repr

/-- MOD of FBIND (R305). -/
structure FbindMod where
  slotN : Fin 8
  handle : Fin 16
deriving DecidableEq, Repr

/-- MOD of COLL (R460). -/
structure CollMod where
  cop : Cop
  rop : Rop
  ety : Ty
  mbs : ObjSpace
deriving DecidableEq, Repr

/-- MOD of SCLK (R364). -/
structure LookMod where
  stale : Bool
  neu : Bool
  peek : Bool
deriving DecidableEq, Repr

/-! ## What an event brings from outside

These records carry what a host, firmware, another device or the silicon itself supplies with an event. -/

/-- A COLL that another member of a group has issued (R464): what its descriptor and its record name, and what its SEND holds. -/
structure CollPeer where
  rank : Nat
  groupId : Nat
  tag : Nat
  size : Nat
  cop : Cop
  rop : Rop
  ety : Ty
  count : Nat
  root : Nat
  send : List Byte
deriving DecidableEq, Repr

/-- What the fabric brings to a collective (R464, R465): whether a member is lost, the COLLs that other members have issued, and the order
in which values combine. -/
structure CollMeet where
  lost : Bool
  peers : List CollPeer
  order : List Nat
deriving DecidableEq, Repr

/-- The storage that holds a copy of some bytes (R479): memory, the copies at a place (a core number, or 768 + die), a panel's scratchpad,
its part of the operand buffer. -/
inductive Region where
  | memory
  | copy (place : Nat)
  | scratch (panel : Nat)
  | opbuf (panel : Nat)
deriving DecidableEq, Repr

/-- One byte of a region. -/
structure Spot where
  region : Region
  addr : Nat
deriving DecidableEq, Repr

/-- What the error detection of a die reports (R479, R480, R387): an error that was repaired; an uncorrectable one, which marks its bytes; one
in a register, a queue entry or a result on its way, which the named lanes of a skein consume (`poisoned` is the write that never lands there,
R219); one in a structure of no function, with its physical address. -/
inductive HaltReport where
  | corrected (die : Nat)
  | damaged (die : Nat) (spots : List Spot)
  | poison (lanes : Word) (poisoned : Option Nat)
  | machineCheck (addr : Nat)
deriving DecidableEq, Repr

/-- A tag parity error (R442): of a way group of a die's L2, or of a copy's tag at a place (a core number, or 768 + die) with the line it
stood for. -/
structure TagError where
  die : Nat
  group : Nat
  ownerGood : Bool
  dirty : Bool
  owner : Nat
  line : Nat
  place : Option Nat
deriving DecidableEq, Repr

/-- What firmware writes when it creates a function (R419, R420). -/
structure FnSetup where
  clusters : Word
  slices : List (Nat × Nat)
  root1 : Dword
  root2 : Dword
  saveBase : Dword
  saveSize : Dword
  share : Fin 256
  margin : Fin 64
  tmask : Fin 256
deriving DecidableEq, Repr

/-- Where the graph engine puts one panel (R126, R184): the core, each skein's pipe and first register granule, the first
KiB of its scratchpad and operand-buffer ranges and of the rings it is home to, and its offset in the save region. -/
structure Placement where
  core : Nat
  pipes : List Nat
  granules : List Nat
  scratchAt : Nat
  opbufAt : Nat
  ringAt : Nat
  slot : Nat
deriving DecidableEq, Repr

/-- One power interval's measurement (R476). -/
structure PowerSample where
  milliwatts : Nat
  temperature : Nat
deriving DecidableEq, Repr

/-- What the boot chain reads and fixes (R455, R456, R472, R442): the two firmware images, where the hypervisor image lies
in each die's firmware range, its entry and constant offsets there, the interleave share, each function's windows
(base, size, interleaved), the functions each way group of each die is granted, the dies' budgets in mW (R475), and the physical function's record. -/
structure BootMap where
  platform : List Byte
  hypervisor : List Byte
  hypAt : Nat
  hypEntry : Dword
  hypConst : Nat
  interleave : Nat
  windows : List (Nat × Nat × Nat × Bool)
  ways : List (List (List Nat))
  budgets : List Nat
  setup : FnSetup
deriving DecidableEq, Repr

/-- The fabric manager's load (R458). -/
structure RouteLoad where
  device : Nat
  routes : List (Nat × Nat)
deriving DecidableEq, Repr

/-- A host request to a BAR of a function (R466, R467): whether its requester is the root complex. -/
structure HostReq where
  fn : Nat
  root : Bool
deriving DecidableEq, Repr

/-- A place in a BAR of a function: the BAR and the offset in it (R467). -/
inductive BarAddr where
  | bar0 (off : Nat)
  | bar2 (off : Nat)
deriving DecidableEq, Repr

/-- A request over the DOE mailbox (R473, R474, R481): a report with a pattern handle, the certificate chain, or a die's
counters. -/
inductive DoeRequest where
  | report (handle : Option Nat)
  | certificates
  | counters (die : Nat)
deriving DecidableEq, Repr

/-- The instructions and events, one constructor per row of the opcode table; each docstring cites the rule that gives its effect. -/
inductive Instr where
  /-- NOP (R88). -/
  | nop (s : Slot)
  /-- BRA (R92). -/
  | bra (s : Slot)
  /-- BRX (R92). -/
  | brx (s : Slot)
  /-- CALL (R92). -/
  | call (s : Slot)
  /-- CALLX (R92). -/
  | callx (s : Slot)
  /-- RET (R93). -/
  | ret (s : Slot)
  /-- EXIT (R94). -/
  | exit (s : Slot)
  /-- PARK (R95). -/
  | park (s : Slot)
  /-- YIELD (R96). -/
  | yield (s : Slot)
  /-- SETFP (R97). -/
  | setfp (s : Slot) (m : FpSet)
  /-- SYSCALL (R403). -/
  | syscall (s : Slot)
  /-- HCALL (R403). -/
  | hcall (s : Slot)
  /-- TRET (R385). -/
  | tret (s : Slot)
  /-- BKPT (R403). -/
  | bkpt (s : Slot)
  /-- SRD (R400). -/
  | srd (s : Slot)
  /-- SRD_ELEM (R400). -/
  | srdElem (s : Slot)
  /-- SWR (R401). -/
  | swr (s : Slot)
  /-- SWR_FPMODE (R32). -/
  | swrFpmode (s : Slot)
  /-- SWR_FPFLAGS (R402). -/
  | swrFpflags (s : Slot)
  /-- SWR_VPC (R386). -/
  | swrVpc (s : Slot)
  /-- SWR_ELEM_VPC (R401). -/
  | swrElemVpc (s : Slot)
  /-- SWR_PANEL_PREQ (R427). -/
  | swrPanelPreq (s : Slot)
  /-- DBG_READ (R394). -/
  | dbgRead (p : Nat)
  /-- DBG_WRITE (R395). -/
  | dbgWrite (p : Nat)
  /-- DBG_DRAIN (R394). -/
  | dbgDrain (p : Nat)
  /-- DBG_DRAIN_COMPLETE (R394). -/
  | dbgDrainComplete (p : Nat)
  /-- TLBI_VA (R418). -/
  | tlbiVa (s : Slot)
  /-- TLBI_ALL (R418). -/
  | tlbiAll (s : Slot)
  /-- TLBI_PROBE (R417). -/
  | tlbiProbe (s : Slot)
  /-- HTLBI_IPA (R418). -/
  | htlbiIpa (s : Slot)
  /-- HTLBI_ALL (R418). -/
  | htlbiAll (s : Slot)
  /-- CTXSAVE (R405). -/
  | ctxsave (s : Slot)
  /-- CTXLOAD (R405). -/
  | ctxload (s : Slot)
  /-- TEVT (R407). -/
  | tevt (s : Slot)
  /-- IADD (R100). -/
  | iadd (a : Alu)
  /-- ISUB (R100). -/
  | isub (a : Alu)
  /-- IMUL (R100). -/
  | imul (a : Alu)
  /-- IMULH (R100). -/
  | imulh (a : Alu)
  /-- IMAD (R100). -/
  | imad (a : Alu)
  /-- IMADW (R100). -/
  | imadw (a : Alu)
  /-- IDIV (R101). -/
  | idiv (a : Alu)
  /-- IREM (R101). -/
  | irem (a : Alu)
  /-- IMIN (R100). -/
  | imin (a : Alu)
  /-- IMAX (R100). -/
  | imax (a : Alu)
  /-- IABS (R100). -/
  | iabs (a : Alu)
  /-- INEG (R100). -/
  | ineg (a : Alu)
  /-- ICMP (R100). -/
  | icmp (a : Alu)
  /-- SEL (R102). -/
  | sel (a : Alu)
  /-- MOV (R102). -/
  | mov (a : Alu)
  /-- LEA (R102). -/
  | lea (a : Alu)
  /-- AND (R103). -/
  | and (a : Alu)
  /-- OR (R103). -/
  | or (a : Alu)
  /-- XOR (R103). -/
  | xor (a : Alu)
  /-- NOT (R103). -/
  | not (a : Alu)
  /-- ANDN (R103). -/
  | andn (a : Alu)
  /-- SHL (R103). -/
  | shl (a : Alu)
  /-- SHR (R103). -/
  | shr (a : Alu)
  /-- SAR (R103). -/
  | sar (a : Alu)
  /-- ROL (R103). -/
  | rol (a : Alu)
  /-- POPC (R103). -/
  | popc (a : Alu)
  /-- CLZ (R103). -/
  | clz (a : Alu)
  /-- CTZ (R103). -/
  | ctz (a : Alu)
  /-- BREV (R103). -/
  | brev (a : Alu)
  /-- BFX (R104). -/
  | bfx (a : Alu)
  /-- BFI (R104). -/
  | bfi (a : Alu)
  /-- PRMT (R105). -/
  | prmt (a : Alu)
  /-- IADDC (R106). -/
  | iaddc (a : Alu)
  /-- ICLAMP (R100). -/
  | iclamp (a : Alu)
  /-- FADD (R113). -/
  | fadd (a : Alu)
  /-- FSUB (R113). -/
  | fsub (a : Alu)
  /-- FMUL (R113). -/
  | fmul (a : Alu)
  /-- FFMA (R113). -/
  | ffma (a : Alu)
  /-- FMIN (R114). -/
  | fmin (a : Alu)
  /-- FMAX (R114). -/
  | fmax (a : Alu)
  /-- FCMP (R115). -/
  | fcmp (a : Alu)
  /-- FCLS (R116). -/
  | fcls (a : Alu)
  /-- FCLS_TEST (R116). -/
  | fclsTest (a : Alu)
  /-- FRND (R117). -/
  | frnd (a : Alu)
  /-- FSCL (R118). -/
  | fscl (a : Alu)
  /-- FEXT_EXP (R119). -/
  | fextExp (a : Alu)
  /-- FEXT_MANT (R119). -/
  | fextMant (a : Alu)
  /-- FDOT2 (R120). -/
  | fdot2 (a : Alu)
  /-- CVT (R121). -/
  | cvt (a : Alu)
  /-- FRCP (R122). -/
  | frcp (a : Alu)
  /-- FRSQ (R122). -/
  | frsq (a : Alu)
  /-- FSQRT (R122). -/
  | fsqrt (a : Alu)
  /-- FDIV (R125). -/
  | fdiv (a : Alu)
  /-- FEXP2 (R122). -/
  | fexp2 (a : Alu)
  /-- FLOG2 (R122). -/
  | flog2 (a : Alu)
  /-- FSINT (R124). -/
  | fsint (a : Alu)
  /-- FCOST (R124). -/
  | fcost (a : Alu)
  /-- KOP (R152). -/
  | kop (a : Alu)
  /-- KPOP (R153). -/
  | kpop (a : Alu)
  /-- KFFS (R153). -/
  | kffs (a : Alu)
  /-- VOTE (R154). -/
  | vote (a : Alu)
  /-- SHFL (R156). -/
  | shfl (a : Alu)
  /-- PLYRED (R158). -/
  | plyred (a : Alu)
  /-- PLYSCAN (R158). -/
  | plyscan (a : Alu)
  /-- ELECT (R155). -/
  | elect (a : Alu)
  /-- PLYSET (R160). -/
  | plyset (a : Alu)
  /-- BAR_ARV (R146). -/
  | barArv (a : Alu)
  /-- BAR_WAIT (R148). -/
  | barWait (a : Alu)
  /-- BAR_SYNC (R162). -/
  | barSync (a : Alu)
  /-- LD (R220). -/
  | ld (m : Mem)
  /-- ST (R220). -/
  | st (m : Mem)
  /-- ATOM (R221). -/
  | atom (m : Mem)
  /-- RED (R221). -/
  | red (m : Mem)
  /-- CAS (R222). -/
  | cas (m : Mem)
  /-- FENCE (R223). -/
  | fence (m : Mem)
  /-- CINV_LINE (R224). -/
  | cinvLine (m : Mem)
  /-- CINV_ALL (R224). -/
  | cinvAll (m : Mem)
  /-- CWB (R225). -/
  | cwb (m : Mem)
  /-- PREF (R226). -/
  | pref (m : Mem)
  /-- OBRES (R227). -/
  | obres (m : Mem)
  /-- OBREL (R228). -/
  | obrel (m : Mem)
  /-- OBLD (R229). -/
  | obld (m : Mem)
  /-- OBST (R229). -/
  | obst (m : Mem)
  /-- MBI (R232). -/
  | mbi (m : Mem)
  /-- MBA (R233). -/
  | mba (m : Mem)
  /-- MBW (R234). -/
  | mbw (m : Mem)
  /-- MBT (R235). -/
  | mbt (m : Mem)
  /-- RNGNEXT (R192). -/
  | rngnext (m : Mem)
  /-- PIPEPUSH (R189). -/
  | pipepush (m : Mem)
  /-- PIPEPOP (R189). -/
  | pipepop (m : Mem)
  /-- PIPE_SERVE (R189). -/
  | pipeServe (p : Nat) (pipe : Nat)
  /-- CPY (R279). -/
  | cpy (s : Slot) (m : CopyMod)
  /-- COPY_SECTOR_WRITE (R280). -/
  | copySectorWrite (p : Nat) (chan : Fin 8)
  /-- CPTR_PTR (R284). -/
  | cptrPtr (s : Slot) (chan : Fin 8)
  /-- CPTR_TAIL (R284). -/
  | cptrTail (s : Slot) (chan : Fin 8)
  /-- CPTR_RST (R284). -/
  | cptrRst (s : Slot) (chan : Fin 8)
  /-- CPTR_FADR (R284). -/
  | cptrFadr (s : Slot) (chan : Fin 8)
  /-- CPWAIT (R285). -/
  | cpwait (s : Slot) (scope : Scope) (chan : Fin 8)
  /-- XFM (R288). -/
  | xfm (s : Slot) (m : XfmMod)
  /-- XFM_COMPLETE (R287). -/
  | xfmComplete (c : Nat)
  /-- QNT (R290). -/
  | qnt (s : Slot) (m : QntMod)
  /-- DQNT (R291). -/
  | dqnt (s : Slot) (m : QntMod)
  /-- MMA (R299). -/
  | mma (s : Slot)
  /-- MDIST (R315). -/
  | mdist (s : Slot)
  /-- MCACC (R318). -/
  | mcacc (s : Slot)
  /-- MCFIN (R319). -/
  | mcfin (s : Slot)
  /-- ARRAY_START (R186). -/
  | arrayStart (core : Nat)
  /-- MATRIX_TILE_COMPLETE (R300). -/
  | matrixTileComplete (core : Nat) (tile : Nat) (bad : List Nat)
  /-- MWAIT (R308). -/
  | mwait (s : Slot) (h : Fin 16)
  /-- MWAIT_H (R308). -/
  | mwaitH (s : Slot) (h : Fin 16)
  /-- MWAIT_ALL (R308). -/
  | mwaitAll (s : Slot)
  /-- FBIND (R305). -/
  | fbind (s : Slot) (m : FbindMod)
  /-- FBIND_UNB (R305). -/
  | fbindUnb (s : Slot) (n : Fin 8)
  /-- COLL (R462). -/
  | coll (s : Slot) (m : CollMod)
  /-- COLL_MATCH (R464). -/
  | collMatch (op : Nat) (m : CollMeet)
  /-- COLL_COMPLETE (R465). -/
  | collComplete (op : Nat)
  /-- SNAP_X (R328). -/
  | snapX (s : Slot)
  /-- SNAP_Y (R328). -/
  | snapY (s : Slot)
  /-- EDGE (R329). -/
  | edge (s : Slot)
  /-- TRICLS (R330). -/
  | tricls (s : Slot) (cullb : Bool)
  /-- RAST (R331). -/
  | rast (s : Slot)
  /-- RAST_SUBMISSION_ARRIVE (R335). -/
  | rastSubmissionArrive (c : Nat) (n : Nat)
  /-- RAST_FRAGMENT_APPLY (R334). -/
  | rastFragmentApply (c : Nat) (n : Nat)
  /-- TRACE (R343). -/
  | trace (s : Slot) (pcnt : Fin 128)
  /-- TRAVERSAL_FETCH (R344). -/
  | traversalFetch (p : Nat) (n : Nat)
  /-- TRESUME_CONT (R345). -/
  | tresumeCont (s : Slot)
  /-- TRESUME_SHORT (R345). -/
  | tresumeShort (s : Slot)
  /-- TRESUME_COMMIT (R345). -/
  | tresumeCommit (s : Slot)
  /-- TRESUME_END (R345). -/
  | tresumeEnd (s : Slot)
  /-- TRESUME_ABORT (R345). -/
  | tresumeAbort (s : Slot)
  /-- TWAIT (R346). -/
  | twait (s : Slot)
  /-- REPACK (R348). -/
  | repack (s : Slot)
  /-- REPACK_EXECUTE (R348). -/
  | repackExecute (p : Nat)
  /-- SCLK (R357). -/
  | sclk (s : Slot) (m : LookMod)
  /-- SCWAIT (R365). -/
  | scwait (s : Slot)
  /-- SCPOP (R366). -/
  | scpop (s : Slot)
  /-- SCPUB (R367). -/
  | scpub (s : Slot)
  /-- SCINV_DEP (R362). -/
  | scinvDep (s : Slot) (drop : Bool)
  /-- SCINV_KEY (R362). -/
  | scinvKey (s : Slot) (drop : Bool)
  /-- INVALIDATION_VISIT (R362). -/
  | invalidationVisit (w : Nat) (die : Nat) (set : Nat)
  /-- SCSTAMP (R363). -/
  | scstamp (s : Slot)
  /-- SWATCH_TAG_REPAIR (R370). -/
  | swatchTagRepair (die : Nat) (set : Nat) (way : Nat) (read : BitVec 128)
  /-- RESULT_AVAILABLE (R25). -/
  | resultAvailable (p : Nat) (k : Nat)
  /-- VARIABLE_WRITE_LAND (R30). -/
  | variableWriteLand (p : Nat) (k : Nat) (n : Nat)
  /-- TRANSLATION_WALK (R412). -/
  | translationWalk (n : Nat)
  /-- STAGE2_FAULT_RESOLVE (R414). -/
  | stage2FaultResolve (n : Nat) (fix : Option (List (Nat × Dword)))
  /-- PARK_EXPIRE (R95). -/
  | parkExpire (p : Nat) (k : Nat) (l : Nat)
  /-- PARK_ALL_STILL (R95). -/
  | parkAllStill (p : Nat) (k : Nat)
  /-- SKEIN_RETIRE (R94). -/
  | skeinRetire (p : Nat) (k : Nat)
  /-- LAUNCH (R168). -/
  | launch (q : HostReq) (w : Dword)
  /-- LAUNCH_START (R168). -/
  | launchStart (fn : Nat)
  /-- CONTROL_WORD_READ (R177). -/
  | controlWordRead (fn : Nat) (seq : Nat) (node : Nat)
  /-- PATREG (R170). -/
  | patreg (q : HostReq) (w : Dword)
  /-- REGISTRATION_COMPLETE (R487). -/
  | registrationComplete (fn : Nat)
  /-- PATUNREG (R172). -/
  | patunreg (q : HostReq) (w : Dword)
  /-- PANEL_DISPATCH (R183). -/
  | panelDispatch (entry : Nat) (places : List Placement)
  /-- POOL_AGING (R181). -/
  | poolAging (entry : Nat)
  /-- RANGE_SPLIT (R191). -/
  | rangeSplit (p : Nat) (place : Placement)
  /-- PREEMPTION_REQUEST (R426). -/
  | preemptionRequest (entry : Nat)
  /-- COOPERATIVE_SAVE (R427). -/
  | cooperativeSave (p : Nat)
  /-- DEADLINE_EXPIRE (R427). -/
  | deadlineExpire (p : Nat)
  /-- CONTEXT_SAVE_DONE (R431). -/
  | contextSaveDone (p : Nat)
  /-- PANEL_RESUME (R436). -/
  | panelResume (n : Nat) (places : List Placement)
  /-- SLICE_END (R421). -/
  | sliceEnd (c : Nat)
  /-- PARTITION_CHANGE (R438). -/
  | partitionChange (fn : Nat) (clusters : Word) (slices : List (Nat × Nat))
  /-- CORE_REMOVAL (R438). -/
  | coreRemoval (core : Nat)
  /-- PANEL_HALT (R387). -/
  | panelHalt (p : Nat) (k : Nat) (m : HaltReport)
  /-- FAULT_RECORD_WRITE (R423). -/
  | faultRecordWrite (p : Nat)
  /-- TAG_PARITY_ERROR (R442). -/
  | tagParityError (m : TagError)
  /-- FUNCTION_CREATE (R420). -/
  | functionCreate (fn : Nat) (m : FnSetup)
  /-- FUNCTION_LEVEL_RESET (R466). -/
  | functionLevelReset (fn : Nat)
  /-- DIE_LINK_FAILURE (R454). -/
  | dieLinkFailure (a : Nat) (b : Nat)
  /-- POWER_INTERVAL (R476). -/
  | powerInterval (die : Nat) (m : PowerSample)
  /-- THERMAL_TRIP (R478). -/
  | thermalTrip (die : Nat)
  /-- BOOT (R472). -/
  | boot (m : BootMap)
  /-- COLD_RESET (R482). -/
  | coldReset
  /-- WARM_RESET (R482). -/
  | warmReset
  /-- ATTESTATION_REQUEST (R474). -/
  | attestationRequest (fn : Nat) (nonce : List Byte) (m : DoeRequest)
  /-- ROUTE_TABLE_LOAD (R458). -/
  | routeTableLoad (m : RouteLoad)
  /-- HOST_APERTURE_READ (R469). -/
  | hostApertureRead (q : HostReq) (a : BarAddr) (n : Nat)
  /-- HOST_APERTURE_WRITE (R469). -/
  | hostApertureWrite (q : HostReq) (a : BarAddr) (data : List Byte)
  /-- APBASE (R468). -/
  | apbase (q : HostReq) (w : Dword)
  /-- APFAULT (R468). -/
  | apfault (q : HostReq)
  /-- PERFORMED_AT_HOME_L2 (R203). -/
  | performedAtHomeL2 (n : Nat)
  /-- CWB_COMPLETE (R225). -/
  | cwbComplete (n : Nat)
  /-- FABRIC_FAILURE (R464). -/
  | fabricFailure (op : Nat)
deriving DecidableEq, Repr

/-- The slot fields of an instruction word; `none` for an event of the part. -/
def Instr.slot? : Instr → Option Slot
  | .nop s => some s
  | .bra s => some s
  | .brx s => some s
  | .call s => some s
  | .callx s => some s
  | .ret s => some s
  | .exit s => some s
  | .park s => some s
  | .yield s => some s
  | .setfp s _ => some s
  | .syscall s => some s
  | .hcall s => some s
  | .tret s => some s
  | .bkpt s => some s
  | .srd s => some s
  | .srdElem s => some s
  | .swr s => some s
  | .swrFpmode s => some s
  | .swrFpflags s => some s
  | .swrVpc s => some s
  | .swrElemVpc s => some s
  | .swrPanelPreq s => some s
  | .dbgRead _ => Option.none
  | .dbgWrite _ => Option.none
  | .dbgDrain _ => Option.none
  | .dbgDrainComplete _ => Option.none
  | .tlbiVa s => some s
  | .tlbiAll s => some s
  | .tlbiProbe s => some s
  | .htlbiIpa s => some s
  | .htlbiAll s => some s
  | .ctxsave s => some s
  | .ctxload s => some s
  | .tevt s => some s
  | .iadd a => some a.slot
  | .isub a => some a.slot
  | .imul a => some a.slot
  | .imulh a => some a.slot
  | .imad a => some a.slot
  | .imadw a => some a.slot
  | .idiv a => some a.slot
  | .irem a => some a.slot
  | .imin a => some a.slot
  | .imax a => some a.slot
  | .iabs a => some a.slot
  | .ineg a => some a.slot
  | .icmp a => some a.slot
  | .sel a => some a.slot
  | .mov a => some a.slot
  | .lea a => some a.slot
  | .and a => some a.slot
  | .or a => some a.slot
  | .xor a => some a.slot
  | .not a => some a.slot
  | .andn a => some a.slot
  | .shl a => some a.slot
  | .shr a => some a.slot
  | .sar a => some a.slot
  | .rol a => some a.slot
  | .popc a => some a.slot
  | .clz a => some a.slot
  | .ctz a => some a.slot
  | .brev a => some a.slot
  | .bfx a => some a.slot
  | .bfi a => some a.slot
  | .prmt a => some a.slot
  | .iaddc a => some a.slot
  | .iclamp a => some a.slot
  | .fadd a => some a.slot
  | .fsub a => some a.slot
  | .fmul a => some a.slot
  | .ffma a => some a.slot
  | .fmin a => some a.slot
  | .fmax a => some a.slot
  | .fcmp a => some a.slot
  | .fcls a => some a.slot
  | .fclsTest a => some a.slot
  | .frnd a => some a.slot
  | .fscl a => some a.slot
  | .fextExp a => some a.slot
  | .fextMant a => some a.slot
  | .fdot2 a => some a.slot
  | .cvt a => some a.slot
  | .frcp a => some a.slot
  | .frsq a => some a.slot
  | .fsqrt a => some a.slot
  | .fdiv a => some a.slot
  | .fexp2 a => some a.slot
  | .flog2 a => some a.slot
  | .fsint a => some a.slot
  | .fcost a => some a.slot
  | .kop a => some a.slot
  | .kpop a => some a.slot
  | .kffs a => some a.slot
  | .vote a => some a.slot
  | .shfl a => some a.slot
  | .plyred a => some a.slot
  | .plyscan a => some a.slot
  | .elect a => some a.slot
  | .plyset a => some a.slot
  | .barArv a => some a.slot
  | .barWait a => some a.slot
  | .barSync a => some a.slot
  | .ld a => some a.slot
  | .st a => some a.slot
  | .atom a => some a.slot
  | .red a => some a.slot
  | .cas a => some a.slot
  | .fence a => some a.slot
  | .cinvLine a => some a.slot
  | .cinvAll a => some a.slot
  | .cwb a => some a.slot
  | .pref a => some a.slot
  | .obres a => some a.slot
  | .obrel a => some a.slot
  | .obld a => some a.slot
  | .obst a => some a.slot
  | .mbi a => some a.slot
  | .mba a => some a.slot
  | .mbw a => some a.slot
  | .mbt a => some a.slot
  | .rngnext a => some a.slot
  | .pipepush a => some a.slot
  | .pipepop a => some a.slot
  | .pipeServe _ _ => Option.none
  | .cpy s _ => some s
  | .copySectorWrite _ _ => Option.none
  | .cptrPtr s _ => some s
  | .cptrTail s _ => some s
  | .cptrRst s _ => some s
  | .cptrFadr s _ => some s
  | .cpwait s _ _ => some s
  | .xfm s _ => some s
  | .xfmComplete _ => Option.none
  | .qnt s _ => some s
  | .dqnt s _ => some s
  | .mma s => some s
  | .mdist s => some s
  | .mcacc s => some s
  | .mcfin s => some s
  | .arrayStart _ => Option.none
  | .matrixTileComplete _ _ _ => Option.none
  | .mwait s _ => some s
  | .mwaitH s _ => some s
  | .mwaitAll s => some s
  | .fbind s _ => some s
  | .fbindUnb s _ => some s
  | .coll s _ => some s
  | .collMatch _ _ => Option.none
  | .collComplete _ => Option.none
  | .snapX s => some s
  | .snapY s => some s
  | .edge s => some s
  | .tricls s _ => some s
  | .rast s => some s
  | .rastSubmissionArrive _ _ => Option.none
  | .rastFragmentApply _ _ => Option.none
  | .trace s _ => some s
  | .traversalFetch _ _ => Option.none
  | .tresumeCont s => some s
  | .tresumeShort s => some s
  | .tresumeCommit s => some s
  | .tresumeEnd s => some s
  | .tresumeAbort s => some s
  | .twait s => some s
  | .repack s => some s
  | .repackExecute _ => Option.none
  | .sclk s _ => some s
  | .scwait s => some s
  | .scpop s => some s
  | .scpub s => some s
  | .scinvDep s _ => some s
  | .scinvKey s _ => some s
  | .invalidationVisit _ _ _ => Option.none
  | .scstamp s => some s
  | .swatchTagRepair _ _ _ _ => Option.none
  | .resultAvailable _ _ => Option.none
  | .variableWriteLand _ _ _ => Option.none
  | .translationWalk _ => Option.none
  | .stage2FaultResolve _ _ => Option.none
  | .parkExpire _ _ _ => Option.none
  | .parkAllStill _ _ => Option.none
  | .skeinRetire _ _ => Option.none
  | .launch _ _ => Option.none
  | .launchStart _ => Option.none
  | .controlWordRead _ _ _ => Option.none
  | .patreg _ _ => Option.none
  | .registrationComplete _ => Option.none
  | .patunreg _ _ => Option.none
  | .panelDispatch _ _ => Option.none
  | .poolAging _ => Option.none
  | .rangeSplit _ _ => Option.none
  | .preemptionRequest _ => Option.none
  | .cooperativeSave _ => Option.none
  | .deadlineExpire _ => Option.none
  | .contextSaveDone _ => Option.none
  | .panelResume _ _ => Option.none
  | .sliceEnd _ => Option.none
  | .partitionChange _ _ _ => Option.none
  | .coreRemoval _ => Option.none
  | .panelHalt _ _ _ => Option.none
  | .faultRecordWrite _ => Option.none
  | .tagParityError _ => Option.none
  | .functionCreate _ _ => Option.none
  | .functionLevelReset _ => Option.none
  | .dieLinkFailure _ _ => Option.none
  | .powerInterval _ _ => Option.none
  | .thermalTrip _ => Option.none
  | .boot _ => Option.none
  | .coldReset => Option.none
  | .warmReset => Option.none
  | .attestationRequest _ _ _ => Option.none
  | .routeTableLoad _ => Option.none
  | .hostApertureRead _ _ _ => Option.none
  | .hostApertureWrite _ _ _ => Option.none
  | .apbase _ _ => Option.none
  | .apfault _ => Option.none
  | .performedAtHomeL2 _ => Option.none
  | .cwbComplete _ => Option.none
  | .fabricFailure _ => Option.none

/-- The mnemonic of the opcode table. -/
def Instr.mnemonic : Instr → String
  | .nop _ => "NOP"
  | .bra _ => "BRA"
  | .brx _ => "BRX"
  | .call _ => "CALL"
  | .callx _ => "CALLX"
  | .ret _ => "RET"
  | .exit _ => "EXIT"
  | .park _ => "PARK"
  | .yield _ => "YIELD"
  | .setfp _ _ => "SETFP"
  | .syscall _ => "SYSCALL"
  | .hcall _ => "HCALL"
  | .tret _ => "TRET"
  | .bkpt _ => "BKPT"
  | .srd _ => "SRD"
  | .srdElem _ => "SRD_ELEM"
  | .swr _ => "SWR"
  | .swrFpmode _ => "SWR_FPMODE"
  | .swrFpflags _ => "SWR_FPFLAGS"
  | .swrVpc _ => "SWR_VPC"
  | .swrElemVpc _ => "SWR_ELEM_VPC"
  | .swrPanelPreq _ => "SWR_PANEL_PREQ"
  | .dbgRead _ => "DBG_READ"
  | .dbgWrite _ => "DBG_WRITE"
  | .dbgDrain _ => "DBG_DRAIN"
  | .dbgDrainComplete _ => "DBG_DRAIN_COMPLETE"
  | .tlbiVa _ => "TLBI_VA"
  | .tlbiAll _ => "TLBI_ALL"
  | .tlbiProbe _ => "TLBI_PROBE"
  | .htlbiIpa _ => "HTLBI_IPA"
  | .htlbiAll _ => "HTLBI_ALL"
  | .ctxsave _ => "CTXSAVE"
  | .ctxload _ => "CTXLOAD"
  | .tevt _ => "TEVT"
  | .iadd _ => "IADD"
  | .isub _ => "ISUB"
  | .imul _ => "IMUL"
  | .imulh _ => "IMULH"
  | .imad _ => "IMAD"
  | .imadw _ => "IMADW"
  | .idiv _ => "IDIV"
  | .irem _ => "IREM"
  | .imin _ => "IMIN"
  | .imax _ => "IMAX"
  | .iabs _ => "IABS"
  | .ineg _ => "INEG"
  | .icmp _ => "ICMP"
  | .sel _ => "SEL"
  | .mov _ => "MOV"
  | .lea _ => "LEA"
  | .and _ => "AND"
  | .or _ => "OR"
  | .xor _ => "XOR"
  | .not _ => "NOT"
  | .andn _ => "ANDN"
  | .shl _ => "SHL"
  | .shr _ => "SHR"
  | .sar _ => "SAR"
  | .rol _ => "ROL"
  | .popc _ => "POPC"
  | .clz _ => "CLZ"
  | .ctz _ => "CTZ"
  | .brev _ => "BREV"
  | .bfx _ => "BFX"
  | .bfi _ => "BFI"
  | .prmt _ => "PRMT"
  | .iaddc _ => "IADDC"
  | .iclamp _ => "ICLAMP"
  | .fadd _ => "FADD"
  | .fsub _ => "FSUB"
  | .fmul _ => "FMUL"
  | .ffma _ => "FFMA"
  | .fmin _ => "FMIN"
  | .fmax _ => "FMAX"
  | .fcmp _ => "FCMP"
  | .fcls _ => "FCLS"
  | .fclsTest _ => "FCLS_TEST"
  | .frnd _ => "FRND"
  | .fscl _ => "FSCL"
  | .fextExp _ => "FEXT_EXP"
  | .fextMant _ => "FEXT_MANT"
  | .fdot2 _ => "FDOT2"
  | .cvt _ => "CVT"
  | .frcp _ => "FRCP"
  | .frsq _ => "FRSQ"
  | .fsqrt _ => "FSQRT"
  | .fdiv _ => "FDIV"
  | .fexp2 _ => "FEXP2"
  | .flog2 _ => "FLOG2"
  | .fsint _ => "FSINT"
  | .fcost _ => "FCOST"
  | .kop _ => "KOP"
  | .kpop _ => "KPOP"
  | .kffs _ => "KFFS"
  | .vote _ => "VOTE"
  | .shfl _ => "SHFL"
  | .plyred _ => "PLYRED"
  | .plyscan _ => "PLYSCAN"
  | .elect _ => "ELECT"
  | .plyset _ => "PLYSET"
  | .barArv _ => "BAR_ARV"
  | .barWait _ => "BAR_WAIT"
  | .barSync _ => "BAR_SYNC"
  | .ld _ => "LD"
  | .st _ => "ST"
  | .atom _ => "ATOM"
  | .red _ => "RED"
  | .cas _ => "CAS"
  | .fence _ => "FENCE"
  | .cinvLine _ => "CINV_LINE"
  | .cinvAll _ => "CINV_ALL"
  | .cwb _ => "CWB"
  | .pref _ => "PREF"
  | .obres _ => "OBRES"
  | .obrel _ => "OBREL"
  | .obld _ => "OBLD"
  | .obst _ => "OBST"
  | .mbi _ => "MBI"
  | .mba _ => "MBA"
  | .mbw _ => "MBW"
  | .mbt _ => "MBT"
  | .rngnext _ => "RNGNEXT"
  | .pipepush _ => "PIPEPUSH"
  | .pipepop _ => "PIPEPOP"
  | .pipeServe _ _ => "PIPE_SERVE"
  | .cpy _ _ => "CPY"
  | .copySectorWrite _ _ => "COPY_SECTOR_WRITE"
  | .cptrPtr _ _ => "CPTR_PTR"
  | .cptrTail _ _ => "CPTR_TAIL"
  | .cptrRst _ _ => "CPTR_RST"
  | .cptrFadr _ _ => "CPTR_FADR"
  | .cpwait _ _ _ => "CPWAIT"
  | .xfm _ _ => "XFM"
  | .xfmComplete _ => "XFM_COMPLETE"
  | .qnt _ _ => "QNT"
  | .dqnt _ _ => "DQNT"
  | .mma _ => "MMA"
  | .mdist _ => "MDIST"
  | .mcacc _ => "MCACC"
  | .mcfin _ => "MCFIN"
  | .arrayStart _ => "ARRAY_START"
  | .matrixTileComplete _ _ _ => "MATRIX_TILE_COMPLETE"
  | .mwait _ _ => "MWAIT"
  | .mwaitH _ _ => "MWAIT_H"
  | .mwaitAll _ => "MWAIT_ALL"
  | .fbind _ _ => "FBIND"
  | .fbindUnb _ _ => "FBIND_UNB"
  | .coll _ _ => "COLL"
  | .collMatch _ _ => "COLL_MATCH"
  | .collComplete _ => "COLL_COMPLETE"
  | .snapX _ => "SNAP_X"
  | .snapY _ => "SNAP_Y"
  | .edge _ => "EDGE"
  | .tricls _ _ => "TRICLS"
  | .rast _ => "RAST"
  | .rastSubmissionArrive _ _ => "RAST_SUBMISSION_ARRIVE"
  | .rastFragmentApply _ _ => "RAST_FRAGMENT_APPLY"
  | .trace _ _ => "TRACE"
  | .traversalFetch _ _ => "TRAVERSAL_FETCH"
  | .tresumeCont _ => "TRESUME_CONT"
  | .tresumeShort _ => "TRESUME_SHORT"
  | .tresumeCommit _ => "TRESUME_COMMIT"
  | .tresumeEnd _ => "TRESUME_END"
  | .tresumeAbort _ => "TRESUME_ABORT"
  | .twait _ => "TWAIT"
  | .repack _ => "REPACK"
  | .repackExecute _ => "REPACK_EXECUTE"
  | .sclk _ _ => "SCLK"
  | .scwait _ => "SCWAIT"
  | .scpop _ => "SCPOP"
  | .scpub _ => "SCPUB"
  | .scinvDep _ _ => "SCINV_DEP"
  | .scinvKey _ _ => "SCINV_KEY"
  | .invalidationVisit _ _ _ => "INVALIDATION_VISIT"
  | .scstamp _ => "SCSTAMP"
  | .swatchTagRepair _ _ _ _ => "SWATCH_TAG_REPAIR"
  | .resultAvailable _ _ => "RESULT_AVAILABLE"
  | .variableWriteLand _ _ _ => "VARIABLE_WRITE_LAND"
  | .translationWalk _ => "TRANSLATION_WALK"
  | .stage2FaultResolve _ _ => "STAGE2_FAULT_RESOLVE"
  | .parkExpire _ _ _ => "PARK_EXPIRE"
  | .parkAllStill _ _ => "PARK_ALL_STILL"
  | .skeinRetire _ _ => "SKEIN_RETIRE"
  | .launch _ _ => "LAUNCH"
  | .launchStart _ => "LAUNCH_START"
  | .controlWordRead _ _ _ => "CONTROL_WORD_READ"
  | .patreg _ _ => "PATREG"
  | .registrationComplete _ => "REGISTRATION_COMPLETE"
  | .patunreg _ _ => "PATUNREG"
  | .panelDispatch _ _ => "PANEL_DISPATCH"
  | .poolAging _ => "POOL_AGING"
  | .rangeSplit _ _ => "RANGE_SPLIT"
  | .preemptionRequest _ => "PREEMPTION_REQUEST"
  | .cooperativeSave _ => "COOPERATIVE_SAVE"
  | .deadlineExpire _ => "DEADLINE_EXPIRE"
  | .contextSaveDone _ => "CONTEXT_SAVE_DONE"
  | .panelResume _ _ => "PANEL_RESUME"
  | .sliceEnd _ => "SLICE_END"
  | .partitionChange _ _ _ => "PARTITION_CHANGE"
  | .coreRemoval _ => "CORE_REMOVAL"
  | .panelHalt _ _ _ => "PANEL_HALT"
  | .faultRecordWrite _ => "FAULT_RECORD_WRITE"
  | .tagParityError _ => "TAG_PARITY_ERROR"
  | .functionCreate _ _ => "FUNCTION_CREATE"
  | .functionLevelReset _ => "FUNCTION_LEVEL_RESET"
  | .dieLinkFailure _ _ => "DIE_LINK_FAILURE"
  | .powerInterval _ _ => "POWER_INTERVAL"
  | .thermalTrip _ => "THERMAL_TRIP"
  | .boot _ => "BOOT"
  | .coldReset => "COLD_RESET"
  | .warmReset => "WARM_RESET"
  | .attestationRequest _ _ _ => "ATTESTATION_REQUEST"
  | .routeTableLoad _ => "ROUTE_TABLE_LOAD"
  | .hostApertureRead _ _ _ => "HOST_APERTURE_READ"
  | .hostApertureWrite _ _ _ => "HOST_APERTURE_WRITE"
  | .apbase _ _ => "APBASE"
  | .apfault _ => "APFAULT"
  | .performedAtHomeL2 _ => "PERFORMED_AT_HOME_L2"
  | .cwbComplete _ => "CWB_COMPLETE"
  | .fabricFailure _ => "FABRIC_FAILURE"

end Sys2Proof
end

