-- ==== Sys2Proof/Machine/Forms.lean ====
section
/-!
DEFINITION. Sys2Proof/Machine/Forms.lean: what each opcode's encoding allows: types, sub-operations, rounding,
literal rules (R38, R41, R99 to R107, R109, R121, R151, R212, R215) and the system register directory (R396).
-/
namespace Sys2Proof

/-! ## Types -/

/-- The width in bits of one value of a type (R42, R71, R73). -/
def Ty.width : Ty → Nat
  | .i8 | .n8 | .e4m3 | .e5m2 => 8
  | .i16 | .n16 | .f16 | .bf16 => 16
  | .b32 | .i32 | .n32 | .f32 | .f16x2 | .bf16x2 => 32
  | .i64 | .n64 => 64

/-- Integer types whose values are signed (R6). -/
def Ty.signed : Ty → Bool
  | .i8 | .i16 | .i32 | .i64 => true
  | _ => false

/-- The float types of R41's modifier rule. -/
def Ty.isFloat : Ty → Bool
  | .f16 | .bf16 | .f32 | .f16x2 | .bf16x2 | .e4m3 | .e5m2 => true
  | _ => false

/-- The packed float types (R75). -/
def Ty.packed : Ty → Bool
  | .f16x2 | .bf16x2 => true
  | _ => false

/-- "Int" of R99. -/
def intTys : List Ty := [.i8, .i16, .i32, .i64, .n8, .n16, .n32, .n64]
/-- "Wide" of R99. -/
def wideTys : List Ty := [.i32, .n32, .i64, .n64]
/-- "Bits" of R99. -/
def bitTys : List Ty := [.b32, .n64]
/-- "F" of R109. -/
def floatTys : List Ty := [.f32, .f16, .bf16, .f16x2, .bf16x2]
/-- The unpacked float types that are not FP8. -/
def oneFloatTys : List Ty := [.f32, .f16, .bf16]

/-! ## Literals (R36, R38) -/

/-- A source field of the slot holds 0xA6. -/
def Slot.usesLit (s : Slot) : Bool := s.sa == .lit || s.sb == .lit || s.sc == .lit

/-- The LIT rule of R36 for a form that gives LIT no meaning of its own. -/
def Slot.litFree (s : Slot) : Bool := s.usesLit || s.lit == 0

/-- The LIT bits a literal operand of a type must leave zero (R38). -/
def litFits (t : Ty) (lit : Word) : Bool := if t.width ≤ 16 then lit.toNat < 2 ^ t.width else true

/-- PRED = 0 with PNEG = 1 is reserved (R35). -/
def Slot.predOk (s : Slot) : Bool := !(s.pred == 0 && s.pneg)

/-! ## ALU forms -/

/-- What one opcode accepts of the ALU layout (R41). `litA`, `litB`, `litC` are the types at which a literal
operand is read; `ownLit` marks a form that gives LIT a meaning of its own. -/
structure AluForm where
  types : List Ty
  subs : List (Fin 8) := [0]
  scalar : Bool := true
  rnds : List Rnd := [.captured]
  sat : Bool := false
  modA : Bool := false
  modB : Bool := false
  ownLit : Bool := false
deriving DecidableEq, Repr

/-- A literal operand of a field fits the type it is read at. -/
def litFieldOk (f : Src) (t : Ty) (lit : Word) : Bool := f != .lit || litFits t lit

/-- The instruction-word checks of R35, R36, R38 and R41 for an ALU form; `tb` and `tc` are the types at which
the second and third operands read a literal. -/
def AluForm.accepts (f : AluForm) (a : Alu) (tb tc : Ty) : Bool :=
  a.slot.predOk && f.types.contains a.ty && f.subs.contains a.sub && (f.scalar || !a.sf) && f.rnds.contains a.rnd
    && (f.sat || !a.sat) && (a.ty.isFloat || !(a.aneg || a.aabs || a.bneg || a.babs))
    && (f.modA || !(a.aneg || a.aabs)) && (f.modB || !(a.bneg || a.babs))
    && (f.ownLit || (a.slot.litFree && litFieldOk a.slot.sa a.ty a.slot.lit && litFieldOk a.slot.sb tb a.slot.lit
      && litFieldOk a.slot.sc tc a.slot.lit))

/-- The rounding choices of an instruction that takes every mode of the ALU layout but stochastic. -/
def rnds04 : List Rnd := [.captured, .rne, .rtz, .rdn, .rup]
/-- All rounding choices. -/
def rnds05 : List Rnd := [.captured, .rne, .rtz, .rdn, .rup, .sto]
/-- The rounding choices of the special functions (R122). -/
def rnds01 : List Rnd := [.captured, .rne]

/-- IADD, ISUB, IMUL, IMAD, INEG (R100). -/
def formIntSat : AluForm := { types := intTys, sat := true }
/-- IMIN, IMAX, ICLAMP, IDIV, IREM (R100, R101). -/
def formInt : AluForm := { types := intTys }
/-- ICMP (R100). -/
def formIcmp : AluForm := { types := intTys, subs := [0, 1, 2, 3, 4, 5] }
/-- IMULH (R100); `.su` is checked beside it. -/
def formImulh : AluForm := { types := wideTys, subs := [0, 1] }
/-- IMADW (R100). -/
def formImadw : AluForm := { types := [.i32, .n32], sat := true }
/-- IABS (R100). -/
def formIabs : AluForm := { types := [.i8, .i16, .i32, .i64], sat := true }
/-- MOV (R102). -/
def formMov : AluForm := { types := [.n32, .n64, .i64, .f32, .f16x2, .bf16x2], modA := true }
/-- SEL (R102). -/
def formSel : AluForm := { types := [.n32, .n64, .f32] }
/-- LEA (R102). -/
def formLea : AluForm := { types := [.n32, .n64, .i64], subs := [0, 1, 2, 3, 4, 5, 6, 7] }
/-- The logic, shift and count instructions (R103). -/
def formBits : AluForm := { types := bitTys }
/-- BFX (R104). -/
def formBfx : AluForm := { types := bitTys, subs := [0, 1] }
/-- PRMT (R103). -/
def formPrmt : AluForm := { types := [.b32] }
/-- IADDC (R106). -/
def formIaddc : AluForm := { types := [.n32], subs := [0, 1] }
/-- FADD, FSUB, FMUL (R109). -/
def formFarith : AluForm := { types := floatTys, rnds := rnds05, modA := true, modB := true }
/-- FFMA (R109). -/
def formFfma : AluForm := { types := floatTys, rnds := rnds04, modA := true, modB := true }
/-- FMIN, FMAX (R109). -/
def formFminmax : AluForm := { types := floatTys, modA := true, modB := true }
/-- FCMP (R109, R115). -/
def formFcmp : AluForm := { types := oneFloatTys, subs := [0, 1, 2, 3, 4, 5, 6, 7], modA := true, modB := true }
/-- FCLS (R109). -/
def formFcls : AluForm := { types := oneFloatTys, modA := true }
/-- FCLS.TEST (R109). -/
def formFclsTest : AluForm := { types := oneFloatTys, subs := [1], modA := true }
/-- FRND, FSCL (R109). -/
def formFrnd : AluForm := { types := floatTys, rnds := rnds04, modA := true }
/-- FEXT.EXP (R109). -/
def formFextExp : AluForm := { types := oneFloatTys, modA := true }
/-- FEXT.MANT (R109). -/
def formFextMant : AluForm := { types := floatTys, subs := [1], modA := true }
/-- FDOT2 (R109). -/
def formFdot2 : AluForm := { types := [.f16x2, .bf16x2], rnds := rnds04, modA := true, modB := true }
/-- FRCP, FRSQ, FSQRT, FEXP2, FLOG2, FSINT, FCOST (R109). -/
def formSpecial : AluForm := { types := [.f32, .f16], rnds := rnds01, modA := true }
/-- FDIV (R109). -/
def formFdiv : AluForm := { types := [.f32, .f16], rnds := rnds01, modA := true, modB := true }
/-- KOP (R151, R152). -/
def formKop : AluForm := { types := [.b32], subs := [0, 1, 2, 3, 4, 5] }
/-- KPOP (R151). -/
def formKpop : AluForm := { types := [.b32], subs := [0, 1] }
/-- KFFS (R151). -/
def formKffs : AluForm := { types := [.b32], subs := [0, 1, 2] }
/-- VOTE (R151, R154). -/
def formVote : AluForm := { types := [.b32], subs := [0, 1, 2, 3, 4, 5, 6, 7], scalar := false }
/-- SHFL (R151, R156). -/
def formShfl : AluForm := { types := [.b32, .n64], subs := [0, 1, 2, 3, 4, 5], scalar := false }
/-- ELECT (R151). -/
def formElect : AluForm := { types := [.b32], scalar := false }
/-- PLYSET (R151). -/
def formPlyset : AluForm := { types := [.b32], scalar := false, ownLit := true }
/-- BAR with one SUB value (R151). -/
def formBar (n : Fin 8) : AluForm := { types := [.b32], subs := [n], scalar := false, ownLit := true }

/-- The types PLYRED and PLYSCAN accept for each SUB value (R157). -/
def plyTypes (sub : Fin 8) : List Ty :=
  if sub.val < 3 then intTys ++ oneFloatTys else if sub.val < 6 then bitTys else []

/-- The word checks of PLYRED and PLYSCAN (R151, R157); `scan` gives LIT its own meaning (R159). -/
def plyAccepts (a : Alu) (scan : Bool) : Bool :=
  let floatAdd := a.ty.isFloat && a.sub == 0
  let intAdd := intTys.contains a.ty && a.sub == 0
  (plyTypes a.sub).contains a.ty && (a.rnd == .captured || (floatAdd && rnds04.contains a.rnd)) && (intAdd || !a.sat)
    && !a.sf && a.slot.predOk && !(a.aneg || a.aabs || a.bneg || a.babs)
    && (if scan then a.slot.lit.toNat ≤ 1 else a.slot.litFree && litFieldOk a.slot.sa a.ty a.slot.lit)

/-- The source type of CVT from LIT[3:0] (R121). -/
def tyOfCode (n : Nat) : Ty :=
  match n with
  | 0 => .b32 | 1 => .i8 | 2 => .i16 | 3 => .i32 | 4 => .i64 | 5 => .n8 | 6 => .n16 | 7 => .n32
  | 8 => .n64 | 9 => .f16 | 10 => .bf16 | 11 => .f32 | 12 => .f16x2 | 13 => .bf16x2 | 14 => .e4m3 | _ => .e5m2

/-- The forms of CVT (R121). -/
inductive CvtForm where
  | floatFloat | pack | repack | unpack | floatInt | intFloat
deriving DecidableEq, Repr

/-- The form that a pairing of source and destination type names; none for a pairing R121 does not list. -/
def cvtForm (src dst : Ty) : Option CvtForm :=
  let five : List Ty := [.f32, .f16, .bf16, .e4m3, .e5m2]
  if src == dst then none
  else if five.contains src && five.contains dst then some .floatFloat
  else if src == .f32 && dst.packed then some .pack
  else if src.packed && dst.packed then some .repack
  else if src.packed && dst == .f32 then some .unpack
  else if oneFloatTys.contains src && intTys.contains dst then some .floatInt
  else if intTys.contains src && oneFloatTys.contains dst then some .intFloat
  else none

/-- The word checks of CVT (R121). -/
def cvtAccepts (a : Alu) : Bool :=
  a.slot.predOk && a.slot.lit.toNat < 16 &&
  match cvtForm (tyOfCode a.slot.lit.toNat) a.ty with
  | none => false
  | some f =>
    (a.sub == 0 || (a.sub == 1 && f == .unpack))
      && (!(a.aneg || a.aabs) || f == .floatFloat || f == .pack || f == .repack || f == .unpack)
      && (!(a.bneg || a.babs) || f == .pack)

/-- BAR's own layout of LIT (R161). -/
def barLitOk (a : Alu) : Bool :=
  let n := a.slot.lit.toNat
  bits n 31 20 == 0 && bits n 15 11 == 0 && (a.slot.sa == .lit || bits n 19 16 == 0)
    && (a.slot.sb == .lit || bits n 10 0 == 0)

/-! ## Memory forms -/

/-- The scopes a memory access may name (R215). -/
def scopeFits (space : Space) (ord : Ord) (scope : Scope) : Bool :=
  match space, ord with
  | .global, .relaxed => scope == .skein
  | .global, _ => scope != .skein
  | .panel, .relaxed => scope == .skein
  | .panel, _ => scope == .panel
  | .cluster, .relaxed => scope == .skein
  | .cluster, _ => scope == .panel || scope == .cluster
  | .constants, .relaxed => scope == .skein
  | .constants, _ => false
  | .opbuf, .relaxed => scope == .skein
  | .opbuf, _ => scope == .panel

/-- The scopes an atomic may name (R215). -/
def atomScopeFits (space : Space) (scope : Scope) : Bool :=
  match space with
  | .global => true
  | .panel => scope == .skein || scope == .panel
  | .cluster => scope == .skein || scope == .panel || scope == .cluster
  | _ => false

/-- CPOL is legal only with the global and kernel constants spaces (R205, R212). -/
def cpolFits (space : Space) (cpol : Cpol) : Bool := cpol == .plain || space == .global || space == .constants

/-- Every MOD field of the memory layout is zero. -/
def Mem.modZero (m : Mem) : Bool :=
  m.space == .global && m.scope == .skein && m.ord == .relaxed && m.cpol == .plain && m.size == .w8 && m.msub == 0

/-- The kinds an atomic operation allows (R221). -/
def atomKindOk (op : Fin 8) (kind : Nat) (size : Size) : Bool :=
  kind < 3 && !(kind == 2 && size == .w64) &&
  match op.val with
  | 0 | 5 | 6 => true
  | 1 | 2 | 3 | 4 => kind == 0
  | _ => kind < 2

/-! ## System registers (R396) -/

/-- The scope of a system register (R396, R397). -/
inductive RegScope where
  | lane | skein | panel | core | function
deriving DecidableEq, Repr

/-- The least mode an access needs (R396); `never` for the "—" column. -/
inductive Least where
  | user | supervisor | hypervisor | never
deriving DecidableEq, Repr

/-- One row of R396. -/
structure RegRow where
  number : Nat
  scope : RegScope
  wide : Bool
  read : Least
  write : Least
deriving DecidableEq, Repr

/-- The directory of R396 but for vf.grants. -/
def regRows : List RegRow := [
  ⟨0x000, .lane, false, .user, .never⟩, ⟨0x001, .lane, false, .user, .supervisor⟩, ⟨0x002, .lane, false, .user, .never⟩,
  ⟨0x004, .lane, true, .supervisor, .supervisor⟩, ⟨0x006, .lane, true, .supervisor, .supervisor⟩,
  ⟨0x008, .lane, false, .supervisor, .supervisor⟩, ⟨0x009, .lane, false, .supervisor, .supervisor⟩,
  ⟨0x00C, .lane, true, .hypervisor, .hypervisor⟩, ⟨0x00E, .lane, true, .hypervisor, .hypervisor⟩,
  ⟨0x010, .lane, false, .hypervisor, .hypervisor⟩, ⟨0x011, .lane, false, .hypervisor, .hypervisor⟩,
  ⟨0x020, .lane, true, .supervisor, .supervisor⟩,
  ⟨0x100, .skein, false, .user, .user⟩, ⟨0x101, .skein, false, .user, .user⟩, ⟨0x102, .skein, false, .user, .user⟩,
  ⟨0x103, .skein, false, .hypervisor, .hypervisor⟩,
  ⟨0x200, .panel, false, .user, .hypervisor⟩, ⟨0x201, .panel, false, .user, .hypervisor⟩,
  ⟨0x204, .panel, false, .supervisor, .never⟩, ⟨0x205, .panel, false, .supervisor, .never⟩,
  ⟨0x206, .panel, false, .supervisor, .never⟩,
  ⟨0x210, .panel, false, .hypervisor, .hypervisor⟩, ⟨0x211, .panel, false, .hypervisor, .never⟩,
  ⟨0x212, .panel, true, .hypervisor, .hypervisor⟩,
  ⟨0x300, .core, false, .user, .never⟩, ⟨0x302, .core, true, .user, .never⟩,
  ⟨0x400, .function, true, .supervisor, .hypervisor⟩, ⟨0x402, .function, false, .supervisor, .hypervisor⟩,
  ⟨0x403, .function, false, .supervisor, .hypervisor⟩, ⟨0x404, .function, true, .supervisor, .hypervisor⟩,
  ⟨0x406, .function, true, .supervisor, .hypervisor⟩, ⟨0x408, .function, false, .supervisor, .never⟩,
  ⟨0x409, .function, false, .supervisor, .hypervisor⟩, ⟨0x40A, .function, false, .supervisor, .never⟩,
  ⟨0x40B, .function, false, .supervisor, .never⟩]

/-- The row of a register number; `none` for an unassigned number (R396). (log entry 19: DEDUCED) -/
def regRow (n : Nat) : Option RegRow :=
  if 0x440 ≤ n ∧ n ≤ 0x47F then some ⟨n, .function, false, .supervisor, .hypervisor⟩
  else regRows.find? fun r => r.number == n

/-- The number an SRD or SWR names, LIT[11:0]. -/
def Slot.regNumber (s : Slot) : Nat := s.lit.toNat

/-- SRD may name the register (R399). -/
def srdOk (s : Slot) : Bool := (regRow s.regNumber).isSome

/-- SWR may name the register (R399). -/
def swrOk (s : Slot) : Bool :=
  match regRow s.regNumber with
  | some r => r.write != .never
  | none => false

end Sys2Proof
end

