-- ==== Sys2Proof/WellFormed.lean ====
section
/-!
DEFINITION. Sys2Proof/WellFormed.lean: the checks of the instruction-word step that depend on the slot alone
(R9 step 1, R35, R36, R38, R41, R43, R44); a slot that fails one is refused by the decoder and traps ILLOP.
-/
namespace Sys2Proof

/-- The MOD fields a plain load may hold (R212, R215). -/
def ldOk (m : Mem) : Bool :=
  m.space != .opbuf && (m.ord == .relaxed || m.ord == .acquire) && scopeFits m.space m.ord m.scope
    && cpolFits m.space m.cpol && (m.msub == 0 || (m.msub == 1 && (m.size == .w8 || m.size == .w16)))

/-- The MOD fields a plain store may hold (R212, R215). -/
def stOk (m : Mem) : Bool :=
  (m.space == .global || m.space == .panel || m.space == .cluster) && (m.ord == .relaxed || m.ord == .release)
    && scopeFits m.space m.ord m.scope && cpolFits m.space m.cpol && m.msub == 0

/-- The MOD fields an atomic may hold (R212, R215). -/
def atomOk (m : Mem) : Bool :=
  (m.space == .global || m.space == .panel || m.space == .cluster) && atomScopeFits m.space m.scope
    && m.cpol == .plain && (m.size == .w32 || m.size == .w64)

/-- The MOD fields of OBLD and OBST (R212, R229). -/
def obOk (m : Mem) : Bool :=
  m.space == .opbuf && scopeFits m.space m.ord m.scope && m.cpol == .plain
    && (m.size == .w32 || m.size == .w64 || m.size == .w128) && m.msub == 0 && bits m.slot.lit.toNat 27 19 == 0

/-- The MOD fields of the memory barrier instructions (R212). -/
def mbOk (m : Mem) : Bool :=
  (m.space == .panel || m.space == .cluster) && m.ord == .relaxed && m.cpol == .plain && m.size == .w8 && m.msub == 0

/-- A completion object's LIT: without an object LIT has no meaning (R277). -/
def objLitOk (s : Slot) (mbs : ObjSpace) : Bool := mbs != .none || s.litFree

/-- FMT in LIT for QNT and DQNT (R290). -/
def qntLitOk (s : Slot) : Bool := 10 ≤ s.lit.toNat && s.lit.toNat ≤ 13

/-- LIT[2:0] of a branch names a slot (R44). -/
def branchLitOk (s : Slot) : Bool := bits s.lit.toNat 2 0 ≤ 4

/-- The instruction-word checks on the slot alone. An event is no slot and has none. (log entry 86: DESIGN CHOICE) -/
def Instr.wf : Instr → Bool
  | .nop s | .brx s | .callx s | .ret s | .exit s | .yield s | .tret s | .ctxsave s | .ctxload s
  | .tlbiVa s | .tlbiAll s | .tlbiProbe s | .htlbiIpa s | .htlbiAll s
  | .mma s | .mdist s | .mcacc s | .mcfin s | .fbind s _ | .fbindUnb s _
  | .edge s | .rast s | .trace s _ | .tresumeCont s | .tresumeShort s | .tresumeCommit s
  | .tresumeEnd s | .tresumeAbort s | .twait s | .sclk s _ | .scwait s | .scpop s | .scpub s | .scinvDep s _
  | .scinvKey s _ | .scstamp s | .cptrPtr s _ | .cptrTail s _ | .cptrRst s _ | .cptrFadr s _ | .cpwait s _ _ =>
    s.predOk && s.litFree
  | .snapX s | .snapY s => s.predOk && (s.sb == .lit || s.lit == 0)
  | .mwaitH s _ | .mwaitAll s => s.predOk && s.lit == 0
  | .bra s | .call s => s.predOk && branchLitOk s
  | .park s | .syscall s | .hcall s | .bkpt s => s.predOk
  | .setfp s m => s.predOk && s.litFree && (m.wftz || m.wrm)
  | .tevt s => s.predOk && decide (s.lit.toNat < 2 ^ 16)
  | .srd s => s.predOk && srdOk s
  | .srdElem s => s.predOk && s.regNumber == 0x020
  | .swr s => s.predOk && swrOk s && !([0x020, 0x100, 0x101, 0x200].contains s.regNumber)
  | .swrFpmode s => s.predOk && s.regNumber == 0x100
  | .swrFpflags s => s.predOk && s.regNumber == 0x101
  | .swrVpc s => s.predOk && s.regNumber == 0x020
  | .swrElemVpc s => s.predOk && s.regNumber == 0x020
  | .swrPanelPreq s => s.predOk && s.regNumber == 0x200
  | .iadd a | .isub a | .imul a | .imad a | .ineg a => formIntSat.accepts a a.ty a.ty
  | .imulh a => formImulh.accepts a a.ty a.ty && (a.sub == 0 || a.ty == .i32 || a.ty == .i64)
  | .imadw a => formImadw.accepts a a.ty .n32
  | .idiv a | .irem a | .imin a | .imax a | .iclamp a => formInt.accepts a a.ty a.ty
  | .iabs a => formIabs.accepts a a.ty a.ty
  | .icmp a => formIcmp.accepts a a.ty a.ty
  | .sel a => formSel.accepts a a.ty .n32
  | .mov a => formMov.accepts a a.ty a.ty
  | .lea a => formLea.accepts a .n32 .n32
  | .and a | .or a | .xor a | .not a | .andn a | .popc a | .clz a | .ctz a | .brev a => formBits.accepts a a.ty a.ty
  | .shl a | .shr a | .sar a | .rol a => formBits.accepts a .n32 .n32
  | .bfx a => formBfx.accepts a .n32 .n32
  | .bfi a => formBits.accepts a a.ty .n32
  | .prmt a => formPrmt.accepts a .b32 .b32
  | .iaddc a => formIaddc.accepts a .n32 .n32
  | .fadd a | .fsub a | .fmul a => formFarith.accepts a a.ty .n32
  | .ffma a => formFfma.accepts a a.ty a.ty
  | .fmin a | .fmax a => formFminmax.accepts a a.ty a.ty
  | .fcmp a => formFcmp.accepts a a.ty a.ty
  | .fcls a => formFcls.accepts a a.ty a.ty
  | .fclsTest a => formFclsTest.accepts a .n32 .n32
  | .frnd a => formFrnd.accepts a a.ty a.ty
  | .fscl a => formFrnd.accepts a .i32 .i32
  | .fextExp a => formFextExp.accepts a a.ty a.ty
  | .fextMant a => formFextMant.accepts a a.ty a.ty
  | .fdot2 a => formFdot2.accepts a a.ty .f32
  | .cvt a => cvtAccepts a
  | .frcp a | .frsq a | .fsqrt a | .fexp2 a | .flog2 a | .fsint a | .fcost a => formSpecial.accepts a a.ty a.ty
  | .fdiv a => formFdiv.accepts a a.ty a.ty
  | .kop a => formKop.accepts a .b32 .b32
  | .kpop a => formKpop.accepts a .b32 .b32
  | .kffs a => formKffs.accepts a .b32 .b32
  | .vote a => formVote.accepts a .b32 .b32
  | .shfl a => formShfl.accepts a .n32 .n32
  | .plyred a => plyAccepts a false
  | .plyscan a => plyAccepts a true
  | .elect a => formElect.accepts a .b32 .b32
  | .plyset a => formPlyset.accepts a .b32 .b32 && [2, 4, 8, 16, 32].contains a.slot.lit.toNat
  | .barArv a => (formBar 0).accepts a .b32 .b32 && barLitOk a
  | .barWait a => (formBar 1).accepts a .b32 .b32 && barLitOk a
  | .barSync a => (formBar 2).accepts a .b32 .b32 && barLitOk a
  | .ld m => m.slot.predOk && ldOk m
  | .st m => m.slot.predOk && stOk m
  | .atom m => m.slot.predOk && atomOk m && atomKindOk m.msub (bits m.slot.lit.toNat 31 30) m.size
  | .red m => m.slot.predOk && atomOk m && (m.ord == .relaxed || m.ord == .release)
      && atomKindOk m.msub (bits m.slot.lit.toNat 31 30) m.size
  | .cas m => m.slot.predOk && atomOk m && m.msub == 0 && bits m.slot.lit.toNat 31 30 == 0
  | .fence m => m.slot.predOk && m.space == .global && m.ord != .relaxed && m.cpol == .plain && m.size == .w8
      && m.msub == 0 && m.slot.lit == 0
  | .cinvLine m => m.slot.predOk && (m.space == .global || m.space == .constants) && m.scope == .skein
      && m.ord == .relaxed && m.cpol == .plain && m.size == .w8 && m.msub == 0
  | .cinvAll m => m.slot.predOk && (m.space == .global || m.space == .constants) && m.scope == .skein
      && m.ord == .relaxed && m.cpol == .plain && m.size == .w8 && m.msub == 1 && m.slot.lit == 0
  | .cwb m => m.slot.predOk && m.modZero
  | .pref m => m.slot.predOk && (m.space == .global || m.space == .constants) && m.scope == .skein
      && m.ord == .relaxed && m.cpol == .plain && m.size == .w8 && (m.msub == 0 || m.msub == 1)
  | .obres m | .obrel m => m.slot.predOk && m.modZero && decide (m.slot.lit.toNat < 16)
  | .obld m => m.slot.predOk && obOk m && (m.ord == .relaxed || m.ord == .acquire)
  | .obst m => m.slot.predOk && obOk m && (m.ord == .relaxed || m.ord == .release)
  | .mbi m => m.slot.predOk && mbOk m && m.scope == .skein
  | .mba m | .mbw m | .mbt m => m.slot.predOk && mbOk m
  | .rngnext m => m.slot.predOk && m.modZero && m.slot.litFree
  | .pipepush m | .pipepop m => m.slot.predOk && m.modZero && decide (m.slot.lit.toNat < 8)
  | .cpy s m => s.predOk && m.dsp != .constants && (m.trn == .none || m.form != .linear)
      && (m.form != .records || (m.ssp == .global && m.dsp == .global)) && objLitOk s m.mbs
  | .xfm s m => s.predOk && rnds04.contains m.rnd && (m.rnd == .captured || m.op == 4 || m.op == 5 || m.op == 6)
      && (!m.sat || m.op == 6) && objLitOk s m.mbs
  | .qnt s m => s.predOk && oneFloatTys.contains m.ty && rnds05.contains m.rnd && qntLitOk s
  | .dqnt s m => s.predOk && oneFloatTys.contains m.ty && rnds04.contains m.rnd && qntLitOk s
  | .mwait s _ => s.predOk && decide (s.lit.toNat ≤ 47)
  | .coll s m => s.predOk && (m.rop == .add || m.cop == .allReduce || m.cop == .reduceScatter)
      && [Ty.i32, .n32, .f16, .bf16, .f32].contains m.ety && objLitOk s m.mbs
  | .tricls s _ => s.predOk && decide (1 ≤ s.lit.toNat) && decide (s.lit.toNat ≤ 255)
  | .repack s => s.pred == 0 && !s.pneg && s.litFree
  | .dbgRead _ | .dbgWrite _ | .dbgDrain _ | .dbgDrainComplete _ | .pipeServe _ _ | .copySectorWrite _ _
  | .xfmComplete _ | .arrayStart _ | .matrixTileComplete _ _ _ | .collMatch _ _ | .collComplete _
  | .rastSubmissionArrive _ _ | .rastFragmentApply _ _ | .traversalFetch _ _ | .repackExecute _
  | .invalidationVisit _ _ _ | .swatchTagRepair _ _ _ _ | .resultAvailable _ _ | .variableWriteLand _ _ _
  | .translationWalk _ | .stage2FaultResolve _ _ | .parkExpire _ _ _ | .parkAllStill _ _ | .skeinRetire _ _
  | .launch _ _ | .launchStart _ | .controlWordRead _ _ _ | .patreg _ _ | .registrationComplete _ | .patunreg _ _
  | .panelDispatch _ _ | .poolAging _ | .rangeSplit _ _ | .preemptionRequest _ | .cooperativeSave _
  | .deadlineExpire _ | .contextSaveDone _ | .panelResume _ _ | .sliceEnd _ | .partitionChange _ _ _ | .coreRemoval _
  | .panelHalt _ _ _ | .faultRecordWrite _ | .tagParityError _ | .functionCreate _ _ | .functionLevelReset _
  | .dieLinkFailure _ _ | .powerInterval _ _ | .thermalTrip _ | .boot _ | .coldReset | .warmReset
  | .attestationRequest _ _ _ | .routeTableLoad _ | .hostApertureRead _ _ _ | .hostApertureWrite _ _ _ | .apbase _ _
  | .apfault _ | .performedAtHomeL2 _ | .cwbComplete _ | .fabricFailure _ => true

end Sys2Proof
end

