-- ==== Sys2Proof/Decode.lean ====
section
/-!
DEFINITION. Sys2Proof/Decode.lean: from the 96 bits of a slot to an instruction or a named refusal, and back
(spec/02_instruction_words.md R34 to R44, R53, and the encoding table of each instruction).
-/
namespace Sys2Proof

/-- Why the decoder refuses a slot. Every one of them traps ILLOP at the instruction-word step (R9, R52). -/
inductive DecodeError where
  | reservedOpcode
  | badModifier
  | illFormed
deriving DecidableEq, Repr

/-- The fields of a slot as numbers (R34). -/
structure Raw where
  op : Nat
  stall : Nat
  pred : Nat
  pneg : Nat
  dst : Nat
  sa : Nat
  sb : Nat
  sc : Nat
  mod : Nat
  lit : Nat
deriving DecidableEq, Repr

/-- The 96-bit number of the fields, OP most significant (R34). -/
def Raw.toNat (r : Raw) : Nat :=
  ((((((((r.op * 16 + r.stall) * 8 + r.pred) * 2 + r.pneg) * 256 + r.dst) * 256 + r.sa) * 256 + r.sb) * 256 + r.sc)
    * 65536 + r.mod) * 4294967296 + r.lit

/-- The fields of a 96-bit number. -/
def Raw.ofNat (n : Nat) : Raw where
  lit := n % 4294967296
  mod := n / 4294967296 % 65536
  sc := n / 4294967296 / 65536 % 256
  sb := n / 4294967296 / 65536 / 256 % 256
  sa := n / 4294967296 / 65536 / 256 / 256 % 256
  dst := n / 4294967296 / 65536 / 256 / 256 / 256 % 256
  pneg := n / 4294967296 / 65536 / 256 / 256 / 256 / 256 % 2
  pred := n / 4294967296 / 65536 / 256 / 256 / 256 / 256 / 2 % 8
  stall := n / 4294967296 / 65536 / 256 / 256 / 256 / 256 / 2 / 8 % 16
  op := n / 4294967296 / 65536 / 256 / 256 / 256 / 256 / 2 / 8 / 16 % 256

/-! ## Specifiers -/

/-- The source specifier of a code (R37). -/
def srcOfCode (n : Nat) : Src :=
  if n < 0x80 then .v (Fin.ofNat 128 n) else if n < 0x90 then .q (Fin.ofNat 16 (n - 0x80))
  else if n < 0x98 then .k (Fin.ofNat 8 (n - 0x90)) else if n < 0xA0 then .f (Fin.ofNat 8 (n - 0x98))
  else if n = 0xA0 then .lane else if n = 0xA1 then .skeinIx else if n = 0xA2 then .plyIx else if n = 0xA3 then .plyLane
  else if n = 0xA4 then .origin else if n = 0xA5 then .zero else if n = 0xA6 then .lit
  else if n < 0xB0 then .reserved (Fin.ofNat 9 (n - 0xA7)) else if n < 0xB8 then .t (Fin.ofNat 8 (n - 0xB0))
  else if n < 0xC0 then .x (Fin.ofNat 8 (n - 0xB8)) else .s (Fin.ofNat 64 (n - 0xC0))

/-- The code of a source specifier (R37). -/
def srcCode : Src → Nat
  | .v n => n.val
  | .q n => 0x80 + n.val
  | .k n => 0x90 + n.val
  | .f n => 0x98 + n.val
  | .lane => 0xA0
  | .skeinIx => 0xA1
  | .plyIx => 0xA2
  | .plyLane => 0xA3
  | .origin => 0xA4
  | .zero => 0xA5
  | .lit => 0xA6
  | .reserved n => 0xA7 + n.val
  | .t n => 0xB0 + n.val
  | .x n => 0xB8 + n.val
  | .s n => 0xC0 + n.val

/-- The destination specifier of a code (R39). -/
def dstOfCode (n : Nat) : Dst :=
  if n < 0x80 then .v (Fin.ofNat 128 n) else if n < 0x90 then .q (Fin.ofNat 16 (n - 0x80))
  else if n < 0x98 then .k (Fin.ofNat 8 (n - 0x90)) else if n < 0xA0 then .f (Fin.ofNat 8 (n - 0x98))
  else if n < 0xB0 then .index (Fin.ofNat 16 (n - 0xA0)) else if n < 0xB8 then .t (Fin.ofNat 8 (n - 0xB0))
  else if n < 0xC0 then .x (Fin.ofNat 8 (n - 0xB8)) else if n < 0xFE then .s (Fin.ofNat 62 (n - 0xC0))
  else if n = 0xFE then .push else .none

/-- The code of a destination specifier (R39). -/
def dstCode : Dst → Nat
  | .v n => n.val
  | .q n => 0x80 + n.val
  | .k n => 0x90 + n.val
  | .f n => 0x98 + n.val
  | .index n => 0xA0 + n.val
  | .t n => 0xB0 + n.val
  | .x n => 0xB8 + n.val
  | .s n => 0xC0 + n.val
  | .push => 0xFE
  | .none => 0xFF

/-! ## MOD fields -/

/-- The type code of R42. -/
def tyCode : Ty → Nat
  | .b32 => 0 | .i8 => 1 | .i16 => 2 | .i32 => 3 | .i64 => 4 | .n8 => 5 | .n16 => 6 | .n32 => 7
  | .n64 => 8 | .f16 => 9 | .bf16 => 10 | .f32 => 11 | .f16x2 => 12 | .bf16x2 => 13 | .e4m3 => 14 | .e5m2 => 15

/-- RND (R41). -/
def rndOfCode : Nat → Option Rnd
  | 0 => some .captured | 1 => some .rne | 2 => some .rtz | 3 => some .rdn | 4 => some .rup | 5 => some .sto
  | _ => none

/-- The code of RND (R41). -/
def rndCode : Rnd → Nat
  | .captured => 0 | .rne => 1 | .rtz => 2 | .rdn => 3 | .rup => 4 | .sto => 5

/-- SPACE (R43). -/
def spaceOfCode : Nat → Option Space
  | 0 => some .global | 1 => some .panel | 2 => some .cluster | 3 => some .constants | 4 => some .opbuf | _ => none

/-- The code of SPACE (R43). -/
def spaceCode : Space → Nat
  | .global => 0 | .panel => 1 | .cluster => 2 | .constants => 3 | .opbuf => 4

/-- SCOPE (R43). -/
def scopeOfCode : Nat → Option Scope
  | 0 => some .skein | 1 => some .panel | 2 => some .cluster | 3 => some .die | 4 => some .tenant | 5 => some .device
  | 6 => some .system | _ => none

/-- The code of SCOPE (R43). -/
def scopeCode : Scope → Nat
  | .skein => 0 | .panel => 1 | .cluster => 2 | .die => 3 | .tenant => 4 | .device => 5 | .system => 6

/-- ORD (R43). -/
def ordOfCode : Nat → Ord
  | 0 => .relaxed | 1 => .acquire | 2 => .release | _ => .acqRel

/-- The code of ORD (R43). -/
def ordCode : Ord → Nat
  | .relaxed => 0 | .acquire => 1 | .release => 2 | .acqRel => 3

/-- CPOL (R43). -/
def cpolOfCode : Nat → Cpol
  | 0 => .plain | 1 => .evictFirst | 2 => .bypass | _ => .evictLast

/-- The code of CPOL (R43). -/
def cpolCode : Cpol → Nat
  | .plain => 0 | .evictFirst => 1 | .bypass => 2 | .evictLast => 3

/-- SIZE (R43). -/
def sizeOfCode : Nat → Option Size
  | 0 => some .w8 | 1 => some .w16 | 2 => some .w32 | 3 => some .w64 | 4 => some .w128 | _ => none

/-- The code of SIZE (R43). -/
def sizeCode : Size → Nat
  | .w8 => 0 | .w16 => 1 | .w32 => 2 | .w64 => 3 | .w128 => 4

/-- MBS (R277). -/
def mbsOfCode : Nat → Option ObjSpace
  | 0 => some .none | 1 => some .panel | 2 => some .cluster | _ => Option.none

/-- The code of MBS (R277). -/
def mbsCode : ObjSpace → Nat
  | .none => 0 | .panel => 1 | .cluster => 2

/-- FORM of CPY (R277). -/
def formOfCode : Nat → Option CopyForm
  | 0 => some .linear | 1 => some .shape | 2 => some .records | _ => none

/-- The code of FORM (R277). -/
def formCode : CopyForm → Nat
  | .linear => 0 | .shape => 1 | .records => 2

/-- TRN of CPY (R277). -/
def trnOfCode : Nat → Option Trn
  | 0 => some .none | 1 => some .bytes | 2 => some .halves | _ => Option.none

/-- The code of TRN (R277). -/
def trnCode : Trn → Nat
  | .none => 0 | .bytes => 1 | .halves => 2

/-- COP of COLL (R460). -/
def copOfCode : Nat → Cop
  | 0 => .allReduce | 1 => .reduceScatter | 2 => .allGather | _ => .broadcast

/-- The code of COP (R460). -/
def copCode : Cop → Nat
  | .allReduce => 0 | .reduceScatter => 1 | .allGather => 2 | .broadcast => 3

/-- ROP of COLL (R460). -/
def ropOfCode : Nat → Option Rop
  | 0 => some .add | 1 => some .min | 2 => some .max | _ => none

/-- The code of ROP (R460). -/
def ropCode : Rop → Nat
  | .add => 0 | .min => 1 | .max => 2

/-- The slot fields outside OP and MOD. -/
def Raw.slot (r : Raw) : Slot where
  stall := Fin.ofNat 16 r.stall
  pred := Fin.ofNat 8 r.pred
  pneg := r.pneg == 1
  dst := dstOfCode r.dst
  sa := srcOfCode r.sa
  sb := srcOfCode r.sb
  sc := srcOfCode r.sc
  lit := BitVec.ofNat 32 r.lit

/-- MOD under the ALU layout (R41); `none` for RND 6 or 7. -/
def Raw.alu (r : Raw) : Option Alu :=
  (rndOfCode (r.mod / 256 % 8)).map fun rnd =>
    { slot := r.slot, sf := r.mod / 32768 % 2 == 1, ty := tyOfCode (r.mod / 2048 % 16), rnd := rnd
      sat := r.mod / 128 % 2 == 1, sub := Fin.ofNat 8 (r.mod / 16 % 8), aneg := r.mod / 8 % 2 == 1
      aabs := r.mod / 4 % 2 == 1, bneg := r.mod / 2 % 2 == 1, babs := r.mod % 2 == 1 }

/-- MOD under the memory layout (R43); `none` for a reserved SPACE, SCOPE or SIZE. -/
def Raw.memory (r : Raw) : Option Mem :=
  match spaceOfCode (r.mod / 8192 % 8), scopeOfCode (r.mod / 1024 % 8), sizeOfCode (r.mod / 8 % 8) with
  | some sp, some sc, some sz =>
    some { slot := r.slot, space := sp, scope := sc, ord := ordOfCode (r.mod / 256 % 4)
           cpol := cpolOfCode (r.mod / 64 % 4), size := sz, msub := Fin.ofNat 8 (r.mod % 8) }
  | _, _, _ => none

/-- MOD of CPY (R277). -/
def cpyMod (m : Nat) : Option CopyMod :=
  match spaceOfCode (m / 8192 % 8), spaceOfCode (m / 1024 % 8), formOfCode (m / 256 % 4), trnOfCode (m / 8 % 4),
    mbsOfCode (m / 2 % 4), m % 2 with
  | some a, some b, some f, some t, some o, 0 => some ⟨a, b, f, Fin.ofNat 8 (m / 32 % 8), t, o⟩
  | _, _, _, _, _, _ => none

/-- The code of CPY's MOD (R277). -/
def cpyCode (m : CopyMod) : Nat :=
  spaceCode m.ssp * 8192 + spaceCode m.dsp * 1024 + formCode m.form * 256 + m.chan.val * 32 + trnCode m.trn * 8
    + mbsCode m.mbs * 2

/-- MOD of XFM (R286). -/
def xfmMod (m : Nat) : Option XfmMod :=
  match rndOfCode (m / 1024 % 8), m / 8 % 64, mbsOfCode (m / 2 % 4), m % 2 with
  | some r, 0, some o, 0 => some ⟨Fin.ofNat 8 (m / 8192 % 8), r, m / 512 % 2 == 1, o⟩
  | _, _, _, _ => none

/-- The code of XFM's MOD (R286). -/
def xfmCode (m : XfmMod) : Nat :=
  m.op.val * 8192 + rndCode m.rnd * 1024 + m.sat.toNat * 512 + mbsCode m.mbs * 2

/-- MOD of QNT and DQNT (R290, R291). -/
def qntMod (m : Nat) : Option QntMod :=
  match m / 32768 % 2, rndOfCode (m / 256 % 8), m % 256 with
  | 0, some r, 0 => some ⟨tyOfCode (m / 2048 % 16), r⟩
  | _, _, _ => none

/-- The code of MOD for QNT and DQNT (R290). -/
def qntCode (m : QntMod) : Nat := tyCode m.ty * 2048 + rndCode m.rnd * 256

/-- MOD of COLL (R460). -/
def collMod (m : Nat) : Option CollMod :=
  match ropOfCode (m / 2048 % 8), m / 8 % 16, mbsOfCode (m / 2 % 4), m % 2 with
  | some r, 0, some o, 0 => some ⟨copOfCode (m / 16384 % 4), r, tyOfCode (m / 128 % 16), o⟩
  | _, _, _, _ => none

/-- The code of COLL's MOD (R460). -/
def collCode (m : CollMod) : Nat :=
  copCode m.cop * 16384 + ropCode m.rop * 2048 + tyCode m.ety * 128 + mbsCode m.mbs * 2

/-- CTL of SETFP (R98). -/
def setfpCode (m : FpSet) : Nat := m.wftz.toNat * 32 + m.wrm.toNat * 16 + m.ftz.toNat * 4 + m.rm.val

/-! ## The decoder -/

/-- A form whose MOD must be zero. -/
def plain (r : Raw) (i : Instr) : Except DecodeError Instr := if r.mod = 0 then .ok i else .error .badModifier

/-- A form with the ALU layout. -/
def withAlu (r : Raw) (k : Alu → Instr) : Except DecodeError Instr :=
  match r.alu with
  | some a => .ok (k a)
  | none => .error .badModifier

/-- A form with the memory layout. -/
def withMem (r : Raw) (k : Mem → Instr) : Except DecodeError Instr :=
  match r.memory with
  | some m => .ok (k m)
  | none => .error .badModifier

/-- A form with a MOD layout of its own. -/
def withMod {α : Type} (m : Option α) (k : α → Instr) : Except DecodeError Instr :=
  match m with
  | some m => .ok (k m)
  | none => .error .badModifier

/-- SETFP (R98). -/
def parseSetfp (r : Raw) : Except DecodeError Instr :=
  if r.mod / 64 = 0 ∧ r.mod / 8 % 2 = 0 then
    .ok (.setfp r.slot ⟨r.mod / 32 % 2 == 1, r.mod / 16 % 2 == 1, r.mod / 4 % 2 == 1, Fin.ofNat 4 (r.mod % 4)⟩)
  else .error .badModifier

/-- SRD and its element form (R399). -/
def parseSrd (r : Raw) : Except DecodeError Instr :=
  match r.mod with
  | 0 => .ok (.srd r.slot)
  | 1 => .ok (.srdElem r.slot)
  | _ => .error .badModifier

/-- SWR, its element form and the registers whose writes have rows of their own (R399, R401). -/
def parseSwr (r : Raw) : Except DecodeError Instr :=
  match r.mod with
  | 0 =>
    match r.lit with
    | 0x020 => .ok (.swrVpc r.slot)
    | 0x100 => .ok (.swrFpmode r.slot)
    | 0x101 => .ok (.swrFpflags r.slot)
    | 0x200 => .ok (.swrPanelPreq r.slot)
    | _ => .ok (.swr r.slot)
  | 1 => .ok (.swrElemVpc r.slot)
  | _ => .error .badModifier

/-- TLBI (R416). -/
def parseTlbi (r : Raw) : Except DecodeError Instr :=
  match r.mod with
  | 0 => .ok (.tlbiVa r.slot)
  | 1 => .ok (.tlbiAll r.slot)
  | 2 => .ok (.tlbiProbe r.slot)
  | _ => .error .badModifier

/-- HTLBI (R416). -/
def parseHtlbi (r : Raw) : Except DecodeError Instr :=
  match r.mod with
  | 0 => .ok (.htlbiIpa r.slot)
  | 1 => .ok (.htlbiAll r.slot)
  | _ => .error .badModifier

/-- CPTR (R284). -/
def parseCptr (r : Raw) : Except DecodeError Instr :=
  let c : Fin 8 := Fin.ofNat 8 (r.mod / 32 % 8)
  if r.mod / 256 = 0 ∧ r.mod / 4 % 8 = 0 then
    match r.mod % 4 with
    | 0 => .ok (.cptrPtr r.slot c)
    | 1 => .ok (.cptrTail r.slot c)
    | 2 => .ok (.cptrRst r.slot c)
    | _ => .ok (.cptrFadr r.slot c)
  else .error .badModifier

/-- CPWAIT (R285). -/
def parseCpwait (r : Raw) : Except DecodeError Instr :=
  match scopeOfCode (r.mod / 1024 % 8) with
  | some sc =>
    if r.mod / 8192 = 0 ∧ r.mod / 256 % 4 = 0 ∧ r.mod % 32 = 0 then .ok (.cpwait r.slot sc (Fin.ofNat 8 (r.mod / 32 % 8)))
    else .error .badModifier
  | none => .error .badModifier

/-- MWAIT (R308). -/
def parseMwait (r : Raw) : Except DecodeError Instr :=
  if r.mod / 64 = 0 then
    match r.mod / 16 % 4 with
    | 0 => .ok (.mwait r.slot (Fin.ofNat 16 (r.mod % 16)))
    | 1 => .ok (.mwaitH r.slot (Fin.ofNat 16 (r.mod % 16)))
    | 2 => if r.mod % 16 = 0 then .ok (.mwaitAll r.slot) else .error .badModifier
    | _ => .error .badModifier
  else .error .badModifier

/-- FBIND (R305). -/
def parseFbind (r : Raw) : Except DecodeError Instr :=
  if r.mod / 512 = 0 ∧ r.mod / 16 % 2 = 0 then
    if r.mod / 256 % 2 = 0 then .ok (.fbind r.slot ⟨Fin.ofNat 8 (r.mod / 32 % 8), Fin.ofNat 16 (r.mod % 16)⟩)
    else if r.mod % 16 = 0 then .ok (.fbindUnb r.slot (Fin.ofNat 8 (r.mod / 32 % 8)))
    else .error .badModifier
  else .error .badModifier

/-- SNAP (R327). -/
def parseSnap (r : Raw) : Except DecodeError Instr :=
  match r.mod with
  | 0 => .ok (.snapX r.slot)
  | 1 => .ok (.snapY r.slot)
  | _ => .error .badModifier

/-- TRICLS (R327). -/
def parseTricls (r : Raw) : Except DecodeError Instr :=
  if r.mod < 2 then .ok (.tricls r.slot (r.mod == 1)) else .error .badModifier

/-- TRACE (R342). -/
def parseTrace (r : Raw) : Except DecodeError Instr :=
  if r.mod < 128 then .ok (.trace r.slot (Fin.ofNat 128 r.mod)) else .error .badModifier

/-- TRESUME (R342). -/
def parseTresume (r : Raw) : Except DecodeError Instr :=
  match r.mod with
  | 0 => .ok (.tresumeCont r.slot)
  | 1 => .ok (.tresumeShort r.slot)
  | 2 => .ok (.tresumeCommit r.slot)
  | 3 => .ok (.tresumeEnd r.slot)
  | 4 => .ok (.tresumeAbort r.slot)
  | _ => .error .badModifier

/-- SCLK (R364). -/
def parseSclk (r : Raw) : Except DecodeError Instr :=
  if r.mod < 8 then .ok (.sclk r.slot ⟨r.mod % 2 == 1, r.mod / 2 % 2 == 1, r.mod / 4 % 2 == 1⟩) else .error .badModifier

/-- SCINV (R364). -/
def parseScinv (r : Raw) : Except DecodeError Instr :=
  if r.mod < 4 then
    if r.mod % 2 = 0 then .ok (.scinvDep r.slot (r.mod / 2 == 1)) else .ok (.scinvKey r.slot (r.mod / 2 == 1))
  else .error .badModifier

/-! ## Fields of an instruction -/

/-- The fields of a slot with a given OP and MOD. -/
def Raw.of (op : Nat) (s : Slot) (mod : Nat) : Raw where
  op := op
  stall := s.stall.val
  pred := s.pred.val
  pneg := s.pneg.toNat
  dst := dstCode s.dst
  sa := srcCode s.sa
  sb := srcCode s.sb
  sc := srcCode s.sc
  mod := mod
  lit := s.lit.toNat

/-- The fields of a slot with the ALU layout (R41). -/
def Raw.ofAlu (op : Nat) (a : Alu) : Raw :=
  Raw.of op a.slot (a.sf.toNat * 32768 + tyCode a.ty * 2048 + rndCode a.rnd * 256 + a.sat.toNat * 128 + a.sub.val * 16
    + a.aneg.toNat * 8 + a.aabs.toNat * 4 + a.bneg.toNat * 2 + a.babs.toNat)

/-- The fields of a slot with the memory layout (R43). -/
def Raw.ofMem (op : Nat) (m : Mem) : Raw :=
  Raw.of op m.slot (spaceCode m.space * 8192 + scopeCode m.scope * 1024 + ordCode m.ord * 256 + cpolCode m.cpol * 64
    + sizeCode m.size * 8 + m.msub.val)

/-- No slot: opcode 0xFF is never assigned (R53). -/
def Raw.event : Raw := ⟨0xFF, 0, 0, 0, 0xFF, 0xA5, 0xA5, 0xA5, 0, 0⟩

/-- The instruction a slot's fields name (R53 and each instruction's own encoding), before the checks of `Instr.wf`. -/
def parse (r : Raw) : Except DecodeError Instr :=
  match r.op with
  | 0x00 => plain r (.nop r.slot)
  | 0x01 => plain r (.bra r.slot)
  | 0x02 => plain r (.brx r.slot)
  | 0x03 => plain r (.call r.slot)
  | 0x04 => plain r (.callx r.slot)
  | 0x05 => plain r (.ret r.slot)
  | 0x06 => plain r (.exit r.slot)
  | 0x07 => plain r (.park r.slot)
  | 0x08 => plain r (.yield r.slot)
  | 0x09 => plain r (.syscall r.slot)
  | 0x0A => plain r (.hcall r.slot)
  | 0x0B => plain r (.tret r.slot)
  | 0x0C => plain r (.bkpt r.slot)
  | 0x0D => parseSetfp r
  | 0x0E => parseSrd r
  | 0x0F => parseSwr r
  | 0x10 => parseTlbi r
  | 0x11 => parseHtlbi r
  | 0x12 => plain r (.ctxsave r.slot)
  | 0x13 => plain r (.ctxload r.slot)
  | 0x14 => plain r (.tevt r.slot)
  | 0x20 => withAlu r .iadd
  | 0x21 => withAlu r .isub
  | 0x22 => withAlu r .imul
  | 0x23 => withAlu r .imulh
  | 0x24 => withAlu r .imad
  | 0x25 => withAlu r .imadw
  | 0x26 => withAlu r .idiv
  | 0x27 => withAlu r .irem
  | 0x28 => withAlu r .imin
  | 0x29 => withAlu r .imax
  | 0x2A => withAlu r .iabs
  | 0x2B => withAlu r .ineg
  | 0x2C => withAlu r .icmp
  | 0x2D => withAlu r .sel
  | 0x2E => withAlu r .mov
  | 0x2F => withAlu r .lea
  | 0x30 => withAlu r .and
  | 0x31 => withAlu r .or
  | 0x32 => withAlu r .xor
  | 0x33 => withAlu r .not
  | 0x34 => withAlu r .andn
  | 0x35 => withAlu r .shl
  | 0x36 => withAlu r .shr
  | 0x37 => withAlu r .sar
  | 0x38 => withAlu r .rol
  | 0x39 => withAlu r .popc
  | 0x3A => withAlu r .clz
  | 0x3B => withAlu r .ctz
  | 0x3C => withAlu r .brev
  | 0x3D => withAlu r .bfx
  | 0x3E => withAlu r .bfi
  | 0x3F => withAlu r .prmt
  | 0x40 => withAlu r .iaddc
  | 0x41 => withAlu r .iclamp
  | 0x60 => withAlu r .fadd
  | 0x61 => withAlu r .fsub
  | 0x62 => withAlu r .fmul
  | 0x63 => withAlu r .ffma
  | 0x64 => withAlu r .fmin
  | 0x65 => withAlu r .fmax
  | 0x66 => withAlu r .fcmp
  | 0x67 => withAlu r fun a => if a.sub == 0 then .fcls a else .fclsTest a
  | 0x68 => withAlu r .frnd
  | 0x69 => withAlu r .fscl
  | 0x6A => withAlu r fun a => if a.sub == 0 then .fextExp a else .fextMant a
  | 0x6B => withAlu r .fdot2
  | 0x6C => withAlu r .cvt
  | 0x6D => withAlu r .frcp
  | 0x6E => withAlu r .frsq
  | 0x6F => withAlu r .fsqrt
  | 0x70 => withAlu r .fdiv
  | 0x71 => withAlu r .fexp2
  | 0x72 => withAlu r .flog2
  | 0x73 => withAlu r .fsint
  | 0x74 => withAlu r .fcost
  | 0x90 => withAlu r .kop
  | 0x91 => withAlu r .kpop
  | 0x92 => withAlu r .kffs
  | 0x93 => withAlu r .vote
  | 0x94 => withAlu r .shfl
  | 0x95 => withAlu r .plyred
  | 0x96 => withAlu r .plyscan
  | 0x97 => withAlu r .elect
  | 0x98 => withAlu r .plyset
  | 0x99 => withAlu r fun a => if a.sub == 0 then .barArv a else if a.sub == 1 then .barWait a else .barSync a
  | 0xA0 => withMem r .ld
  | 0xA1 => withMem r .st
  | 0xA2 => withMem r .atom
  | 0xA3 => withMem r .red
  | 0xA4 => withMem r .cas
  | 0xA5 => withMem r .fence
  | 0xA6 => withMem r fun m => if m.msub == 0 then .cinvLine m else .cinvAll m
  | 0xA7 => withMem r .cwb
  | 0xA8 => withMem r .pref
  | 0xA9 => withMem r .obres
  | 0xAA => withMem r .obrel
  | 0xAB => withMem r .obld
  | 0xAC => withMem r .obst
  | 0xAD => withMem r .mbi
  | 0xAE => withMem r .mba
  | 0xAF => withMem r .mbw
  | 0xB0 => withMem r .mbt
  | 0xB1 => withMem r .rngnext
  | 0xB2 => withMem r .pipepush
  | 0xB3 => withMem r .pipepop
  | 0xC0 => withMod (cpyMod r.mod) fun m => .cpy r.slot m
  | 0xC1 => parseCptr r
  | 0xC2 => parseCpwait r
  | 0xC3 => withMod (xfmMod r.mod) fun m => .xfm r.slot m
  | 0xC4 => withMod (qntMod r.mod) fun m => .qnt r.slot m
  | 0xC5 => withMod (qntMod r.mod) fun m => .dqnt r.slot m
  | 0xC8 => plain r (.mma r.slot)
  | 0xC9 => plain r (.mdist r.slot)
  | 0xCA => plain r (.mcacc r.slot)
  | 0xCB => plain r (.mcfin r.slot)
  | 0xCC => parseMwait r
  | 0xCD => parseFbind r
  | 0xD0 => withMod (collMod r.mod) fun m => .coll r.slot m
  | 0xE0 => parseSnap r
  | 0xE1 => plain r (.edge r.slot)
  | 0xE2 => parseTricls r
  | 0xE3 => plain r (.rast r.slot)
  | 0xE4 => parseTrace r
  | 0xE5 => parseTresume r
  | 0xE6 => plain r (.twait r.slot)
  | 0xE7 => plain r (.repack r.slot)
  | 0xE8 => parseSclk r
  | 0xE9 => plain r (.scwait r.slot)
  | 0xEA => plain r (.scpop r.slot)
  | 0xEB => plain r (.scpub r.slot)
  | 0xEC => parseScinv r
  | 0xED => plain r (.scstamp r.slot)
  | _ => .error .reservedOpcode

/-- The slot of an instruction, field by field (R34 and each instruction's own encoding); an event is no slot and gives
opcode 0xFF, which no revision assigns (R53). -/
def encodeRaw : Instr → Raw
  | .nop s => Raw.of 0x00 s 0
  | .bra s => Raw.of 0x01 s 0
  | .brx s => Raw.of 0x02 s 0
  | .call s => Raw.of 0x03 s 0
  | .callx s => Raw.of 0x04 s 0
  | .ret s => Raw.of 0x05 s 0
  | .exit s => Raw.of 0x06 s 0
  | .park s => Raw.of 0x07 s 0
  | .yield s => Raw.of 0x08 s 0
  | .setfp s m => Raw.of 0x0D s (setfpCode m)
  | .syscall s => Raw.of 0x09 s 0
  | .hcall s => Raw.of 0x0A s 0
  | .tret s => Raw.of 0x0B s 0
  | .bkpt s => Raw.of 0x0C s 0
  | .srd s => Raw.of 0x0E s 0
  | .srdElem s => Raw.of 0x0E s 1
  | .swr s => Raw.of 0x0F s 0
  | .swrFpmode s => Raw.of 0x0F s 0
  | .swrFpflags s => Raw.of 0x0F s 0
  | .swrVpc s => Raw.of 0x0F s 0
  | .swrElemVpc s => Raw.of 0x0F s 1
  | .swrPanelPreq s => Raw.of 0x0F s 0
  | .dbgRead _ => Raw.event
  | .dbgWrite _ => Raw.event
  | .dbgDrain _ => Raw.event
  | .dbgDrainComplete _ => Raw.event
  | .tlbiVa s => Raw.of 0x10 s 0
  | .tlbiAll s => Raw.of 0x10 s 1
  | .tlbiProbe s => Raw.of 0x10 s 2
  | .htlbiIpa s => Raw.of 0x11 s 0
  | .htlbiAll s => Raw.of 0x11 s 1
  | .ctxsave s => Raw.of 0x12 s 0
  | .ctxload s => Raw.of 0x13 s 0
  | .tevt s => Raw.of 0x14 s 0
  | .iadd a => Raw.ofAlu 0x20 a
  | .isub a => Raw.ofAlu 0x21 a
  | .imul a => Raw.ofAlu 0x22 a
  | .imulh a => Raw.ofAlu 0x23 a
  | .imad a => Raw.ofAlu 0x24 a
  | .imadw a => Raw.ofAlu 0x25 a
  | .idiv a => Raw.ofAlu 0x26 a
  | .irem a => Raw.ofAlu 0x27 a
  | .imin a => Raw.ofAlu 0x28 a
  | .imax a => Raw.ofAlu 0x29 a
  | .iabs a => Raw.ofAlu 0x2A a
  | .ineg a => Raw.ofAlu 0x2B a
  | .icmp a => Raw.ofAlu 0x2C a
  | .sel a => Raw.ofAlu 0x2D a
  | .mov a => Raw.ofAlu 0x2E a
  | .lea a => Raw.ofAlu 0x2F a
  | .and a => Raw.ofAlu 0x30 a
  | .or a => Raw.ofAlu 0x31 a
  | .xor a => Raw.ofAlu 0x32 a
  | .not a => Raw.ofAlu 0x33 a
  | .andn a => Raw.ofAlu 0x34 a
  | .shl a => Raw.ofAlu 0x35 a
  | .shr a => Raw.ofAlu 0x36 a
  | .sar a => Raw.ofAlu 0x37 a
  | .rol a => Raw.ofAlu 0x38 a
  | .popc a => Raw.ofAlu 0x39 a
  | .clz a => Raw.ofAlu 0x3A a
  | .ctz a => Raw.ofAlu 0x3B a
  | .brev a => Raw.ofAlu 0x3C a
  | .bfx a => Raw.ofAlu 0x3D a
  | .bfi a => Raw.ofAlu 0x3E a
  | .prmt a => Raw.ofAlu 0x3F a
  | .iaddc a => Raw.ofAlu 0x40 a
  | .iclamp a => Raw.ofAlu 0x41 a
  | .fadd a => Raw.ofAlu 0x60 a
  | .fsub a => Raw.ofAlu 0x61 a
  | .fmul a => Raw.ofAlu 0x62 a
  | .ffma a => Raw.ofAlu 0x63 a
  | .fmin a => Raw.ofAlu 0x64 a
  | .fmax a => Raw.ofAlu 0x65 a
  | .fcmp a => Raw.ofAlu 0x66 a
  | .fcls a => Raw.ofAlu 0x67 a
  | .fclsTest a => Raw.ofAlu 0x67 a
  | .frnd a => Raw.ofAlu 0x68 a
  | .fscl a => Raw.ofAlu 0x69 a
  | .fextExp a => Raw.ofAlu 0x6A a
  | .fextMant a => Raw.ofAlu 0x6A a
  | .fdot2 a => Raw.ofAlu 0x6B a
  | .cvt a => Raw.ofAlu 0x6C a
  | .frcp a => Raw.ofAlu 0x6D a
  | .frsq a => Raw.ofAlu 0x6E a
  | .fsqrt a => Raw.ofAlu 0x6F a
  | .fdiv a => Raw.ofAlu 0x70 a
  | .fexp2 a => Raw.ofAlu 0x71 a
  | .flog2 a => Raw.ofAlu 0x72 a
  | .fsint a => Raw.ofAlu 0x73 a
  | .fcost a => Raw.ofAlu 0x74 a
  | .kop a => Raw.ofAlu 0x90 a
  | .kpop a => Raw.ofAlu 0x91 a
  | .kffs a => Raw.ofAlu 0x92 a
  | .vote a => Raw.ofAlu 0x93 a
  | .shfl a => Raw.ofAlu 0x94 a
  | .plyred a => Raw.ofAlu 0x95 a
  | .plyscan a => Raw.ofAlu 0x96 a
  | .elect a => Raw.ofAlu 0x97 a
  | .plyset a => Raw.ofAlu 0x98 a
  | .barArv a => Raw.ofAlu 0x99 a
  | .barWait a => Raw.ofAlu 0x99 a
  | .barSync a => Raw.ofAlu 0x99 a
  | .ld m => Raw.ofMem 0xA0 m
  | .st m => Raw.ofMem 0xA1 m
  | .atom m => Raw.ofMem 0xA2 m
  | .red m => Raw.ofMem 0xA3 m
  | .cas m => Raw.ofMem 0xA4 m
  | .fence m => Raw.ofMem 0xA5 m
  | .cinvLine m => Raw.ofMem 0xA6 m
  | .cinvAll m => Raw.ofMem 0xA6 m
  | .cwb m => Raw.ofMem 0xA7 m
  | .pref m => Raw.ofMem 0xA8 m
  | .obres m => Raw.ofMem 0xA9 m
  | .obrel m => Raw.ofMem 0xAA m
  | .obld m => Raw.ofMem 0xAB m
  | .obst m => Raw.ofMem 0xAC m
  | .mbi m => Raw.ofMem 0xAD m
  | .mba m => Raw.ofMem 0xAE m
  | .mbw m => Raw.ofMem 0xAF m
  | .mbt m => Raw.ofMem 0xB0 m
  | .rngnext m => Raw.ofMem 0xB1 m
  | .pipepush m => Raw.ofMem 0xB2 m
  | .pipepop m => Raw.ofMem 0xB3 m
  | .pipeServe _ _ => Raw.event
  | .cpy s m => Raw.of 0xC0 s (cpyCode m)
  | .copySectorWrite _ _ => Raw.event
  | .cptrPtr s c => Raw.of 0xC1 s (c.val * 32)
  | .cptrTail s c => Raw.of 0xC1 s (c.val * 32 + 1)
  | .cptrRst s c => Raw.of 0xC1 s (c.val * 32 + 2)
  | .cptrFadr s c => Raw.of 0xC1 s (c.val * 32 + 3)
  | .cpwait s sc c => Raw.of 0xC2 s (scopeCode sc * 1024 + c.val * 32)
  | .xfm s m => Raw.of 0xC3 s (xfmCode m)
  | .xfmComplete _ => Raw.event
  | .qnt s m => Raw.of 0xC4 s (qntCode m)
  | .dqnt s m => Raw.of 0xC5 s (qntCode m)
  | .mma s => Raw.of 0xC8 s 0
  | .mdist s => Raw.of 0xC9 s 0
  | .mcacc s => Raw.of 0xCA s 0
  | .mcfin s => Raw.of 0xCB s 0
  | .arrayStart _ => Raw.event
  | .matrixTileComplete _ _ _ => Raw.event
  | .mwait s h => Raw.of 0xCC s h.val
  | .mwaitH s h => Raw.of 0xCC s (16 + h.val)
  | .mwaitAll s => Raw.of 0xCC s 32
  | .fbind s m => Raw.of 0xCD s (m.slotN.val * 32 + m.handle.val)
  | .fbindUnb s n => Raw.of 0xCD s (256 + n.val * 32)
  | .coll s m => Raw.of 0xD0 s (collCode m)
  | .collMatch _ _ => Raw.event
  | .collComplete _ => Raw.event
  | .snapX s => Raw.of 0xE0 s 0
  | .snapY s => Raw.of 0xE0 s 1
  | .edge s => Raw.of 0xE1 s 0
  | .tricls s c => Raw.of 0xE2 s c.toNat
  | .rast s => Raw.of 0xE3 s 0
  | .rastSubmissionArrive _ _ => Raw.event
  | .rastFragmentApply _ _ => Raw.event
  | .trace s n => Raw.of 0xE4 s n.val
  | .traversalFetch _ _ => Raw.event
  | .tresumeCont s => Raw.of 0xE5 s 0
  | .tresumeShort s => Raw.of 0xE5 s 1
  | .tresumeCommit s => Raw.of 0xE5 s 2
  | .tresumeEnd s => Raw.of 0xE5 s 3
  | .tresumeAbort s => Raw.of 0xE5 s 4
  | .twait s => Raw.of 0xE6 s 0
  | .repack s => Raw.of 0xE7 s 0
  | .repackExecute _ => Raw.event
  | .sclk s m => Raw.of 0xE8 s (m.stale.toNat + 2 * m.neu.toNat + 4 * m.peek.toNat)
  | .scwait s => Raw.of 0xE9 s 0
  | .scpop s => Raw.of 0xEA s 0
  | .scpub s => Raw.of 0xEB s 0
  | .scinvDep s d => Raw.of 0xEC s (2 * d.toNat)
  | .scinvKey s d => Raw.of 0xEC s (2 * d.toNat + 1)
  | .invalidationVisit _ _ _ => Raw.event
  | .scstamp s => Raw.of 0xED s 0
  | .swatchTagRepair _ _ _ _ => Raw.event
  | .resultAvailable _ _ => Raw.event
  | .variableWriteLand _ _ _ => Raw.event
  | .translationWalk _ => Raw.event
  | .stage2FaultResolve _ _ => Raw.event
  | .parkExpire _ _ _ => Raw.event
  | .parkAllStill _ _ => Raw.event
  | .skeinRetire _ _ => Raw.event
  | .launch _ _ => Raw.event
  | .launchStart _ => Raw.event
  | .controlWordRead _ _ _ => Raw.event
  | .patreg _ _ => Raw.event
  | .registrationComplete _ => Raw.event
  | .patunreg _ _ => Raw.event
  | .panelDispatch _ _ => Raw.event
  | .poolAging _ => Raw.event
  | .rangeSplit _ _ => Raw.event
  | .preemptionRequest _ => Raw.event
  | .cooperativeSave _ => Raw.event
  | .deadlineExpire _ => Raw.event
  | .contextSaveDone _ => Raw.event
  | .panelResume _ _ => Raw.event
  | .sliceEnd _ => Raw.event
  | .partitionChange _ _ _ => Raw.event
  | .coreRemoval _ => Raw.event
  | .panelHalt _ _ _ => Raw.event
  | .faultRecordWrite _ => Raw.event
  | .tagParityError _ => Raw.event
  | .functionCreate _ _ => Raw.event
  | .functionLevelReset _ => Raw.event
  | .dieLinkFailure _ _ => Raw.event
  | .powerInterval _ _ => Raw.event
  | .thermalTrip _ => Raw.event
  | .boot _ => Raw.event
  | .coldReset => Raw.event
  | .warmReset => Raw.event
  | .attestationRequest _ _ _ => Raw.event
  | .routeTableLoad _ => Raw.event
  | .hostApertureRead _ _ _ => Raw.event
  | .hostApertureWrite _ _ _ => Raw.event
  | .apbase _ _ => Raw.event
  | .apfault _ => Raw.event
  | .performedAtHomeL2 _ => Raw.event
  | .cwbComplete _ => Raw.event
  | .fabricFailure _ => Raw.event

/-- Decoding a slot's fields: what `parse` names, when it passes the word checks. -/
def decodeRaw (r : Raw) : Except DecodeError Instr :=
  match parse r with
  | .ok i => if i.wf then .ok i else .error .illFormed
  | .error e => .error e

/-- The decoder: a slot's 96 bits to an instruction or a refusal (R52 step 4). -/
def decode (w : BitVec 96) : Except DecodeError Instr := decodeRaw (Raw.ofNat w.toNat)

/-- The encoder: the 96 bits of an instruction. -/
def encode (i : Instr) : BitVec 96 := BitVec.ofNat 96 (encodeRaw i).toNat

/-- Slot bits [95:32], the tval of ILLOP and PRIV (R54). -/
def slotHigh (w : BitVec 96) : Dword := (w >>> 32).setWidth 64

/-- The byte of a slot at offset `k`: bits [8k+7:8k] (R34). -/
def slotByte (w : BitVec 96) (k : Nat) : Byte := (w >>> (8 * k)).setWidth 8

/-- The slot that twelve bytes spell, byte 0 first (R34). -/
def slotOfBytes (bs : List Byte) : BitVec 96 := BitVec.ofNat 96 (bs.foldr (fun b n => n * 256 + b.toNat) 0)

/-- The instruction the decoder reads from a table word: the first slot's bits, those above `nbits` zero. -/
def decodeTableWord (nbits w : Nat) : Option Instr :=
  match decode (BitVec.ofNat 96 (w % 2 ^ nbits)) with
  | .ok i => some i
  | .error _ => none

end Sys2Proof
end

