-- ==== Sys2Proof/Machine/State.lean ====
section
/-!
DEFINITION. Sys2Proof/Machine/State.lean: the state of the whole part as plain data, its faults and refusals, and the
state after reset. Each structure's docstring names the rules of spec/ that give it.
-/
namespace Sys2Proof.Machine

/-- Why the model stops. -/
inductive Fault where
  /-- A slot instruction was asked for while the skein in focus has no lane to issue (R130: `select` returns none, so
  the hardware issues nothing). Raised by every slot instruction's meaning; `step` never asks. Safe. -/
  | nothingSelected
  /-- A slot instruction was asked for and the panel or skein in focus does not exist. Raised by every slot
  instruction's meaning; `step` never asks. Safe. -/
  | noFocus
  /-- A table walk or a firmware transfer names a physical address that no memory backs (R455). Raised by the steps
  that read tables or firmware-given addresses. Safe. -/
  | unbacked
deriving DecidableEq, Repr

/-- Why the model gives an instruction no meaning. -/
inductive Refusal where
  /-- The row's meaning is not written yet. Raised by Dispatch alone. Safe. -/
  | notModelled (mnemonic : String)
deriving DecidableEq, Repr

/-! ## Sparse stores

A register file or a memory is a list of (index, value) pairs with strictly rising indices and no pair equal to what an
unlisted index reads as. -/

/-- A sparse store of words. -/
abbrev Regs := List (Nat × Word)
/-- Bytes by address: memory, a scratchpad, the operand buffer. -/
abbrev Bytes := List Host.Cell

/-! ## Lanes -/

/-- lane.mode (R127, R377). -/
inductive Mode where
  | user | supervisor | hypervisor
deriving DecidableEq, Repr

/-- The trap causes of R54. -/
inductive Cause where
  | illop | illopnd | illine | btarget | priv | stallshort | align | syscall | hcall | bkpt | step | barcount
  | tfld | tfst | tfif | tftrav | tfeng | perm | scopepol | tdepth | fpexc | preempt | ifecc | poison | double | mchk
deriving DecidableEq, Repr

/-- One storage cell of a result queue (R27): the value last made available in it, and the number of the push that
holds the cell (0 when the entry has landed with no push of its own, as at panel start and after a clearing, R383). -/
structure QCell where
  val : Word
  tag : Nat
deriving DecidableEq, Repr

/-- A save set (R379). -/
structure SaveSet where
  epc : Dword
  tval : Dword
  cause : Word
  status : Word
deriving DecidableEq, Repr

/-- A parked lane's remaining count (R95), as the cycle in which it reaches zero; `still` is a count of zero. -/
inductive Park where
  | still
  | till (cycle : Nat)
deriving DecidableEq, Repr

/-- Why a lane is held (R127), with what its wait needs and the PC of the waiting instruction (R430). -/
inductive Hold where
  | bar (b : Nat) (target : Nat)
  | mbw (panel : Nat) (off : Nat) (phase : Nat) (scope : Scope) (at_ : Dword)
  | cpwait (chan : Nat) (target : Nat) (scope : Scope) (at_ : Dword)
  | scwait (entry : Nat) (key : Dword) (dst : Nat) (at_ : Dword)
  | twait (record : Nat) (dst : Option Nat) (sa : Dword) (at_ : Dword)
  | pipepush (pipe : Nat) (at_ : Dword)
  | pipepop (pipe : Nat) (at_ : Dword)
  | repack (key : Word) (at_ : Dword)
deriving DecidableEq, Repr

/-- What the return from the handler that made CTXLOAD returns a lane into, beside its PC (R405): its loaded mode, whether it had exited,
the remaining count of its park, and its hold. -/
structure Back where
  mode : Mode
  exited : Bool
  park : Option Nat
  held : Option Hold
deriving DecidableEq, Repr

/-- One lane (R12, R127, R379, R50). `needTgt` is set while the lane's next issue is a non-sequential arrival;
`wake` is the first cycle whose selections see the lane's release (R131), `entry` the first whose selections see its latest entry into
a handler and the mode before it; `stepDue` the tval of a STEP it takes when it is next free (R392, R95); `waitDue` the cause, the tval and
the PC of a trap with which its wait has ended, and which it takes once the event that its skein has issued is over (R234, R453); `back` what its
next return from hypervisor mode returns it into after a CTXLOAD (R405). -/
structure Lane where
  v : Regs
  qUser : List QCell
  qSup : List QCell
  qHyp : List QCell
  tSup : Regs
  tHyp : Regs
  pc : Dword
  mode : Mode
  exited : Bool
  park : Option Park
  held : Option Hold
  yielding : Bool
  tdepth : Nat
  origin : Word
  saveS : SaveSet
  saveH : SaveSet
  lastChange : Dword
  needTgt : Bool
  wake : Nat
  entry : Option (Nat × Mode)
  stepDue : Option Dword
  waitDue : Option (Cause × Dword × Dword)
  back : Option Back
deriving DecidableEq, Repr

/-! ## Skeins -/

/-- A register one lane or the skein holds, as the target of a write. -/
inductive Target where
  | v (lane reg : Nat)
  | tSup (lane reg : Nat)
  | tHyp (lane reg : Nat)
  | s (reg : Nat)
  | xSup (reg : Nat)
  | xHyp (reg : Nat)
  | k (reg lane : Nat)
deriving DecidableEq, Repr

/-- One pushed entry: its lane, the mode whose bank holds it, its push number and its value. -/
structure PushCell where
  lane : Nat
  mode : Mode
  tag : Nat
  val : Word
deriving DecidableEq, Repr

/-- A trap to be taken by a lane: its cause, tval, return PC and the PAIR bit (R54, R379, R382). -/
structure Trap where
  lane : Nat
  cause : Cause
  tval : Dword
  epc : Dword
  pair : Bool
deriving DecidableEq, Repr

/-- A fixed-latency result on its way (R25 to R29), and the FPEXC traps that go with it
(R84). `raises` says that it can set a flag (R33), `hold` that the skein issues nothing until it has come (R84); `bad` are the lanes whose
value poisoned data would have fed (R309). -/
structure FixedResult where
  seq : Nat
  due : Nat
  regs : List (Target × Word)
  cells : List PushCell
  flags : Word
  raises : Bool
  hold : Bool
  exc : List Trap
  bad : Word
deriving DecidableEq, Repr

/-- A lane whose data is poisoned (R219): the target that receives nothing, if the result has one for it, and the tval of POISON. -/
structure BadTarget where
  target : Option Target
  lane : Nat
  tval : Dword
deriving DecidableEq, Repr

/-- An outstanding variable-latency write (R21, R28, R30). `targets` are the registers it will write, `vals` the values
known so far, `awaits` the numbers of the accesses not yet performed, `raises` says that it can set a flag (R33); `bad` are the targets
that receive nothing (R219), `homes` the dies whose memory its data comes from (R454). -/
structure VarWrite where
  seq : Nat
  targets : List Target
  vals : List (Target × Word)
  awaits : List Nat
  flags : Word
  raises : Bool
  hold : Bool
  exc : List Trap
  bad : List BadTarget
  homes : List Nat
deriving DecidableEq, Repr

/-- A skein's record of a named barrier (R145); PENDING keeps the generation of the skein's latest arrival (R148). -/
inductive BarRecord where
  | none
  | pending (gen : Nat)
  | done
deriving DecidableEq, Repr

/-- What a bound fragment slot names (R304). -/
structure Frag where
  handle : Nat
  tile : Nat
  frag : Nat
deriving DecidableEq, Repr

/-- What the operands of an issued instruction were read from, while its translations are on their way (R217, R220): the instruction,
and the registers, queues and pending results as they stood at its issue. -/
structure ReadState where
  instr : Instr
  lanes : List Lane
  k : Regs
  s : Regs
  xSup : Regs
  xHyp : Regs
  results : List FixedResult
deriving DecidableEq, Repr

/-- One 32-lane issue group (R126, R128, R129). `reads` holds what an event that waits for translations has read, and `forming` the PC and
the lanes of an array start of which no lane has entered the core's queue (R299, R428). -/
structure Skein where
  ix : Nat
  pipe : Nat
  lanes : List Lane
  k : Regs
  s : Regs
  xSup : Regs
  xHyp : Regs
  fpmode : Word
  fpflags : Word
  ply : Nat
  step : Word
  bars : List (Nat × BarRecord)
  frags : List (Nat × Frag)
  nextIssue : Nat
  seq : Nat
  results : List FixedResult
  outs : List VarWrite
  sel : Option (List Nat)
  reads : Option ReadState
  forming : Option (Dword × List Nat)
  waitStart : Option Nat
  retired : Bool
deriving DecidableEq, Repr

/-! ## Panels -/

/-- A kernel or handler image header (R69), with the virtual address of its first byte. -/
structure Header where
  addr : Dword
  vregs : Nat
  sregs : Nat
  skeins : Nat
  gang : Nat
  scratch : Nat
  opbuf : Nat
  barriers : Word
  roles : Word
  traps : Word
  energy : Nat
  pipes : Nat
  constOff : Dword
  constBytes : Nat
  codeBytes : Nat
  build : Dword
deriving DecidableEq, Repr

/-- A named barrier (R145): its open generation, expected count (`none`: unfixed) and arrived count. -/
structure Barrier where
  gen : Nat
  expect : Option Nat
  arrived : Nat
deriving DecidableEq, Repr

/-- A panel's place in its gang (R142, R144, R437): the model's number of the gang, its rank, the panel number of each rank, the core index each rank
had at the gang's first launch, and the core index this member first had. -/
structure Gang where
  id : Nat
  rank : Nat
  members : List Nat
  cores : List Nat
deriving DecidableEq, Repr

/-- A range panel's interval (R190) and its node's grain; a grain of 0 marks an interval that a panel of no range node was loaded with
(R405). -/
structure Span where
  lo : Nat
  hi : Nat
  grain : Nat
deriving DecidableEq, Repr

/-- A halt under way (R387): when it was detected, by which skein, why, and how often each skein has issued since. -/
structure Halt where
  since : Nat
  skein : Nat
  cause : Cause
  lanes : Word
  tval : Dword
  multi : Bool
  skids : List Nat
deriving DecidableEq, Repr

/-- A copy channel's context (R276): its tail and pointer positions and its fault. -/
structure Chan where
  tail : Nat
  ptr : Nat
  flt : Bool
  faddr : Dword
deriving DecidableEq, Repr

/-- A push or pop that waits at its pipe (R189): its lanes in ascending order, the entries a push brings, or the first
register a pop writes. -/
structure PipeWait where
  panel : Nat
  skein : Nat
  lanes : List Nat
  words : List (List Word)
  dst : Nat
deriving DecidableEq, Repr

/-- A gang's pipe (R187, R189): entries oldest first, and what waits in the order in which it reached the home core. -/
structure Ring where
  gang : Nat
  pipe : Nat
  home : Nat
  esz : Nat
  dep : Nat
  head : Nat
  entries : List (List Word)
  pushes : List PipeWait
  pops : List PipeWait
deriving DecidableEq, Repr

/-- Why a panel is being saved (R427, R428, R433). -/
structure Saving where
  kind : Nat
  reason : Nat
deriving DecidableEq, Repr

/-- A resident panel (R126, R129, R141 to R149, R185, R389, R398, R425). `id` is the model's own number for it;
`label` is the node instance number that its context names, which CTXLOAD replaces (R405, R433), `node` the instance whose panel it is;
`granules` are the first register granule of each skein, the other
placement fields are where its ranges lie in the core's scratchpad and operand buffer (R184); `cands` are the
values a suspended traversal keeps for TWAIT (R344), by record; `slot` is the offset of its context in the save region; `timer` is the tick at
which its deadline expires; `dbg` the skein that waits for a debug request and whether the request is draining (R406);
`quiet` the skein for whose CTXSAVE or CTXLOAD the other skeins stop (R405); `thaw` the cycle in which the latest freeze has ended (R393). -/
structure Panel where
  id : Nat
  fn : Nat
  handle : Nat
  node : Nat
  label : Nat
  ix : Nat
  argAddr : Dword
  kernel : Header
  image : Header
  core : Nat
  granules : List Nat
  scratchAt : Nat
  opbufAt : Nat
  ringAt : Nat
  ringBytes : Nat
  since : Nat
  level : Nat
  slot : Nat
  gang : Option Gang
  skeins : List Skein
  scratch : Bytes
  opbuf : Bytes
  resv : List (Nat × BitVec 128)
  bars : List (Nat × Barrier)
  tiles : List (Nat × Nat)
  chans : List (Nat × Chan)
  cands : List (Nat × List Word)
  preq : Bool
  deadline : Nat
  timer : Option Nat
  skid : BitVec 96
  dbgreq : Word
  dbgstat : Word
  dbgdata : Dword
  dbg : Option (Nat × Bool)
  quiet : Option Nat
  thaw : Nat
  range : Option Span
  halt : Option Halt
  saving : Option Saving
deriving DecidableEq, Repr

/-! ## Global memory: caches, translations, accesses on their way -/

/-- What an access brings to its line (R203, R204, R412): the page is read-only, the access is one of the kernel constants, and the page's
base and size (none for the heap window, which no table maps). -/
structure PageMark where
  ro : Bool
  const : Bool
  page : Nat × Nat
deriving DecidableEq, Repr

/-- A 32-byte sector held by an L1 (place: the core number) or a remote-data cache (place: 768 + die) (R203, R204). -/
structure Copy where
  place : Nat
  sector : Nat
  data : BitVec 256
  fn : Nat
  mark : PageMark
deriving DecidableEq, Repr

/-- A 64-byte line held by a core's instruction cache (R18). -/
structure CodeLine where
  core : Nat
  line : Nat
  data : BitVec 512
deriving DecidableEq, Repr

/-- What an access does to the bytes it reaches (R412). -/
inductive AccessKind where
  | read | write | fetch
deriving DecidableEq, Repr

/-- A page a walk found: input base, size, output base, permissions, the level of the first-stage leaf. -/
structure Page where
  base : Nat
  size : Nat
  pa : Nat
  w : Bool
  x : Bool
  u : Bool
  level : Nat
deriving DecidableEq, Repr

/-- A table entry as a walk read it: the stage, the input addresses it spans, where it lies (its physical address, and
its intermediate address for the first stage), and its value (R415). -/
structure TableRead where
  stage : Nat
  base : Nat
  span : Nat
  pa : Nat
  ipa : Nat
  val : Dword
deriving DecidableEq, Repr

/-- What a TLB entry maps (R415): a combined page, or the page of a second-stage leaf. -/
inductive TlbMap where
  | combined (p : Page)
  | second (leaf : TableRead)
deriving DecidableEq, Repr

/-- A TLB entry (R415). The place is a core number, or 768 + die. -/
structure TlbEntry where
  place : Nat
  fn : Nat
  map : TlbMap
deriving DecidableEq, Repr

/-- A table entry in a die's walk cache (R415). -/
structure WalkCopy where
  die : Nat
  fn : Nat
  entry : TableRead
deriving DecidableEq, Repr

/-- What ends a walk other than a page (R412, R417): the stage, level and kind, the entry that ended it and, for the
second stage, the intermediate address. Kind 5 is a failed permission, kind 6 a table in unbacked memory. -/
structure WalkStop where
  stage : Nat
  level : Nat
  kind : Nat
  entry : Dword
  ipa : Nat
deriving DecidableEq, Repr

/-- How a walk ends (R412). -/
inductive WalkEnd where
  | page (p : Page)
  | stop (w : WalkStop)
deriving DecidableEq, Repr

/-- How far a walk has come (R414, R417); `declined` is one of an engine whose panel stops for it. -/
inductive WalkStage where
  | running | firmware | ended | declined
deriving DecidableEq, Repr

/-- A walk in flight or ended for an event that is still held (R217, R414, R415, R418). `skein` is `none` for an engine
of the panel. -/
structure Walk where
  id : Nat
  panel : Nat
  skein : Option Nat
  fn : Nat
  core : Nat
  va : Dword
  kind : AccessKind
  mode : Mode
  lanes : Word
  reads : List TableRead
  marked : Bool
  found : WalkEnd
  stage : WalkStage
deriving DecidableEq, Repr

/-- The operations of ATOM and RED (R221), and compare and swap (R222). -/
inductive Rmw where
  | atom (op kind : Nat)
  | cas
deriving DecidableEq, Repr

/-- Where an atomic's old value goes: the skein and the number of its outstanding write, the lane, and the registers. -/
structure Return where
  panel : Nat
  skein : Nat
  seq : Nat
  lane : Nat
  targets : List Target
deriving DecidableEq, Repr

/-- What an access performs at the home L2 (R203). -/
inductive HomeOp where
  | store (data : List Byte) (bypass : Bool)
  | rmw (op : Rmw) (size : Nat) (b c : Nat) (ret : Option Return)
deriving DecidableEq, Repr

/-- An access issued and not yet performed at its home L2 (R203, R418). -/
structure Access where
  id : Nat
  panel : Nat
  skein : Nat
  core : Nat
  fn : Nat
  va : Dword
  page : Nat × Nat
  pa : Nat
  op : HomeOp
deriving DecidableEq, Repr

/-- Where one lane's atomic step is made. -/
inductive AtomPlace where
  | scratch (panel off : Nat)
  | phys (va : Dword) (page : Nat × Nat) (pa : Nat)
deriving DecidableEq, Repr

/-- One lane's step, still to be made, of an atomic on a scratchpad or of one that acquires. The lanes of an event step in ascending order,
steps of other skeins may fall between them, and their own skein makes no event before the last (R218, R376); `acq` is the acquire that
follows the last. -/
structure AtomStep where
  id : Nat
  panel : Nat
  skein : Nat
  core : Nat
  fn : Nat
  place : AtomPlace
  op : Rmw
  size : Nat
  b : Nat
  c : Nat
  ret : Option Return
  acq : Option Scope
deriving DecidableEq, Repr

/-- A CWB issued and not complete (R225): the line's number. -/
structure WriteBack where
  id : Nat
  panel : Nat
  skein : Nat
  core : Nat
  fn : Nat
  va : Dword
  page : Nat × Nat
  line : Nat
deriving DecidableEq, Repr

/-! ## The swatch cache -/

/-- STATE of a tag entry (R354). -/
inductive SwState where
  | invalid | inflight | valid | stale
deriving DecidableEq, Repr

/-- A tag entry (R354). `inv` is the model's own: the state was produced by a visit of an invalidation (R369). -/
structure SwTag where
  keyhi : Nat
  domain : Nat
  tag : Nat
  st : SwState
  doom : Bool
  dep : Word
  stamp : Nat
  owner : Nat
  par : Bool
  inv : Bool
deriving DecidableEq, Repr

/-- A queued item (R359): its key, domain word and the number of its entry. -/
structure SwItem where
  key : Dword
  word : Word
  entry : Nat
deriving DecidableEq, Repr

/-- What an invalidation matches (R362). -/
inductive InvKind where
  | dep (mask : Word)
  | key (q p : Dword)
deriving DecidableEq, Repr

/-- An invalidation on its way (R362, R368): its SCINV's leader, the accesses it starts after (those numbered below `after`), what it matches, the
sets it has visited (131,072 for each die, in order), the entries changed, and the outstanding write that waits for the count. -/
structure InvWalk where
  id : Nat
  panel : Nat
  skein : Nat
  core : Nat
  after : Nat
  domain : Nat
  tag : Nat
  drop : Bool
  kind : InvKind
  visited : List Nat
  count : Nat
  ret : Option Return
deriving DecidableEq, Repr

/-! ## Engine operations -/

/-- Where the bytes of an engine's tensor lie (R274, R277): global memory, the firmware range, the panel's scratchpad, a
gang member's, or the operand buffer. -/
inductive Site where
  | global | firmware | panel | cluster | opbuf
deriving DecidableEq, Repr

/-- A tensor layout record as an engine read it (R274). -/
structure Tensor where
  site : Site
  addr : Nat
  sc : Nat
  xt : Nat
  map : Nat
  ovf : Nat
  rows : Nat
  cols : Nat
  stride : Nat
  ovfBytes : Nat
  fmt : Nat
  cmp : Nat
  layout : Nat
deriving DecidableEq, Repr

/-- A place the engines reach: the memory, the scratch of a panel, or the operand buffer of the engine's panel. -/
inductive Place where
  | memory (pa : Nat)
  | scratch (panel off : Nat)
  | opbuf (off : Nat)
deriving DecidableEq, Repr

/-- A copy not yet complete (R280): its stream range, the bytes written so far, and its completion object. `old` holds what the
bytes it wrote held before, where its source may be among them (R281). -/
structure CopyOp where
  id : Nat
  panel : Nat
  skein : Nat
  core : Nat
  mode : Mode
  chan : Nat
  src : Tensor
  dst : Tensor
  trn : Bool
  start : Nat
  len : Nat
  done : Nat
  handles : List Nat
  obj : Option (Nat × Nat)
  old : List (Place × Byte)
deriving DecidableEq, Repr

/-- A transform not yet complete (R286 to R288), with the rounding mode it captured. -/
structure XfmOp where
  id : Nat
  panel : Nat
  skein : Nat
  core : Nat
  mode : Mode
  op : Nat
  rm : Rnd
  sat : Bool
  src : Tensor
  dst : Tensor
  idx : Option Tensor
  obj : Option (Nat × Nat)
deriving DecidableEq, Repr

/-- A parameter block as an operation read it (R297, R311). -/
structure MatBlock where
  ah : Nat
  bh : Nat
  dh : Nat
  ih : Nat
  m : Nat
  n : Nat
  k : Nat
  metric : Nat
  acc : Bool
  sat : Bool
  merge : Bool
  sense : Bool
  tie : Bool
  aoff : Nat
  boff : Nat
  doff : Nat
  ioff : Nat
  cbase : Nat
deriving DecidableEq, Repr

/-- The operations of the matrix array (R299, R310). -/
inductive MatKind where
  | mma | mdist | mcacc | mcfin
deriving DecidableEq, Repr

/-- A matrix or distance operation (R292, R299, R300): queued or still to enter its core's queue, started or not, the
number of its steps done, and whether the start limit delayed it. -/
structure MatOp where
  id : Nat
  panel : Nat
  skein : Nat
  core : Nat
  kind : MatKind
  blk : MatBlock
  obj : Option (Nat × Nat)
  queued : Bool
  started : Bool
  done : Nat
  delayed : Bool
deriving DecidableEq, Repr

/-- A triangle descriptor submitted to a cluster's rasteriser (R331, R332, R335, R336): the six coordinate words, the depths,
and the key; whether the pending limit has let it in, its place in the order of arrival, whether its key was below the
state then, whether the last panel of its node instance has retired, the next pixel, and the first address that failed. -/
structure RastSub where
  id : Nat
  panel : Nat
  skein : Nat
  core : Nat
  fn : Nat
  handle : Nat
  node : Nat
  mode : Mode
  verts : List Word
  depths : List Word
  value : Word
  target : Dword
  pitch : Nat
  tw : Nat
  th : Nat
  draw : Nat
  group : Nat
  prim : Nat
  blend : Nat
  closes : Bool
  lastOfDraw : Bool
  notri : Bool
  obj : Option (Nat × Nat)
  accepted : Bool
  arrival : Option Nat
  late : Bool
  flushed : Bool
  next : Nat
  fault : Option Dword
deriving DecidableEq, Repr

/-- The ordering state of a cluster and node instance (R335): the current key, and the closed groups with their DEND. -/
structure RastOrder where
  cluster : Nat
  fn : Nat
  handle : Nat
  node : Nat
  draw : Nat
  group : Nat
  closed : List (Nat × Nat × Bool)
deriving DecidableEq, Repr

/-- A running traversal thread (R343, R344): the record's handle, and the exact entry of the child it is about to fetch when
R488 lets a procedural suspension use it; `some none` is minus infinity. -/
structure Ray where
  panel : Nat
  skein : Nat
  lane : Nat
  core : Nat
  mode : Mode
  record : Nat
  lead : Option (Option (Int × Nat))
  skip : Bool
deriving DecidableEq, Repr

/-- A valid group descriptor (R459): GROUPID, P, RANK and the members' device numbers. -/
structure CollGroup where
  id : Nat
  size : Nat
  rank : Nat
  devices : List Nat
deriving DecidableEq, Repr

/-- A collective operation not yet complete (R461, R464, R465): its record's fields, the descriptor once read, the bytes RECV takes once
matched and the offsets of those that poison marks (R479), and how it ends: a status with its fault value. -/
structure CollOp where
  id : Nat
  panel : Nat
  skein : Nat
  core : Nat
  fn : Nat
  mode : Mode
  cop : Cop
  rop : Rop
  ety : Ty
  send : Nat
  recv : Nat
  group : Nat
  count : Nat
  root : Nat
  tag : Nat
  record : Nat
  obj : Option (Nat × Nat)
  desc : Option CollGroup
  out : Option (List Byte)
  marks : List Nat
  ended : Option (Nat × Dword)
deriving DecidableEq, Repr

/-! ## Functions, patterns, launches -/

/-- STATE of a function record (R419). -/
inductive FnState where
  | absent | active | killed
deriving DecidableEq, Repr

/-- A memory window (R456). -/
structure Window where
  base : Nat
  size : Nat
  interleaved : Bool
deriving DecidableEq, Repr

/-- A pipe descriptor (R187). -/
structure PipeDesc where
  home : Nat
  esz : Nat
  dep : Nat
deriving DecidableEq, Repr

/-- A node record as registration keeps it (R174), with the headers of the kernels it names. -/
structure Node where
  kind : Nat
  level : Nat
  body : Nat
  panels : Nat
  first : Dword
  second : Dword
  third : Dword
  grain : Nat
  buffer : Nat
  domain : Nat
  subq : Nat
  arms : List Nat
  members : List Nat
  pipes : List PipeDesc
  argOff : Nat
  kernels : List Header
deriving DecidableEq, Repr

/-- A registered pattern (R170 to R176): its edges are pairs of node indices;
`counts` are the panels each trigger node has dispatched (R129). -/
structure Pattern where
  handle : Nat
  addr : Nat
  serial : Bool
  argBytes : Nat
  image : Header
  measure : List Byte
  nodes : List Node
  edges : List (Nat × Nat)
  counts : List (Nat × Nat)
deriving DecidableEq, Repr

/-- How far a node instance of a launch has come (R177, R178). -/
inductive Phase where
  | waiting | ready | complete | skipped
deriving DecidableEq, Repr

/-- One node of a running launch: its phase, the time it became ready, the panels dispatched so far, the iterations run
(loops) or arm chosen, whether it failed, the time it completed. `awaiting` marks a control word still to be read. -/
structure NodeRun where
  phase : Phase
  readyAt : Nat
  dispatched : Nat
  iter : Nat
  awaiting : Bool
  failed : Bool
  endedAt : Nat
deriving DecidableEq, Repr

/-- An accepted launch that is not done (R168): its nodes once it has started. -/
structure Launch where
  seq : Nat
  handle : Nat
  arg : Nat
  started : Bool
  startAt : Nat
  runs : List NodeRun
deriving DecidableEq, Repr

/-- What an engine holds for a saved panel (R429): an arrival, or the STATUS of a collective (R461), by offset in the panel's
scratchpad. -/
inductive HeldArrival where
  | arrive (off : Nat) (faulted : Bool) (va : Dword)
  | status (off code : Nat)
deriving DecidableEq, Repr

/-- What a context has no place for of a lane that is saved (R397): its skein and lane, and the fields as they stand. -/
structure LaneExtra where
  skein : Nat
  lane : Nat
  needTgt : Bool
  stepDue : Option Dword
  back : Option Back
deriving DecidableEq, Repr

/-- A saved panel (R429, R436): its context lies at `addr` in memory. What the graph engine keeps beside the context is
kept here: what is held for it, what the context does not record of a lane and of the panel's debug registers (R397), and its stopped
traversal threads. -/
structure SavedPanel where
  id : Nat
  handle : Nat
  node : Nat
  ix : Nat
  argAddr : Dword
  kernel : Header
  image : Header
  level : Nat
  slot : Nat
  addr : Nat
  bytes : Nat
  gang : Option Gang
  ringBytes : Nat
  grain : Nat
  readyAt : Nat
  cands : List (Nat × List Word)
  held : List HeldArrival
  extra : List LaneExtra
  dbgreq : Word
  dbgstat : Word
  dbgdata : Dword
  dbg : Option (Nat × Bool)
  threads : List Ray
deriving DecidableEq, Repr

/-- A function record with the function's registers, doorbell, aperture and patterns (R419, R398, R166, R168, R467,
R468). `drops` counts are in the function registers; `msix` are the words of the MSI-X table and `msixPending` its pending bits (R467), `sent` the vectors sent, latest first;
`resetting` marks a killed function that a reset will create again (R466); `change` is a partition being changed to (R438). -/
structure Func where
  st : FnState
  clusters : Word
  root1 : Dword
  root2 : Dword
  saveBase : Nat
  saveSize : Nat
  share : Nat
  margin : Nat
  tmask : Nat
  windows : List Window
  heapVa : Nat
  bandT : Nat
  bandHigh : Nat
  bandLow : Nat
  scopes : Word
  fault : Dword
  tbuf : Dword
  twr : Word
  trd : Word
  tdrop : Word
  fdrop : Word
  grants : Regs
  patstat : Dword
  last : Nat
  refused : Nat
  accepted : Nat
  nextSeq : Nat
  registering : Option Dword
  patterns : List Pattern
  launches : List Launch
  saved : List SavedPanel
  apBase : Dword
  apFault : Dword
  apCount : Word
  msix : Regs
  msixPending : Nat
  sent : List Nat
  answer : List Byte
  resetting : Bool
  change : Option Word
deriving DecidableEq, Repr

/-! ## The scheduler and the dies -/

/-- An entry of the ready pools (R180 to R183): its node instance, level, readiness time, panels not yet dispatched, skip
count on each die, start of its aging interval and energy class; `own` is the saved panel or gang that is an entry of its own (R436). -/
structure PoolEntry where
  id : Nat
  fn : Nat
  handle : Nat
  node : Nat
  level : Nat
  readyAt : Nat
  left : Nat
  skips : List Nat
  since : Nat
  eclass : Nat
  trigger : Bool
  own : Option Nat
deriving DecidableEq, Repr

/-- What the graph engine keeps for a core (R185, R438): out of service, the blocked head and its retirement count, and the entry for which
the core is reserved. -/
structure CoreNote where
  out : Bool
  head : Option Nat
  count : Nat
  reserved : Option Nat
deriving DecidableEq, Repr

/-- A cluster's rotation (R421): functions with slice lengths in µs, the current slice, its start, and whether its saves
are under way. -/
structure Rotation where
  table : List (Nat × Nat)
  current : Nat
  since : Nat
  ending : Bool
deriving DecidableEq, Repr

/-- A die (R396, R475, R476, R481, R442, R186): its cycle counter with the clock's remainder, its power state, counters,
cache partition map, the start times of its latest matrix operations, and the time of its latest power comparison. -/
structure Die where
  cycle : Nat
  acc : Nat
  clock : Nat
  kappa : Nat
  budget : Nat
  corrected : Nat
  uncorr : Nat
  fragStall : Nat
  mstartWait : Nat
  clkDown : Nat
  kappa0 : Nat
  power : Nat
  temp : Nat
  ways : List (List Nat)
  starts : List Nat
  sampled : Nat
deriving DecidableEq, Repr

/-! ## The part -/

/-- The whole part. `tripped` are the dies whose temperature has stopped them (R478), `bad` the bytes that are marked poisoned (R479). `used` are the pipes
that have issued in this cycle (core and pipe), `made` the events made in it that panels make in skein order (panel, skein and kind; R146). `time` counts 1.5 GHz periods since device reset; the reference clock of R477 ticks every fifteen. -/
structure State where
  time : Nat
  dies : List Die
  boot : Nat
  interleave : Nat
  hypEntry : Dword
  hypConst : Nat
  platformSum : List Byte
  hypSum : List Byte
  device : Nat
  routes : List (Nat × Nat)
  fns : List Func
  panels : List Panel
  cores : List (Nat × CoreNote)
  clusters : List (Nat × Rotation)
  pool : List PoolEntry
  mem : Bytes
  hbm : Bytes
  copies : List Copy
  code : List CodeLine
  tlbs : List TlbEntry
  walkCopies : List WalkCopy
  walks : List Walk
  inflight : List Access
  atoms : List AtomStep
  writeBacks : List WriteBack
  swTags : List (Nat × SwTag)
  swStamps : Regs
  swQueues : List (Nat × List SwItem)
  swSince : List (Nat × Nat)
  swWalks : List InvWalk
  rings : List Ring
  copyOps : List CopyOp
  xfms : List XfmOp
  mats : List MatOp
  rastSubs : List RastSub
  rastOrders : List RastOrder
  rays : List Ray
  colls : List CollOp
  tripped : List Nat
  bad : List Spot
  focus : Nat × Nat
  used : List (Nat × Nat)
  made : List (Nat × Nat × Nat)
  inputs : List Instr
  free : Nat
  nextId : Nat
deriving DecidableEq, Repr

/-- A tag entry at device reset (R354). -/
def SwTag.blank : SwTag := ⟨0, 0, 0, .invalid, false, 0, 0, 0, false, false⟩

/-- A function record before firmware creates the function (R419), and its registers' reset values (R398). Both MSI-X vectors are masked. (log entry 76:
PRESUMED) -/
def Func.blank : Func where
  st := .absent
  clusters := 0
  root1 := 0
  root2 := 0
  saveBase := 0
  saveSize := 0
  share := 0
  margin := 0
  tmask := 0
  windows := []
  heapVa := 0
  bandT := 0
  bandHigh := 47
  bandLow := 0
  scopes := 1
  fault := 0
  tbuf := 0
  twr := 0
  trd := 0
  tdrop := 0
  fdrop := 0
  grants := []
  patstat := 0
  last := 0
  refused := 0
  accepted := 0
  nextSeq := 1
  registering := none
  patterns := []
  launches := []
  saved := []
  apBase := 0
  apFault := 0
  apCount := 0
  msix := [(3, 1), (7, 1)]
  msixPending := 0
  sent := []
  answer := []
  resetting := false
  change := none

/-- A die at device reset (R475, R476, R481). -/
def Die.blank : Die where
  cycle := 0
  acc := 0
  clock := 1500
  kappa := 7
  budget := 650000
  corrected := 0
  uncorr := 0
  fragStall := 0
  mstartWait := 0
  clkDown := 0
  kappa0 := 0
  power := 0
  temp := 0
  ways := List.replicate 16 []
  starts := []
  sampled := 0

/-- The machine right after reset: powered, not booted, every function absent, nothing resident. (log entry 8: DESIGN CHOICE) -/
def State.reset : State where
  time := 0
  dies := List.replicate 4 Die.blank
  boot := 0
  interleave := 0
  hypEntry := 0
  hypConst := 0
  platformSum := []
  hypSum := []
  device := 0
  routes := []
  fns := List.replicate 65 Func.blank
  panels := []
  cores := []
  clusters := []
  pool := []
  mem := []
  hbm := []
  copies := []
  code := []
  tlbs := []
  walkCopies := []
  walks := []
  inflight := []
  atoms := []
  writeBacks := []
  swTags := []
  swStamps := []
  swQueues := []
  swSince := []
  swWalks := []
  rings := []
  copyOps := []
  xfms := []
  mats := []
  rastSubs := []
  rastOrders := []
  rays := []
  colls := []
  tripped := []
  bad := []
  focus := (0, 0)
  used := []
  made := []
  inputs := []
  free := 0
  nextId := 1

end Sys2Proof.Machine
end

