-- ==== Sys2Proof/Machine/Ops.lean ====
section
/-!
DEFINITION. Sys2Proof/Machine/Ops.lean: the named operations over stores, lanes, skeins and panels, taking a trap (R382)
and returning from one (R385).
-/
namespace Sys2Proof.Machine

/-! ## Sparse stores -/

/-- What a sparse store holds at an index; `d` is what an unlisted index reads as. -/
def cellGet {α : Type} (d : α) : List (Nat × α) → Nat → α
  | [], _ => d
  | (k, v) :: m, i => if k = i then v else cellGet d m i

/-- A sparse store without an index. -/
def cellErase {α : Type} (m : List (Nat × α)) (i : Nat) : List (Nat × α) := m.filter fun c => c.1 != i

/-- A sparse store with one index changed; the canonical form is kept. Erasing makes the change hold of every list, canonical or not. -/
def cellSet {α : Type} [DecidableEq α] (d : α) : List (Nat × α) → Nat → α → List (Nat × α)
  | [], i, x => if x = d then [] else [(i, x)]
  | (k, v) :: m, i, x =>
    if i < k then (if x = d then (k, v) :: cellErase m i else (i, x) :: (k, v) :: m)
    else if i = k then (if x = d then cellErase m i else (i, x) :: m)
    else (k, v) :: cellSet d m i x

/-- The canonical form: indices strictly rise and no entry equals the default. -/
def cellWf {α : Type} [DecidableEq α] (d : α) : List (Nat × α) → Bool
  | [] => true
  | [(_, v)] => v ≠ d
  | (k, v) :: (k', v') :: m => v ≠ d && k < k' && cellWf d ((k', v') :: m)

/-- A word of a register file. -/
def Regs.get (m : Regs) (i : Nat) : Word := cellGet 0 m i
/-- A register file with one word changed. -/
def Regs.set (m : Regs) (i : Nat) (x : Word) : Regs := cellSet 0 m i x

/-- What a byte of memory that nothing has written reads as (log entry 1: DESIGN CHOICE). -/
def blankByte : Byte := 0

/-- One byte of a memory. -/
def Bytes.get (m : Bytes) (a : Nat) : Byte := cellGet blankByte m a
/-- A memory with one byte changed. -/
def Bytes.set (m : Bytes) (a : Nat) (x : Byte) : Bytes := cellSet blankByte m a x
/-- The canonical form of a memory. -/
def Bytes.wf (m : Bytes) : Bool := cellWf blankByte m

/-- `n` bytes from an address as a little-endian number (R3). -/
def Bytes.read (m : Bytes) (a : Nat) : Nat → Nat
  | 0 => 0
  | n + 1 => (m.get a).toNat + 256 * Bytes.read m (a + 1) n

/-- `n` bytes of a number stored little-endian from an address (R3). -/
def Bytes.write (m : Bytes) (a : Nat) : Nat → Nat → Bytes
  | 0, _ => m
  | n + 1, x => Bytes.write (m.set a (BitVec.ofNat 8 (x % 256))) (a + 1) n (x / 256)

/-- `n` bytes from an address, lowest first. -/
def Bytes.list (m : Bytes) (a : Nat) : Nat → List Byte
  | 0 => []
  | n + 1 => m.get a :: Bytes.list m (a + 1) n

/-- A list of bytes stored from an address. -/
def Bytes.put (m : Bytes) (a : Nat) : List Byte → Bytes
  | [] => m
  | b :: bs => Bytes.put (m.set a b) (a + 1) bs

/-- A number as `n` little-endian bytes. -/
def leBytes (x : Nat) : Nat → List Byte
  | 0 => []
  | n + 1 => BitVec.ofNat 8 (x % 256) :: leBytes (x / 256) n

/-- A little-endian number from bytes. -/
def leNat : List Byte → Nat
  | [] => 0
  | b :: bs => b.toNat + 256 * leNat bs

/-- A list has no repeats. -/
def distinct : List Nat → Bool
  | [] => true
  | x :: xs => !xs.contains x && distinct xs

/-! ## PCs (R17) -/

/-- `next_pc(p)` of R17. -/
def nextPc (p : Dword) : Dword :=
  if p.toNat % 8 < 4 then p + 1 else BitVec.ofNat 64 ((p.toNat / 64 + 1) * 64)

/-- The line address of a PC: bits [63:6]. -/
def lineOf (p : Dword) : Nat := p.toNat / 64 * 64

/-- The slot index of a PC: bits [2:0]. -/
def slotOf (p : Dword) : Nat := p.toNat % 8

/-- R51: bits [5:3] are zero and the slot index is 0 to 4. -/
def pcValid (p : Dword) : Bool := p.toNat / 8 % 8 == 0 && p.toNat % 8 < 5

/-- The target of BRA and CALL (R44). -/
def branchTarget (p : Dword) (lit : Word) : Dword :=
  let line := (p.toNat / 64 : Nat) + sext (lit.toNat / 8) 29
  BitVec.ofNat 64 (wrap line 58 * 64 + lit.toNat % 8)

/-! ## Codes -/

/-- The code of a mode (R377). -/
def Mode.code : Mode → Nat
  | .user => 0 | .supervisor => 1 | .hypervisor => 2

/-- The mode of a PM field; 3 never stands there (R379). -/
def modeOfCode (n : Nat) : Mode := if n = 0 then .user else if n = 1 then .supervisor else .hypervisor

/-- The cause code (R54). -/
def Cause.code : Cause → Nat
  | .illop => 0x01 | .illopnd => 0x02 | .illine => 0x03 | .btarget => 0x04 | .priv => 0x05 | .stallshort => 0x06
  | .align => 0x07 | .syscall => 0x08 | .hcall => 0x09 | .bkpt => 0x0A | .step => 0x0B | .barcount => 0x0C
  | .tfld => 0x10 | .tfst => 0x11 | .tfif => 0x12 | .tftrav => 0x13 | .tfeng => 0x14 | .perm => 0x15
  | .scopepol => 0x18 | .tdepth => 0x20 | .fpexc => 0x28 | .preempt => 0x30 | .ifecc => 0x31 | .poison => 0x38
  | .double => 0x39 | .mchk => 0x3F

/-- The mode satisfies a "Read", "Write" or "Mode" column (R396, R399). -/
def Mode.allows (m : Mode) : Least → Bool
  | .user => true
  | .supervisor => m != .user
  | .hypervisor => m == .hypervisor
  | .never => false

/-! ## Lanes -/

/-- A save set that holds nothing (R379: all zero at panel start). -/
def SaveSet.zero : SaveSet := ⟨0, 0, 0, 0⟩

/-- A bank whose entries are all zero and landed (R12, R383). -/
def blankBank (n : Nat) : List QCell := List.replicate n ⟨0, 0⟩

/-- lane.origin at panel start (R127, R398). -/
def originOf (skein lane : Nat) : Word := BitVec.ofNat 32 (skein % 32 * 32 + lane % 32)

/-- The park state of a count (R95): the count reaches zero in cycle `cycle + n`. -/
def parkOf (cycle n : Nat) : Park := if n = 0 then .still else .till (cycle + n)

/-- A lane at panel start (R12, R127, R50). -/
def Lane.start (entry : Dword) (skein lane : Nat) : Lane where
  v := []
  qUser := blankBank 16
  qSup := blankBank 8
  qHyp := blankBank 8
  tSup := []
  tHyp := []
  pc := entry
  mode := .user
  exited := false
  park := none
  held := none
  yielding := false
  tdepth := 0
  origin := originOf skein lane
  saveS := .zero
  saveH := .zero
  lastChange := BitVec.allOnes 64
  needTgt := true
  wake := 0
  entry := none
  stepDue := none
  waitDue := none
  back := none

/-- The lane's bank of a mode (R377). -/
def Lane.bank (l : Lane) : Mode → List QCell
  | .user => l.qUser
  | .supervisor => l.qSup
  | .hypervisor => l.qHyp

/-- The lane with one bank replaced. -/
def Lane.setBank (l : Lane) (m : Mode) (b : List QCell) : Lane :=
  match m with
  | .user => { l with qUser := b }
  | .supervisor => { l with qSup := b }
  | .hypervisor => { l with qHyp := b }

/-- The lane's trap registers in a privileged mode (R16). (log entry 65: DEDUCED) -/
def Lane.tregs (l : Lane) : Mode → Regs
  | .hypervisor => l.tHyp
  | _ => l.tSup

/-- A push into a bank: the oldest entry's cell becomes the new q0 and keeps the value last made available in it until
the push numbered `tag` lands (R27). -/
def bankPush (b : List QCell) (tag : Nat) : List QCell :=
  match b.getLast? with
  | some c => { c with tag := tag } :: b.dropLast
  | none => b

/-- The result of push `tag` becomes available: it lands in the cell the push still holds (R28). -/
def bankLand (b : List QCell) (tag : Nat) (x : Word) : List QCell :=
  b.map fun c => if c.tag = tag then { c with val := x } else c

/-- What poisoned data does to a lane: the targets that receive nothing, or the lane alone when it has none (R219). -/
def badTargets (l : Nat) (ts : List Target) : Option Dword → List BadTarget
  | some v => if ts.isEmpty then [⟨none, l, v⟩] else ts.map fun t => ⟨some t, l, v⟩
  | none => []

/-- The lane neither parked, held nor yielding, and live (R130). -/
def Lane.free (l : Lane) : Bool := !l.exited && l.park.isNone && l.held.isNone && !l.yielding

/-- A non-sequential change of a lane's PC made by the instruction at `by_` (R50). -/
def Lane.jump (l : Lane) (dest by_ : Dword) : Lane := { l with pc := dest, lastChange := by_, needTgt := true }

/-- A lane exits; in a handler it discards its saved trap state (R94). -/
def Lane.exit (l : Lane) (m : Mode) : Lane :=
  if m = .user then { l with exited := true } else { l with exited := true, saveS := .zero, saveH := .zero }

/-- A lane that goes on at the next slot (R50). -/
def Lane.advance (l : Lane) (next : Dword) : Lane := { l with pc := next, needTgt := false }

/-! ## Skeins -/

/-- What a lane number outside 0 to 31 reads as; no instruction names one. -/
def Lane.absent : Lane := { Lane.start 0 0 0 with exited := true }

/-- Lane `l` of a skein. -/
def Skein.lane (k : Skein) (l : Nat) : Lane := k.lanes.getD l .absent

/-- The skein with one lane changed. -/
def Skein.onLane (k : Skein) (l : Nat) (f : Lane → Lane) : Skein := { k with lanes := k.lanes.modify l f }

/-- The skein with several lanes changed. -/
def Skein.onLanes (k : Skein) (ls : List Nat) (f : Nat → Lane → Lane) : Skein :=
  ls.foldl (fun k l => k.onLane l (f l)) k

/-- A mask register: k0 always reads as all ones (R128). -/
def Skein.mask (k : Skein) (r : Nat) : Word := if r = 0 then BitVec.allOnes 32 else k.k.get r

/-- One bit of a mask register. -/
def Skein.maskBit (k : Skein) (r l : Nat) : Bool := (k.mask r).getLsbD l

/-- A mask word with one bit set to a value. -/
def setBit (w : Word) (l : Nat) (b : Bool) : Word :=
  if b then w ||| (1#32 <<< l) else w &&& ~~~(1#32 <<< l)

/-- The private scalar registers of a privileged mode (R128). -/
def Skein.xregs (k : Skein) : Mode → Regs
  | .hypervisor => k.xHyp
  | _ => k.xSup

/-- The value that stands in a register (R27: the value last made available). A mask bit reads as 0 or 1. -/
def Skein.readTarget (k : Skein) : Target → Word
  | .v l r => (k.lane l).v.get r
  | .tSup l r => (k.lane l).tSup.get r
  | .tHyp l r => (k.lane l).tHyp.get r
  | .s r => k.s.get r
  | .xSup r => k.xSup.get r
  | .xHyp r => k.xHyp.get r
  | .k r l => if k.maskBit r l then 1 else 0

/-- A value lands in a register; a mask register takes bit 0 for the lane, and k0 takes nothing (R39). -/
def Skein.writeTarget (k : Skein) (t : Target) (x : Word) : Skein :=
  match t with
  | .v l r => k.onLane l fun a => { a with v := a.v.set r x }
  | .tSup l r => k.onLane l fun a => { a with tSup := a.tSup.set r x }
  | .tHyp l r => k.onLane l fun a => { a with tHyp := a.tHyp.set r x }
  | .s r => { k with s := k.s.set r x }
  | .xSup r => { k with xSup := k.xSup.set r x }
  | .xHyp r => { k with xHyp := k.xHyp.set r x }
  | .k r l => if r = 0 then k else { k with k := k.k.set r (setBit (k.k.get r) l (x.getLsbD 0)) }

/-- The skein as its event reads it: an event that waits for translations keeps what it read at its issue (R217, R220). -/
def Skein.view (k : Skein) : Skein :=
  match k.reads with
  | none => k
  | some r => { k with lanes := r.lanes, k := r.k, s := r.s, xSup := r.xSup, xHyp := r.xHyp, results := r.results }

/-- The skein has issued instruction `i`, which waits for translations: what it reads now stays what it has read. -/
def Skein.keepReads (k : Skein) (i : Instr) : Skein :=
  { k with reads := some (k.reads.getD ⟨i, k.lanes, k.k, k.s, k.xSup, k.xHyp, k.results⟩) }

/-- Lanes whose mode differs from what it was have entered a handler in this cycle (R131). -/
def Skein.entered (k old : Skein) (cycle : Nat) : Skein :=
  { k with lanes := k.lanes.zipWith (fun a b => if a.mode = b.mode then a else { a with entry := some (cycle + 1, b.mode) }) old.lanes }

/-- Several values land, in order. -/
def Skein.writeTargets (k : Skein) (ws : List (Target × Word)) : Skein :=
  ws.foldl (fun k w => k.writeTarget w.1 w.2) k

/-- A younger write has reached a register: the older pending fixed-latency writes to it are discarded (R28). -/
def FixedResult.dropReg (t : Target) (r : FixedResult) : FixedResult :=
  { r with regs := r.regs.filter fun w => w.1 ≠ t }

/-- R28 for a write numbered `seq` to some registers. -/
def supersede (rs : List FixedResult) (seq : Nat) (ts : List Target) : List FixedResult :=
  rs.map fun r => if r.seq < seq then ts.foldl (fun r t => r.dropReg t) r else r

/-- A write made at once, younger than everything issued so far (R90, R383, R394): it lands and supersedes. -/
def Skein.writeNow (k : Skein) (ws : List (Target × Word)) : Skein :=
  { k.writeTargets ws with results := supersede k.results (k.seq + 1) (ws.map fun w => w.1) }

/-- A skein at panel start (R128, R129): `s0` to `s10` and the node instance number are given. -/
def Skein.start (entry : Dword) (ix pipe cycle : Nat) (scalars : Regs) : Skein where
  ix := ix
  pipe := pipe
  lanes := (List.range 32).map fun l => Lane.start entry ix l
  k := []
  s := scalars
  xSup := []
  xHyp := []
  fpmode := 0
  fpflags := 0
  ply := 32
  step := 0
  bars := []
  frags := []
  nextIssue := cycle
  seq := 1
  results := []
  outs := []
  sel := none
  reads := none
  forming := none
  waitStart := none
  retired := false

/-- The mode that a cycle's selections see: an entry into a handler counts from the next cycle (R131). -/
def Lane.modeAt (a : Lane) (cycle : Nat) : Mode :=
  match a.entry with
  | some (c, m) => if cycle < c then m else a.mode
  | none => a.mode

/-- The cycle's selections see the lane as it is: no release and no entry into a handler is newer (R131). -/
def Lane.seen (a : Lane) (cycle : Nat) : Bool := decide (a.wake ≤ cycle) && a.entry.all fun e => decide (e.1 ≤ cycle)

/-- `select(skein)` of R130: the issue set, empty when no lane issues. -/
def Skein.select (k : Skein) (cycle : Nat) : List Nat :=
  let all := List.range 32
  let live := all.filter fun l => !(k.lane l).exited
  let top := live.foldl (fun m l => max m ((k.lane l).modeAt cycle).code) 0
  let cand := live.filter fun l => (k.lane l).mode.code == top && (k.lane l).free && (k.lane l).seen cycle
  match cand with
  | [] => []
  | c :: cs =>
    let p := cs.foldl (fun m l => min m (k.lane l).pc.toNat) (k.lane c).pc.toNat
    cand.filter fun l => (k.lane l).pc.toNat == p

/-- The issue set of the skein's next event, in ascending lane order: a standing selection, or a fresh one (R130, R131). -/
def Skein.issueSet (k : Skein) (cycle : Nat) : List Nat :=
  match k.sel with
  | some ls => (List.range 32).filter fun l => ls.contains l
  | none => k.select cycle

/-! ## Places -/

/-- The die of a core number (R398: 24 cores a cluster, 8 clusters a die). -/
def dieOf (core : Nat) : Nat := core / 192 % 4
/-- The cluster of a core number, 0 to 31 as in CLUSTERS (R419). -/
def clusterOf (core : Nat) : Nat := core / 24
/-- The core's index in its cluster. -/
def coreIx (core : Nat) : Nat := core % 24
/-- The place code of a die's remote-data cache and last-level TLB. -/
def diePlace (die : Nat) : Nat := 768 + die

/-- A die. -/
def State.die (s : State) (d : Nat) : Die := s.dies.getD d Die.blank
/-- The state with one die changed. -/
def State.onDie (s : State) (d : Nat) (f : Die → Die) : State := { s with dies := s.dies.modify d f }
/-- The arithmetic-clock count of a core's die (R396, core.cycle). -/
def State.cycle (s : State) (core : Nat) : Nat := (s.die (dieOf core)).cycle

/-- A function record; the list holds 65. -/
def State.func (s : State) (n : Nat) : Func := s.fns.getD n Func.blank
/-- The state with one function record changed. -/
def State.onFunc (s : State) (n : Nat) (f : Func → Func) : State := { s with fns := s.fns.modify n f }

/-- Mask of an MSI-X vector: bit 0 of the last word of its table entry (R467). -/
def Func.masked (f : Func) (v : Nat) : Bool := (f.msix.get (4 * v + 3)).getLsbD 0

/-- An MSI-X vector fires (R467): its message is sent, or its pending bit is set while it is masked. (log entry 76: PRESUMED) -/
def Func.fire (f : Func) (v : Nat) : Func :=
  if f.masked v then { f with msixPending := f.msixPending ||| 2 ^ v } else { f with sent := v :: f.sent }

/-! ## Poison markers (R479) -/

/-- The byte lies in a range of a region. -/
def spotIn (x : Spot) (r : Region) (a n : Nat) : Bool := x.region == r && decide (a ≤ x.addr) && decide (x.addr < a + n)

/-- The marked bytes of a range. -/
def State.badBytes (s : State) (r : Region) (a n : Nat) : List Nat := (s.bad.filter fun x => spotIn x r a n).map fun x => x.addr

/-- Some byte of a range is marked. -/
def State.poisoned (s : State) (r : Region) (a n : Nat) : Bool := s.bad.any fun x => spotIn x r a n

/-- A range takes data with no marker. -/
def State.heal (s : State) (r : Region) (a n : Nat) : State := { s with bad := s.bad.filter fun x => !spotIn x r a n }

/-- A range takes a copy of another of the same size, and the markers travel with it. -/
def State.carry (s : State) (r : Region) (a : Nat) (r' : Region) (b n : Nat) : State :=
  { s with bad := (s.bad.filter fun x => !spotIn x r' b n) ++ (s.badBytes r a n).map fun i => ⟨r', b + (i - a)⟩ }

/-- Memory `m` in which the `n` bytes from an address are fresh data. -/
def State.setMem (s : State) (m : Bytes) (a n : Nat) : State := { s with mem := m }.heal .memory a n

/-- One byte is marked, or holds data with no marker. -/
def State.mark (s : State) (r : Region) (a : Nat) (b : Bool) : State :=
  let s1 := s.heal r a 1
  if b then { s1 with bad := s1.bad ++ [⟨r, a⟩] } else s1

/-- The markers of a region are gone with it. -/
def State.unmark (s : State) (r : Region) : State := { s with bad := s.bad.filter fun x => x.region != r }

/-! ## Panels -/

/-- A panel by its number. -/
def State.panel? (s : State) (id : Nat) : Option Panel := s.panels.find? fun p => p.id == id

/-- The state with one panel replaced by number. -/
def State.setPanel (s : State) (p : Panel) : State :=
  { s with panels := s.panels.map fun q => if q.id = p.id then p else q }

/-- The state with one panel changed. -/
def State.onPanel (s : State) (id : Nat) (f : Panel → Panel) : State :=
  { s with panels := s.panels.map fun q => if q.id = id then f q else q }

/-- Skein `k` of a panel. -/
def Panel.skein? (p : Panel) (k : Nat) : Option Skein := p.skeins[k]?

/-- The panel with one skein changed. -/
def Panel.onSkein (p : Panel) (k : Nat) (f : Skein → Skein) : Panel := { p with skeins := p.skeins.modify k f }

/-- The PC of a header's entry line, slot 0 (R69: the header stands 64 bytes below it). -/
def Header.entry (h : Header) : Dword := h.addr + 64

/-- The trap-settings word that governs a mode (R378). -/
def Panel.traps (p : Panel) : Mode → Word
  | .user => p.kernel.traps
  | .supervisor => p.image.traps
  | .hypervisor => 0

/-- The checking scoreboard is on for a mode (R29, R378). -/
def Panel.checking (p : Panel) (m : Mode) : Bool := (p.traps m).getLsbD 0

/-- The FP trap enables of a mode, bits [4:0] (R84, R378). -/
def Panel.fpEnables (p : Panel) (m : Mode) : Nat := bits (p.traps m).toNat 20 16

/-! ## Taking a trap and returning from one -/

/-- The mode a cause is routed to (R380); `none` for a panel cause. -/
def route (m : Mode) (c : Cause) : Option Mode :=
  match c with
  | .syscall => some (match m with | .hypervisor => .hypervisor | _ => .supervisor)
  | .hcall | .step | .double => some .hypervisor
  | .preempt | .poison | .mchk => none
  | _ => some (match m with | .user => .supervisor | _ => .hypervisor)

/-- NEST of lane.status.h (R379). -/
def nestOfH (status : Word) : Bool := status.getLsbD 2

/-- NEST of lane.status.s (R379). -/
def nestOfS (status : Word) : Bool := status.getLsbD 1

/-- The cause word of an entry: CAUSE and the PAIR bit (R379). -/
def causeWord (c : Cause) (pair : Bool) : Word := BitVec.ofNat 32 (c.code + if pair then 512 else 0)

/-- Entry of a lane into supervisor mode (R382). -/
def Lane.enterSup (l : Lane) (entry : Dword) (t : Trap) : Lane :=
  { l with
    saveS := ⟨t.epc, t.tval, causeWord t.cause t.pair, BitVec.ofNat 32 l.mode.code⟩
    mode := .supervisor, qSup := blankBank 8, pc := entry, lastChange := BitVec.allOnes 64, needTgt := true }

/-- Entry of a lane into hypervisor mode (R382); SE says that it was by STEP. -/
def Lane.enterHyp (l : Lane) (entry : Dword) (t : Trap) : Lane :=
  { l with
    saveH := ⟨t.epc, t.tval, causeWord t.cause t.pair, BitVec.ofNat 32 (l.mode.code + if t.cause = .step then 8 else 0)⟩
    mode := .hypervisor, qHyp := blankBank 8, pc := entry, lastChange := BitVec.allOnes 64, needTgt := true }

/-- `take_trap` of R382 for one lane: the lane after it, and the cause not taken when the trap stops the panel under
R391. `supEntry` and `hypEntry` are the entry points of R381. -/
def Lane.takeTrap (l : Lane) (supEntry hypEntry : Dword) (t : Trap) : Lane × Option Cause :=
  match route l.mode t.cause with
  | none => (l, none)
  | some .user => (l, none)
  | some .supervisor =>
    if l.mode = .supervisor ∧ nestOfS l.saveS.status = false then
      (l.enterHyp hypEntry { t with cause := .double, tval := BitVec.ofNat 64 t.cause.code }, none)
    else (l.enterSup supEntry t, none)
  | some .hypervisor =>
    if l.mode = .hypervisor ∧ nestOfH l.saveH.status = false then (l, some t.cause)
    else (l.enterHyp hypEntry t, none)

/-- `trap_return` of R385, made by the TRET at `at_`. -/
def Lane.trapReturn (l : Lane) (at_ : Dword) : Lane :=
  match l.mode with
  | .user => l
  | .supervisor => { l.jump l.saveS.epc at_ with mode := modeOfCode (l.saveS.status.toNat % 2) }
  | .hypervisor => { l.jump l.saveH.epc at_ with mode := modeOfCode (l.saveH.status.toNat % 4) }

/-- The open generation of a panel's barrier (R145). -/
def Panel.gen (p : Panel) (b : Nat) : Nat := (cellGet ⟨0, none, 0⟩ p.bars b).gen

/-- A lane that has returned from the handler that made CTXLOAD stands in the loaded state (R405): its park counts from here, and a hold
at a barrier that has flipped since is over. One that leaves hypervisor mode for another mode does not come back to it. (log entry 73: DEDUCED) -/
def Lane.comeBack (a : Lane) (gen : Nat → Nat) (cycle : Nat) : Lane :=
  match a.back with
  | none => a
  | some b =>
    if a.mode = b.mode then
      { a with
        back := none, exited := b.exited, park := b.park.map (parkOf cycle)
        held := b.held.filter fun h =>
          match h with
          | .bar n g => decide (gen n ≤ g)
          | _ => true }
    else if a.mode = .hypervisor then a else { a with back := none }

/-- A halt begins (R387 steps 1 and 2), or a second POISON or MCHK is noted (MULTI). -/
def Panel.startHalt (p : Panel) (cycle skein : Nat) (c : Cause) (lanes : Word) (tval : Dword) : Panel :=
  match p.halt with
  | some h => { p with halt := some { h with multi := h.multi || c != .double } }
  | none => { p with halt := some ⟨cycle, skein, c, lanes, tval, false, List.replicate p.skeins.length 0⟩ }

/-- A lane's bit of a lane mask. -/
def laneBit (l : Nat) : Word := 1#32 <<< l

/-- The lanes of a list as a mask. -/
def laneMask (ls : List Nat) : Word := ls.foldl (fun w l => w ||| laneBit l) 0

/-- Lanes of a skein have consumed poisoned data: the panel stops (R219, R309, R387, R479). -/
def State.poisonStop (s : State) (panel k : Nat) (lanes : Word) (v : Dword) : State :=
  s.onPanel panel fun q => q.startHalt (s.cycle q.core) k .poison lanes v

/-- The same where some lane has. -/
def State.poisonHalt (s : State) (panel k : Nat) (lanes : Word) (v : Dword) : State :=
  if lanes = 0 then s else s.poisonStop panel k lanes v

/-- The lanes of skein `k` take their traps (R382, R384); those that may not stop the panel under R391. A halted panel
takes no trap (R390). -/
def Panel.takeTraps (p : Panel) (k cycle : Nat) (hypEntry : Dword) (ts : List Trap) : Panel :=
  match p.halt, p.skein? k with
  | some _, _ => p
  | none, none => p
  | none, some sk =>
    let stopped := ts.filter fun t => ((sk.lane t.lane).takeTrap p.image.entry hypEntry t).2.isSome
    let sk' := ts.foldl (fun sk t => sk.onLane t.lane fun l => (l.takeTrap p.image.entry hypEntry t).1) sk
    let p' := p.onSkein k fun _ => sk'
    match stopped with
    | [] => p'
    | t :: _ =>
      p'.startHalt cycle k .double (laneMask (stopped.map (·.lane)))
        (BitVec.ofNat 64 t.cause.code)

end Sys2Proof.Machine
end

