-- ==== Sys2Proof/Machine/Operands.lean ====
section
/-!
DEFINITION. Sys2Proof/Machine/Operands.lean: the frame of an issue event, every operand form (R13 to R16, R37 to R39,
R89, R214), what a read returns and when it is under-served or interlocked (R27, R30, R306).
-/
namespace Sys2Proof.Machine

/-- What one issue event of a skein works on: everything is as it stood before the event (R9, R19);
`pc` is the instruction's own PC and `next` the PC the event continues at; `starting` says that the skein may issue nothing yet. -/
structure Frame where
  p : Panel
  kx : Nat
  k : Skein
  lanes : List Nat
  pc : Dword
  next : Dword
  mode : Mode
  cycle : Nat
  hypEntry : Dword
  starting : Bool

/-- The lowest lane of the issue set. -/
def Frame.first (fr : Frame) : Nat := fr.lanes.headD 0

/-- A lane's predicate (R35). -/
def predOn (s : Slot) (k : Skein) (l : Nat) : Bool := k.maskBit s.pred.val l != s.pneg

/-- The leader of a scalar-form or once-acting instruction (R137). -/
def Frame.leader (fr : Frame) (s : Slot) : Nat := ((fr.lanes.filter fun l => predOn s fr.k l).head?).getD fr.first

/-! ## Operand forms -/

/-- What a source field of a form accepts. -/
inductive SrcKind where
  /-- The form has no such operand: 0xA5 (R36). -/
  | unused
  /-- Any 32-bit operand, accumulator fragments among them (R37, R306). -/
  | any
  /-- Any 32-bit operand but a fragment. -/
  | noFrag
  /-- Any 32-bit operand but a fragment and a mask register (R327). -/
  | noMask
  /-- Any 32-bit operand but a fragment and a literal (R399, R213). -/
  | noLit
  /-- Any 32-bit operand but a literal; fragments are accepted (R121, R159). -/
  | fragNoLit
  /-- A 64-bit operand (R14, R15). -/
  | wide
  /-- A 64-bit operand but a literal. -/
  | wideNoLit
  /-- An even pair: v, s, t, x, or two queue ages from an even one (R401). -/
  | pairNoLit
  /-- A branch target (R89). -/
  | jump
  /-- A mask register (R153). -/
  | mask
  /-- An s register or a literal (R161, R305). -/
  | scalarOrLit
  /-- An s register (R286, R460). -/
  | scalar
  /-- An s register or 0xA5 (R216). -/
  | scalarOrZero
  /-- An even s pair, s0 to s62 (R285, R399, R416). -/
  | scalarPair
  /-- Four s registers from a multiple of four, s0 to s60 (R227). -/
  | scalarQuad
  /-- A 64-bit base address: an even v pair, an even s pair, a queue pair or 0xA5 (R213). -/
  | base
  /-- A v, s, t, x register or 0xA5, and for 32 bits a queue age: a datum of 32 bits or fewer (R214). -/
  | datum (queue : Bool)
  /-- A datum of 64 bits (R214). -/
  | datum64
  /-- A datum of 128 bits (R214). -/
  | datum128
  /-- `n` vector registers from the field's own (R188, R342). -/
  | vregs (n : Nat)
  /-- `n` vector registers from the field's own that the instruction names and does not read (R342). -/
  | named (n : Nat)
  /-- An even v pair or a queue pair (R327, R364). -/
  | vqPair
  /-- A v register, a queue age, an s register or a literal (R299). -/
  | block
deriving DecidableEq, Repr

/-- What the destination field of a form accepts. -/
inductive DstKind where
  /-- The form has no destination: 0xFF (R36). -/
  | unused
  /-- A fixed-latency result of 32 bits; `k` says whether a mask register is accepted (R39, R110). -/
  | fixed (k : Bool)
  /-- A fixed-latency result of 64 bits (R14, R107). -/
  | fixed64
  /-- A variable-latency result of 32 bits (R21). -/
  | late (k : Bool)
  /-- A variable-latency result of 64 bits. -/
  | late64
  /-- A scalar form that accepts an s register or 0xFF alone (R110, R235). -/
  | lateScalar
  /-- A 64-bit scalar pair s0 to s60, or 0xFF (R284). -/
  | lateScalar64
  /-- The link of a call (R90). -/
  | link
  /-- A loaded datum of `n` words (R214); `opt` accepts 0xFF (R212). -/
  | load (n : Nat) (opt : Bool)
  /-- Three scalar registers from a multiple of four, s0 to s56 (R192). -/
  | span
  /-- `n` named vector registers whose first index is a multiple of `m`; `opt` accepts 0xFF (R188, R342, R364). -/
  | vregs (n m : Nat) (opt : Bool)
deriving DecidableEq, Repr

/-- A named vector register below the declared count (R13). -/
def Frame.vOk (fr : Frame) (n : Nat) : Bool := decide (n < fr.p.kernel.vregs)

/-- A scalar register below the declared count, or s62 and s63 as sources (R70). -/
def Frame.sOk (fr : Frame) (n : Nat) : Bool := decide (n < fr.p.kernel.sregs) || decide (62 ≤ n)

/-- A scalar destination below the declared count (R70). -/
def Frame.sDstOk (fr : Frame) (n : Nat) : Bool := decide (n < fr.p.kernel.sregs)

/-- The number of ages of the current bank (R37). -/
def Mode.ages : Mode → Nat
  | .user => 16
  | _ => 8

/-- A fragment slot is bound (R306). -/
def Skein.fragOf (k : Skein) (n : Nat) : Option Frag := (k.frags.find? fun f => f.1 == n).map (·.2)

/-- A 32-bit operand is legal (R37); `frag` and `lit` say whether the form accepts those. -/
def Frame.src32Ok (fr : Frame) (frag lit : Bool) : Src → Bool
  | .v n => fr.vOk n
  | .q n => decide (n.val < fr.mode.ages)
  | .k _ => true
  | .f n => frag && (fr.k.fragOf n).isSome
  | .lane | .skeinIx | .plyIx | .plyLane | .origin | .zero => true
  | .lit => lit
  | .reserved _ => false
  | .t _ | .x _ => fr.mode != .user
  | .s n => fr.sOk n

/-- A 64-bit operand is legal (R14, R15); `lit` says whether a literal is. -/
def Frame.src64Ok (fr : Frame) (lit : Bool) : Src → Bool
  | .v n => n.val % 2 == 0 && fr.vOk (n.val + 1)
  | .q n => decide (n.val + 1 < fr.mode.ages)
  | .k _ => true
  | .f _ => false
  | .lane | .skeinIx | .plyIx | .plyLane | .origin | .zero => true
  | .lit => lit
  | .reserved _ => false
  | .t n => fr.mode != .user && n.val % 2 == 0
  | .x n => fr.mode != .user && n.val % 2 == 0
  | .s n => n.val % 2 == 0 && fr.sOk (n.val + 1)

/-- The source field is legal for the form (R37 and the instruction's own description). -/
def Frame.srcOk (fr : Frame) (kind : SrcKind) (x : Src) : Bool :=
  match kind with
  | .unused => x == .zero
  | .any => fr.src32Ok true true x
  | .noFrag => fr.src32Ok false true x
  | .noMask =>
    match x with
    | .k _ => false
    | _ => fr.src32Ok false true x
  | .noLit => fr.src32Ok false false x
  | .fragNoLit => fr.src32Ok true false x
  | .wide => fr.src64Ok true x
  | .wideNoLit => fr.src64Ok false x
  | .jump =>
    match x with
    | .v _ | .q _ | .s _ | .t _ | .x _ => fr.src64Ok false x
    | _ => false
  | .pairNoLit =>
    match x with
    | .q n => n.val % 2 == 0 && fr.src64Ok false x
    | .v _ | .s _ | .t _ | .x _ => fr.src64Ok false x
    | _ => false
  | .mask =>
    match x with
    | .k _ => true
    | _ => false
  | .scalarOrLit =>
    match x with
    | .s n => fr.sOk n
    | .lit => true
    | _ => false
  | .scalar =>
    match x with
    | .s n => fr.sOk n
    | _ => false
  | .scalarOrZero =>
    match x with
    | .s n => fr.sOk n
    | .zero => true
    | _ => false
  | .scalarPair =>
    match x with
    | .s _ => fr.src64Ok false x
    | _ => false
  | .scalarQuad =>
    match x with
    | .s n => n.val % 4 == 0 && fr.sOk (n.val + 3) && (n.val + 3 < 62 || fr.sOk (n.val + 1))
    | _ => false
  | .base =>
    match x with
    | .v _ | .q _ | .s _ => fr.src64Ok false x
    | .zero => true
    | _ => false
  | .datum queue =>
    match x with
    | .v _ | .s _ | .t _ | .x _ | .zero => fr.src32Ok false false x
    | .q _ => queue && fr.src32Ok false false x
    | _ => false
  | .datum64 =>
    match x with
    | .v _ | .q _ | .s _ | .t _ | .x _ | .zero => fr.src64Ok false x
    | _ => false
  | .datum128 =>
    match x with
    | .v n => n.val % 4 == 0 && fr.vOk (n.val + 3)
    | .s n => n.val % 4 == 0 && fr.sOk n && fr.sOk (n.val + 1) && fr.sOk (n.val + 2) && fr.sOk (n.val + 3)
    | .t n | .x n => fr.mode != .user && n.val % 4 == 0
    | .zero => true
    | _ => false
  | .vregs n | .named n =>
    match x with
    | .v r => fr.vOk (r.val + (n - 1))
    | _ => false
  | .vqPair =>
    match x with
    | .v _ | .q _ => fr.src64Ok false x
    | _ => false
  | .block =>
    match x with
    | .v _ | .q _ | .s _ | .lit => fr.src32Ok false true x
    | _ => false

/-- The destination field is legal for the form (R39 and the instruction's own description). -/
def Frame.dstOk (fr : Frame) (kind : DstKind) (x : Dst) : Bool :=
  let priv := fr.mode != .user
  match kind, x with
  | .unused, .none => true
  | .unused, _ => false
  | .fixed _, .v n => fr.vOk n
  | .fixed ok, .k n => ok && n.val != 0
  | .fixed _, .t _ => priv
  | .fixed _, .x _ => priv
  | .fixed _, .s n => fr.sDstOk n
  | .fixed _, .push => true
  | .fixed _, .none => true
  | .fixed _, _ => false
  | .fixed64, .v n => n.val % 2 == 0 && fr.vOk (n.val + 1)
  | .fixed64, .t n => priv && n.val % 2 == 0
  | .fixed64, .x n => priv && n.val % 2 == 0
  | .fixed64, .s n => n.val % 2 == 0 && fr.sDstOk (n.val + 1)
  | .fixed64, .push => true
  | .fixed64, .none => true
  | .fixed64, _ => false
  | .late _, .v n => fr.vOk n
  | .late ok, .k n => ok && n.val != 0
  | .late _, .t _ => priv
  | .late _, .x _ => priv
  | .late _, .s n => fr.sDstOk n
  | .late _, .none => true
  | .late _, _ => false
  | .late64, .v n => n.val % 2 == 0 && fr.vOk (n.val + 1)
  | .late64, .t n => priv && n.val % 2 == 0
  | .late64, .x n => priv && n.val % 2 == 0
  | .late64, .s n => n.val % 2 == 0 && fr.sDstOk (n.val + 1)
  | .late64, .none => true
  | .late64, _ => false
  | .lateScalar, .s n => fr.sDstOk n
  | .lateScalar, .none => true
  | .lateScalar, _ => false
  | .lateScalar64, .s n => n.val % 2 == 0 && fr.sDstOk (n.val + 1)
  | .lateScalar64, .none => true
  | .lateScalar64, _ => false
  | .link, .v n => n.val % 2 == 0 && fr.vOk (n.val + 1)
  | .link, .s n => n.val % 2 == 0 && fr.sDstOk (n.val + 1)
  | .link, .none => true
  | .link, _ => false
  | .load m _, .v n => n.val % m == 0 && fr.vOk (n.val + m - 1)
  | .load m _, .s n => n.val % m == 0 && decide (n.val + m ≤ 62) && fr.sDstOk (n.val + m - 1)
  | .load m _, .t n => priv && n.val % m == 0 && decide (n.val + m ≤ 8)
  | .load m _, .x n => priv && n.val % m == 0 && decide (n.val + m ≤ 8)
  | .load _ opt, .none => opt
  | .load _ _, _ => false
  | .span, .s n => n.val % 4 == 0 && decide (n.val ≤ 56) && fr.sDstOk (n.val + 2)
  | .span, _ => false
  | .vregs n m _, .v r => r.val % m == 0 && fr.vOk (r.val + (n - 1))
  | .vregs _ _ opt, .none => opt
  | .vregs _ _ _, _ => false

/-! ## Reads -/

/-- The registers a source names for a lane, low word first; `n` words. Nothing for a source that is no register. -/
def Frame.srcTargets (fr : Frame) (l : Nat) (x : Src) (n : Nat) : List Target :=
  match x with
  | .v r => (List.range n).map fun i => .v l (r.val + i)
  | .t r => (List.range n).map fun i => if fr.mode = .hypervisor then .tHyp l (r.val + i) else .tSup l (r.val + i)
  | .x r => (List.range n).map fun i => if fr.mode = .hypervisor then .xHyp (r.val + i) else .xSup (r.val + i)
  | .s r => (List.range n).map fun i => .s (r.val + i)
  | .k r => [.k r.val l]
  | _ => []

/-- The registers a destination names for a lane, low word first. -/
def Frame.dstTargets (fr : Frame) (l : Nat) (x : Dst) (n : Nat) : List Target :=
  match x with
  | .v r => (List.range n).map fun i => .v l (r.val + i)
  | .t r => (List.range n).map fun i => if fr.mode = .hypervisor then .tHyp l (r.val + i) else .tSup l (r.val + i)
  | .x r => (List.range n).map fun i => if fr.mode = .hypervisor then .xHyp (r.val + i) else .xSup (r.val + i)
  | .s r => (List.range n).map fun i => .s (r.val + i)
  | .k r => [.k r.val l]
  | _ => []

/-- The destination belongs to the skein, not to a lane (R484). -/
def dstOfSkein : Dst → Bool
  | .s _ | .x _ => true
  | _ => false

/-- The byte offset of accumulator element `(u, frag, l)` of a reservation record, in elements (R306). -/
def fragElem (f : Frag) (l : Nat) : Nat := 4096 * f.tile + 32 * f.frag + l

/-- BASE of a reservation record in bytes (R208). -/
def resvBase (r : BitVec 128) : Nat := bits r.toNat 8 0 * 1024
/-- LEN of a reservation record in bytes (R208). -/
def resvLen (r : BitVec 128) : Nat := bits r.toNat 17 9 * 1024
/-- FMT of a reservation record (R208). -/
def resvFmt (r : BitVec 128) : Nat := bits r.toNat 21 18
/-- BLK of a reservation record (R208). -/
def resvBlk (r : BitVec 128) : Nat := bits r.toNat 22 22
/-- CMP of a reservation record (R208). -/
def resvCmp (r : BitVec 128) : Nat := bits r.toNat 24 23
/-- LAYOUT of a reservation record (R208). -/
def resvLayout (r : BitVec 128) : Nat := bits r.toNat 27 25
/-- VALID of a reservation record (R208). -/
def resvValid (r : BitVec 128) : Bool := r.getLsbD 28
/-- SCOFF of a reservation record (R208). -/
def resvScoff (r : BitVec 128) : Nat := bits r.toNat 50 32
/-- XOFF of a reservation record (R208). -/
def resvXoff (r : BitVec 128) : Nat := bits r.toNat 82 64
/-- MAPOFF of a reservation record (R208). -/
def resvMapoff (r : BitVec 128) : Nat := bits r.toNat 114 96

/-- The reservation record of a handle; a free handle reads as the reset value, all zero (R208). -/
def Panel.record (p : Panel) (h : Nat) : BitVec 128 := cellGet 0 p.resv h

/-- Scoreboard key of a handle and tile (R304). -/
def tileKey (h u : Nat) : Nat := 48 * h + u

/-- The scoreboard count of a handle and tile (R304). -/
def Panel.tileCount (p : Panel) (h u : Nat) : Nat := cellGet 0 p.tiles (tileKey h u)

/-- The bytes of an accumulator element of a reservation record (R306). -/
def fragBytes (r : BitVec 128) : Nat := if resvFmt r = 2 then 2 else 4

/-- Where a lane's accumulator element of a fragment lies in the operand buffer (R306). -/
def fragAt (r : BitVec 128) (f : Frag) (l : Nat) : Nat := resvBase r + fragBytes r * fragElem f l

/-- What a fragment read delivers (R306). -/
def Frame.readFrag (fr : Frame) (l : Nat) (n : Nat) : Word :=
  match fr.k.fragOf n with
  | none => 0
  | some f =>
    let r := fr.p.record f.handle
    BitVec.ofNat 32 (fr.p.opbuf.read (fragAt r f l) (fragBytes r))

/-- A literal operand of at most 32 bits, or of 64 bits, under its type (R38). -/
def litValue (lit : Word) (wide signed : Bool) : Dword :=
  if wide then (if signed then lit.signExtend 64 else lit.setWidth 64) else lit.setWidth 64

/-- The bits a source delivers to a lane, zero-extended to 64 (R27, R37, R38): the value last made available. `wide`
asks for 64 bits, `signed` is the sign of the type at which a 64-bit literal is read. -/
def Frame.read (fr : Frame) (s : Slot) (l : Nat) (x : Src) (wide signed : Bool) : Dword :=
  let two (ts : List Target) : Dword :=
    if wide then pairOf (fr.k.readTarget (ts.getD 0 (.s 0))) (fr.k.readTarget (ts.getD 1 (.s 0)))
    else (fr.k.readTarget (ts.getD 0 (.s 0))).setWidth 64
  match x with
  | .v _ | .t _ | .x _ | .s _ => two (fr.srcTargets l x (if wide then 2 else 1))
  | .q n =>
    let b := (fr.k.lane l).bank fr.mode
    let lo := (b.getD n.val ⟨0, 0⟩).val
    if wide then pairOf lo (b.getD (n.val + 1) ⟨0, 0⟩).val else lo.setWidth 64
  | .k r => if fr.k.maskBit r.val l then 1 else 0
  | .f n => (fr.readFrag l n.val).setWidth 64
  | .lane => BitVec.ofNat 64 l
  | .skeinIx => BitVec.ofNat 64 fr.k.ix
  | .plyIx => BitVec.ofNat 64 (l / fr.k.ply)
  | .plyLane => BitVec.ofNat 64 (l % fr.k.ply)
  | .origin => (fr.k.lane l).origin.setWidth 64
  | .zero => 0
  | .lit => litValue s.lit wide signed
  | .reserved _ => 0

/-- A 32-bit read. -/
def Frame.read32 (fr : Frame) (s : Slot) (l : Nat) (x : Src) : Word := loWord (fr.read s l x false false)

/-- `n` words from a register range (R214, R188); a queue age or 0xA5 gives its own. -/
def Frame.readWords (fr : Frame) (s : Slot) (l : Nat) (x : Src) (n : Nat) : List Word :=
  match x with
  | .v _ | .t _ | .x _ | .s _ => (fr.srcTargets l x n).map fr.k.readTarget
  | .zero => List.replicate n 0
  | _ => if n = 1 then [fr.read32 s l x] else [loWord (fr.read s l x true false), hiWord (fr.read s l x true false)]

/-- How many words a source of a kind reads. -/
def SrcKind.words : SrcKind → Nat
  | .unused | .named _ => 0
  | .wide | .wideNoLit | .pairNoLit | .jump | .scalarPair | .base | .datum64 | .vqPair => 2
  | .datum128 | .scalarQuad => 4
  | .vregs n => n
  | _ => 1

/-- A pending fixed-latency result writes the register: the read of it is under-served (R27). -/
def Skein.pendingReg (k : Skein) (t : Target) : Bool := k.results.any fun r => r.regs.any fun w => w.1 == t

/-- A pending push holds the cell at an age (R27). -/
def Skein.pendingCell (k : Skein) (l : Nat) (m : Mode) (age : Nat) : Bool :=
  match ((k.lane l).bank m)[age]? with
  | some c => c.tag != 0 && k.results.any fun r => r.cells.any fun p => p.lane == l && p.mode == m && p.tag == c.tag
  | none => false

/-- The lane's read of a source is under-served (R27). A read of a whole mask register covers every bit (R153). -/
def Frame.lateSrc (fr : Frame) (kind : SrcKind) (l : Nat) (x : Src) : Bool :=
  match x with
  | .q n => (List.range kind.words).any fun i => fr.k.pendingCell l fr.mode (n.val + i)
  | .k r =>
    if kind = .mask then (List.range 32).any fun i => fr.k.pendingReg (.k r.val i) else fr.k.pendingReg (.k r.val l)
  | .f _ => false
  | _ => (fr.srcTargets l x kind.words).any fr.k.pendingReg

/-- The lane's predicate read is under-served (R27). -/
def Frame.latePred (fr : Frame) (s : Slot) (l : Nat) : Bool := fr.k.pendingReg (.k s.pred.val l)

/-- An outstanding variable-latency write targets the register (R30). -/
def Skein.outstanding (k : Skein) (t : Target) : Bool := k.outs.any fun w => w.targets.contains t

/-- The read interlocks: an outstanding variable-latency write, or a fragment whose tile is being written (R30, R306). -/
def Frame.lockedSrc (fr : Frame) (kind : SrcKind) (l : Nat) (x : Src) : Bool :=
  match x with
  | .f n =>
    match fr.k.fragOf n.val with
    | some f => decide (0 < fr.p.tileCount f.handle f.tile)
    | none => false
  | .k r =>
    if kind = .mask then (List.range 32).any fun i => fr.k.outstanding (.k r.val i) else fr.k.outstanding (.k r.val l)
  | _ => (fr.srcTargets l x kind.words).any fr.k.outstanding

end Sys2Proof.Machine
end

