-- ==== Sys2Proof/Machine/Flags.lean ====
section
/-!
DEFINITION. Sys2Proof/Machine/Flags.lean: skein.fpflags, skein.fpmode and the FP trap enables (R76, R83, R84).
-/
namespace Sys2Proof.Machine

/-- NV (R83). -/
def flagNV : Word := 1
/-- DZ (R83). -/
def flagDZ : Word := 2
/-- OF (R83). -/
def flagOF : Word := 4
/-- UF (R83). -/
def flagUF : Word := 8
/-- NX (R83). -/
def flagNX : Word := 16
/-- SCALEUF (R83). -/
def flagSCALEUF : Word := 32
/-- OVF32 (R83). -/
def flagOVF32 : Word := 64
/-- SATNARROW (R83). -/
def flagSATNARROW : Word := 128
/-- SATINT (R83). -/
def flagSATINT : Word := 256

/-- The writable bits of skein.fpflags (R83). -/
def fpflagsMask : Word := 0x1FF
/-- The writable bits of skein.fpmode (R76). -/
def fpmodeMask : Word := 0x7

/-- FTZ32 of skein.fpmode (R76). -/
def ftzOf (fpmode : Word) : Bool := fpmode.getLsbD 2

/-- RM of skein.fpmode as a rounding mode (R76). -/
def rmOf (fpmode : Word) : Rnd :=
  match fpmode.toNat % 4 with
  | 0 => .rne
  | 1 => .rtz
  | 2 => .rdn
  | _ => .rup

/-- The rounding mode of an instruction: RND when it is nonzero, else the captured RM (R31, R111). -/
def roundingOf (rnd : Rnd) (fpmode : Word) : Rnd :=
  match rnd with
  | .captured => rmOf fpmode
  | r => r

/-- The enabled flags among those a lane raised: the tval of FPEXC (R84). -/
def excBits (enables : Nat) (flags : Word) : Word := flags &&& BitVec.ofNat 32 (enables % 32)

/-- The union of several flag words. -/
def orFlags (ws : List Word) : Word := ws.foldl (· ||| ·) 0

end Sys2Proof.Machine
end

