-- ==== Sys2Proof/Machine/Float.lean ====
section
/-!
DEFINITION. Sys2Proof/Machine/Float.lean: the float formats, exact values, rounding and the arithmetic on bit patterns
(spec/04_scalar_arithmetic.md R73 to R87, spec/14_block_formats.md R259 to R262, spec/06 R113 to R121).
-/
namespace Sys2Proof.Machine

/-! ## Formats and values -/

/-- How a format uses its top exponent (R74, R260, R262). -/
inductive TopExp where
  | ieee | e4m3 | finite
deriving DecidableEq, Repr

/-- A float format: exponent and fraction widths (R73, R259, R262). -/
structure Fmt where
  eb : Nat
  fb : Nat
  top : TopExp
deriving DecidableEq, Repr

/-- FP32. -/
def fmt32 : Fmt := ⟨8, 23, .ieee⟩
/-- FP16. -/
def fmt16 : Fmt := ⟨5, 10, .ieee⟩
/-- BF16. -/
def fmtB16 : Fmt := ⟨8, 7, .ieee⟩
/-- E4M3. -/
def fmtE4M3 : Fmt := ⟨4, 3, .e4m3⟩
/-- E5M2. -/
def fmtE5M2 : Fmt := ⟨5, 2, .ieee⟩
/-- E2M1. -/
def fmtE2M1 : Fmt := ⟨2, 1, .finite⟩

/-- The format of a float type's elements (R42). -/
def fmtOf : Ty → Fmt
  | .f16 | .f16x2 => fmt16
  | .bf16 | .bf16x2 => fmtB16
  | .e4m3 => fmtE4M3
  | .e5m2 => fmtE5M2
  | _ => fmt32

/-- The exponent bias. -/
def Fmt.bias (f : Fmt) : Nat := 2 ^ (f.eb - 1) - 1
/-- The exponent of the smallest normal. -/
def Fmt.emin (f : Fmt) : Int := 1 - (f.bias : Int)
/-- The exponent of the largest finite value. -/
def Fmt.emax (f : Fmt) : Int :=
  match f.top with
  | .ieee => (2 ^ f.eb - 2 : Int) - f.bias
  | _ => (2 ^ f.eb - 1 : Int) - f.bias
/-- The significand of the largest finite value. -/
def Fmt.maxSig (f : Fmt) : Nat :=
  match f.top with
  | .e4m3 => 2 ^ (f.fb + 1) - 2
  | _ => 2 ^ (f.fb + 1) - 1
/-- The sign bit's weight. -/
def Fmt.signBit (f : Fmt) : Nat := 2 ^ (f.eb + f.fb)
/-- The bits of the largest finite value of a sign. -/
def Fmt.largest (f : Fmt) (neg : Bool) : Nat :=
  (if neg then f.signBit else 0) +
    match f.top with
    | .ieee => (2 ^ f.eb - 1) * 2 ^ f.fb - 1
    | .e4m3 => 2 ^ (f.eb + f.fb) - 2
    | .finite => 2 ^ (f.eb + f.fb) - 1
/-- The bits of a zero. -/
def Fmt.zero (f : Fmt) (neg : Bool) : Nat := if neg then f.signBit else 0
/-- The bits of an infinity. -/
def Fmt.inf (f : Fmt) (neg : Bool) : Nat := (if neg then f.signBit else 0) + (2 ^ f.eb - 1) * 2 ^ f.fb
/-- The canonical NaN (R81, R260). -/
def Fmt.nan (f : Fmt) : Nat :=
  match f.top with
  | .ieee => (2 ^ f.eb - 1) * 2 ^ f.fb + 2 ^ (f.fb - 1)
  | _ => 2 ^ (f.eb + f.fb) - 1

/-- A decoded value; a finite nonzero one is `± m · 2^e`. -/
inductive Num where
  | nan (signalling : Bool)
  | inf (neg : Bool)
  | zero (neg : Bool)
  | fin (neg : Bool) (m : Nat) (e : Int)
deriving DecidableEq, Repr

/-- `decode(b, fmt)` of R8. -/
def decodeFloat (f : Fmt) (x : Nat) : Num :=
  let neg := x.testBit (f.eb + f.fb)
  let e := x / 2 ^ f.fb % 2 ^ f.eb
  let m := x % 2 ^ f.fb
  if e = 2 ^ f.eb - 1 ∧ f.top = .ieee then (if m = 0 then .inf neg else .nan (!m.testBit (f.fb - 1)))
  else if e = 2 ^ f.eb - 1 ∧ m = 2 ^ f.fb - 1 ∧ f.top = .e4m3 then .nan false
  else if e = 0 then (if m = 0 then .zero neg else .fin neg m (f.emin - f.fb))
  else .fin neg (2 ^ f.fb + m) ((e : Int) - f.bias - f.fb)

/-- The value is a NaN. -/
def Num.isNan : Num → Bool
  | .nan _ => true
  | _ => false
/-- The value is a signalling NaN. -/
def Num.isSnan : Num → Bool
  | .nan s => s
  | _ => false

/-! ## Rounding (R77 to R80) -/

/-- How an instruction rounds: its mode, the FP32 flush, and the random bits of a stochastic rounding. -/
structure RoundCfg where
  rm : Rnd
  ftz : Bool
  rbits : Nat := 24
  rb : Nat := 0
deriving DecidableEq, Repr

/-- A result's bits and flags. -/
abbrev FRes := Nat × Word

/-- `|x| = n/d` in units of `2^q`: the rounded integer and whether it is inexact. -/
def roundAt (c : RoundCfg) (neg : Bool) (n d : Nat) (q : Int) : Nat × Bool :=
  let num := if 0 ≤ q then n else n * 2 ^ (-q).toNat
  let den := if 0 ≤ q then d * 2 ^ q.toNat else d
  let t := num / den
  let r := num % den
  let up : Bool := match c.rm with
    | .rtz => false
    | .rdn => neg
    | .rup => !neg
    | .sto => decide (2 ^ c.rbits ≤ r * 2 ^ c.rbits / den + c.rb % 2 ^ c.rbits)
    | _ => decide (den < 2 * r) || (decide (2 * r = den) && t % 2 == 1)
  if r = 0 then (t, false) else (if up then t + 1 else t, true)

/-- `floor(log2(n/d))` for positive `n` and `d`. -/
def floorLog2 (n d : Nat) : Int :=
  let g : Int := (Nat.log2 n : Int) - (Nat.log2 d : Int)
  let le : Bool := if 0 ≤ g then decide (d * 2 ^ g.toNat ≤ n) else decide (d ≤ n * 2 ^ (-g).toNat)
  if le then g else g - 1

/-- `t · 2^q` compared with `u · 2^r`. -/
def scaledLt (t : Nat) (q : Int) (u : Nat) (r : Int) : Bool :=
  if q ≤ r then decide (t < u * 2 ^ (r - q).toNat) else decide (t * 2 ^ (q - r).toNat < u)

/-- An overflowing result (R77 step 3, R85, R260). -/
def overflowBits (f : Fmt) (rm : Rnd) (sat neg : Bool) : Nat :=
  if sat then f.largest neg
  else match f.top with
    | .e4m3 => f.nan
    | .finite => f.largest neg
    | .ieee =>
      match rm with
      | .rtz => f.largest neg
      | .rdn => if neg then f.inf true else f.largest false
      | .rup => if neg then f.largest true else f.inf false
      | _ => f.inf neg

/-- `round(x, fmt, rm)` for a nonzero `x` of magnitude `n/d` (R77 to R80). Tininess is R80's comparison on the value rounded with no
bound on the exponent, under STO by the same random bits. (log entry 78: DEDUCED) -/
def roundRatio (f : Fmt) (c : RoundCfg) (sat neg : Bool) (n d : Nat) : FRes :=
  let q := floorLog2 n d - f.fb
  let two := roundAt c neg n d q
  let tiny := scaledLt two.1 q 1 f.emin
  if scaledLt f.maxSig (f.emax - f.fb) two.1 q then (overflowBits f c.rm sat neg, flagOF ||| flagNX)
  else if c.ftz && f == fmt32 && tiny then (f.zero neg, flagUF ||| flagNX)
  else
    let qa := max q (f.emin - f.fb)
    let r := roundAt c neg n d qa
    let bits := (if neg then f.signBit else 0) + (qa + f.fb + f.bias - 1).toNat * 2 ^ f.fb + r.1
    (bits, if r.2 then flagNX ||| (if tiny then flagUF else 0) else 0)

/-- `round` of a nonzero `z · 2^e`. -/
def roundDyadic (f : Fmt) (c : RoundCfg) (sat : Bool) (z : Int) (e : Int) : FRes :=
  if 0 ≤ e then roundRatio f c sat (decide (z < 0)) (z.natAbs * 2 ^ e.toNat) 1
  else roundRatio f c sat (decide (z < 0)) z.natAbs (2 ^ (-e).toNat)

/-! ## Bits before arithmetic -/

/-- The source modifiers on one element: the absolute value, then the negation (R41). -/
def modBits (f : Fmt) (neg abs : Bool) (x : Nat) : Nat :=
  let mag := x % f.signBit
  let sign := x.testBit (f.eb + f.fb) && !abs
  (if sign != neg then f.signBit else 0) + mag

/-- The flush of an FP32 subnormal operand (R79). -/
def flushBits (f : Fmt) (ftz : Bool) (x : Nat) : Nat :=
  if ftz && f == fmt32 && x / 2 ^ f.fb % 2 ^ f.eb == 0 then f.zero (x.testBit (f.eb + f.fb)) else x

/-! ## Arithmetic (R113, R120) -/

/-- The canonical NaN with NV raised or not. -/
def nanRes (f : Fmt) (nv : Bool) : FRes := (f.nan, if nv then flagNV else 0)

/-- The sign flip of a value. -/
def Num.negate : Num → Num
  | .nan s => .nan s
  | .inf n => .inf !n
  | .zero n => .zero !n
  | .fin n m e => .fin (!n) m e

/-- An exact product; `none` for 0 × Inf. NaNs are the caller's. -/
def mulNum : Num → Num → Option Num
  | .inf _, .zero _ => none
  | .zero _, .inf _ => none
  | .inf a, .inf b => some (.inf (a != b))
  | .inf a, .fin b _ _ => some (.inf (a != b))
  | .fin a _ _, .inf b => some (.inf (a != b))
  | .zero a, .zero b => some (.zero (a != b))
  | .zero a, .fin b _ _ => some (.zero (a != b))
  | .fin a _ _, .zero b => some (.zero (a != b))
  | .fin a m e, .fin b m' e' => some (.fin (a != b) (m * m') (e + e'))
  | .nan s, _ => some (.nan s)
  | _, .nan s => some (.nan s)

/-- The least exponent among finite addends, and 0 when there is none. -/
def leastExp : List Num → Int
  | [] => 0
  | .fin _ _ e :: [] => e
  | .fin _ _ e :: xs => if xs.any (fun x => match x with | .fin _ _ _ => true | _ => false) then min e (leastExp xs) else e
  | _ :: xs => leastExp xs

/-- The exact sum of finite addends in units of `2^e`. -/
def sumAt (e : Int) : List Num → Int
  | [] => 0
  | .fin n m e' :: xs => (if n then -1 else 1) * ((m * 2 ^ (e' - e).toNat : Nat) : Int) + sumAt e xs
  | _ :: xs => sumAt e xs

/-- The sum of addends, none of them a NaN, rounded once (R77, R113, R120). -/
def sumRound (f : Fmt) (c : RoundCfg) (xs : List Num) : FRes :=
  let pos := xs.any fun x => x == .inf false
  let neg := xs.any fun x => x == .inf true
  if pos && neg then nanRes f true
  else if pos then (f.inf false, 0)
  else if neg then (f.inf true, 0)
  else if xs.all fun x => x == .zero false then (f.zero false, 0)
  else if xs.all fun x => x == .zero true then (f.zero true, 0)
  else
    let e := leastExp xs
    let z := sumAt e xs
    if z = 0 then (f.zero (c.rm == .rdn), 0) else roundDyadic f c false z e

/-- FADD (R113). -/
def fAdd (f : Fmt) (c : RoundCfg) (a b : Nat) : FRes :=
  let x := decodeFloat f a
  let y := decodeFloat f b
  if x.isNan || y.isNan then nanRes f (x.isSnan || y.isSnan) else sumRound f c [x, y]

/-- FSUB (R113). -/
def fSub (f : Fmt) (c : RoundCfg) (a b : Nat) : FRes :=
  let x := decodeFloat f a
  let y := decodeFloat f b
  if x.isNan || y.isNan then nanRes f (x.isSnan || y.isSnan) else sumRound f c [x, y.negate]

/-- FMUL (R113). -/
def fMul (f : Fmt) (c : RoundCfg) (a b : Nat) : FRes :=
  let x := decodeFloat f a
  let y := decodeFloat f b
  if x.isNan || y.isNan then nanRes f (x.isSnan || y.isSnan)
  else match mulNum x y with
    | none => nanRes f true
    | some p => sumRound f c [p]

/-- FFMA (R113): 0 × Inf is invalid whatever c is. -/
def fFma (f : Fmt) (c : RoundCfg) (a b d : Nat) : FRes :=
  let x := decodeFloat f a
  let y := decodeFloat f b
  let z := decodeFloat f d
  match mulNum x y with
  | none => nanRes f true
  | some p =>
    if x.isNan || y.isNan || z.isNan then nanRes f (x.isSnan || y.isSnan || z.isSnan) else sumRound f c [p, z]

/-- FDOT2 (R120): a and b are packed elements of `g`, c and the result FP32. -/
def fDot2 (g : Fmt) (c : RoundCfg) (a0 b0 a1 b1 d : Nat) : FRes :=
  let x0 := decodeFloat g a0
  let y0 := decodeFloat g b0
  let x1 := decodeFloat g a1
  let y1 := decodeFloat g b1
  let z := decodeFloat fmt32 (flushBits fmt32 c.ftz d)
  let all := [x0, y0, x1, y1, z]
  match mulNum x0 y0, mulNum x1 y1 with
  | some p, some q => if all.any Num.isNan then nanRes fmt32 (all.any Num.isSnan) else sumRound fmt32 c [p, q, z]
  | _, _ => nanRes fmt32 true

/-- A key that orders the non-NaN bit patterns of a format with −0 below +0. -/
def orderKey (f : Fmt) (x : Nat) : Int :=
  if x.testBit (f.eb + f.fb) then -((x % f.signBit : Nat) : Int) - 1 else (x % f.signBit : Nat)

/-- A key under which −0 and +0 are equal (R115). -/
def valueKey (f : Fmt) (x : Nat) : Int :=
  if x.testBit (f.eb + f.fb) then -((x % f.signBit : Nat) : Int) else (x % f.signBit : Nat)

/-- minimumNumber and maximumNumber (R114). -/
def fMinMax (f : Fmt) (isMax : Bool) (a b : Nat) : FRes :=
  let x := decodeFloat f a
  let y := decodeFloat f b
  let fl : Word := if x.isSnan || y.isSnan then flagNV else 0
  if x.isNan && y.isNan then (f.nan, fl)
  else if x.isNan then (b, fl)
  else if y.isNan then (a, fl)
  else if (if isMax then decide (orderKey f b < orderKey f a) else decide (orderKey f a < orderKey f b)) then (a, fl)
  else (b, fl)

/-- FCMP (R115). -/
def fCmp (f : Fmt) (sub : Nat) (a b : Nat) : FRes :=
  let x := decodeFloat f a
  let y := decodeFloat f b
  let un := x.isNan || y.isNan
  let sn := x.isSnan || y.isSnan
  let ka := valueKey f a
  let kb := valueKey f b
  let r : Bool := match sub with
    | 0 => !un && ka == kb
    | 1 => un || ka != kb
    | 2 => !un && decide (ka < kb)
    | 3 => !un && decide (ka ≤ kb)
    | 4 => !un && decide (ka > kb)
    | 5 => !un && decide (ka ≥ kb)
    | 6 => un
    | _ => !un
  let nv := if 2 ≤ sub ∧ sub ≤ 5 then un else sn
  (if r then 1 else 0, if nv then flagNV else 0)

/-- The class word of FCLS (R116). -/
def classWord (f : Fmt) (x : Nat) : Nat :=
  match decodeFloat f x with
  | .nan true => 1
  | .nan false => 2
  | .inf true => 4
  | .inf false => 512
  | .zero true => 32
  | .zero false => 64
  | .fin neg m _ =>
    let normal := decide (2 ^ f.fb ≤ m)
    match neg, normal with
    | true, true => 8
    | true, false => 16
    | false, false => 128
    | false, true => 256

/-- FRND (R117). -/
def fRnd (f : Fmt) (c : RoundCfg) (x : Nat) : FRes :=
  match decodeFloat f x with
  | .nan s => nanRes f s
  | .inf _ | .zero _ => (x, 0)
  | .fin neg m e =>
    if 0 ≤ e then (x, 0)
    else
      let k := (roundAt c neg m (2 ^ (-e).toNat) 0).1
      if k = 0 then (f.zero neg, 0) else ((roundRatio f { rm := .rtz, ftz := false } false neg k 1).1, 0)

/-- FSCL (R118). A scale beyond ±600 rounds as ±600 does: every format's range lies far inside it. -/
def fScl (f : Fmt) (c : RoundCfg) (x : Nat) (b : Int) : FRes :=
  match decodeFloat f x with
  | .nan s => nanRes f s
  | .inf _ | .zero _ => (x, 0)
  | .fin neg m e => roundDyadic f c false (if neg then -(m : Int) else m) (e + max (-600) (min b 600))

/-- FEXT.EXP (R119). -/
def fExtExp (f : Fmt) (x : Nat) : FRes :=
  match decodeFloat f x with
  | .nan s => (0x7FFFFFFF, if s then flagNV else 0)
  | .inf _ => (0x7FFFFFFF, 0)
  | .zero _ => (0x80000000, 0)
  | .fin _ m e => (wrap ((Nat.log2 m : Int) + e) 32, 0)

/-- FEXT.MANT (R119). -/
def fExtMant (f : Fmt) (x : Nat) : FRes :=
  match decodeFloat f x with
  | .nan s => nanRes f s
  | .inf _ | .zero _ => (x, 0)
  | .fin neg m _ => roundRatio f { rm := .rtz, ftz := false } false neg m (2 ^ Nat.log2 m)

/-! ## Conversions (R85 to R87, R121) -/

/-- Float to float (R85, R260). -/
def cvtFloat (src dst : Fmt) (c : RoundCfg) (sat : Bool) (x : Nat) : FRes :=
  match decodeFloat src x with
  | .nan s => nanRes dst s
  | .inf neg =>
    if sat then (dst.largest neg, 0)
    else match dst.top with
      | .e4m3 => (dst.nan, flagNV)
      | _ => (dst.inf neg, 0)
  | .zero neg => (dst.zero neg, 0)
  | .fin neg m e => roundDyadic dst c sat (if neg then -(m : Int) else m) e

/-- Float to an `n`-bit integer (R86). -/
def cvtToInt (src : Fmt) (c : RoundCfg) (signed : Bool) (n : Nat) (x : Nat) : Nat × Word :=
  let hi : Int := if signed then (2 : Int) ^ (n - 1) - 1 else (2 : Int) ^ n - 1
  let lo : Int := if signed then -(2 : Int) ^ (n - 1) else 0
  match decodeFloat src x with
  | .nan _ => (0, flagNV)
  | .inf neg => (wrap (if neg then lo else hi) n, flagNV)
  | .zero _ => (0, 0)
  | .fin neg m e =>
    let r := if 0 ≤ e then (m * 2 ^ e.toNat, false) else roundAt c neg m (2 ^ (-e).toNat) 0
    let v : Int := if neg then -(r.1 : Int) else r.1
    if hi < v then (wrap hi n, flagNV)
    else if v < lo then (wrap lo n, flagNV)
    else (wrap v n, if r.2 then flagNX else 0)

/-- Integer to float (R87). -/
def cvtFromInt (dst : Fmt) (c : RoundCfg) (sat : Bool) (v : Int) : FRes :=
  if v = 0 then (dst.zero false, 0) else roundDyadic dst c sat v 0

end Sys2Proof.Machine
end

