-- ==== Sys2Proof/Machine/Issue.lean ====
section
/-!
DEFINITION. Sys2Proof/Machine/Issue.lean: one issue event of the skein in focus (R9, R19 to R33, R49, R130 to R139):
the checks of R9, reads before writes, results on their way, PCs, traps, STEP.
-/
namespace Sys2Proof.Machine

/-- What a step answers. -/
abbrev Out := Host.Outcome State Fault Refusal

/-! ## Opening the event -/

/-- Some lane of the skein's atomic has its step still to make (R218). -/
def State.stepsLeft (s : State) (panel skein : Nat) : Bool := s.atoms.any fun a => a.panel == panel && a.skein == skein

/-- An access is an atomic. -/
def Access.isRmw (a : Access) : Bool :=
  match a.op with
  | .rmw .. => true
  | .store .. => false

/-- Some atomic of a skein has not been performed: what it will read is not yet known (R242, R244). -/
def State.rmwFlying (s : State) (panel skein : Nat) : Bool := s.inflight.any fun a => a.panel == panel && a.skein == skein && a.isRmw

/-- The skein's atomic, its start of the array or its RAST still holds it (R218, R299, R331). -/
def State.startHeld (s : State) (panel skein : Nat) : Bool :=
  (s.mats.any fun o => o.panel == panel && o.skein == skein && !o.queued)
    || s.stepsLeft panel skein || s.rastSubs.any fun o => o.panel == panel && o.skein == skein && !o.accepted

/-- A result of the skein is due, or R84's hold is on. -/
def Skein.unsettled (k : Skein) (cycle : Nat) : Bool :=
  k.results.any (fun r => decide (r.due ≤ cycle) || r.hold) || k.outs.any (·.hold)

/-- The frame of the event the skein in focus makes, or why it makes none. -/
def State.openFrame (s : State) : Except Fault Frame :=
  match s.panel? s.focus.1 with
  | none => .error .noFocus
  | some p =>
    match p.skein? s.focus.2 with
    | none => .error .noFocus
    | some k =>
      match k.issueSet (s.cycle p.core) with
      | [] => .error .nothingSelected
      | l :: ls =>
        .ok { p := p, kx := s.focus.2, k := k.view, lanes := l :: ls, pc := (k.lane l).pc
              next := nextPc (k.lane l).pc, mode := (k.lane l).mode, cycle := s.cycle p.core, hypEntry := s.hypEntry
              starting := s.startHeld p.id s.focus.2 || k.unsettled (s.cycle p.core) }

/-- The operand form of an instruction. -/
structure Form where
  dst : DstKind := .unused
  a : SrcKind := .unused
  b : SrcKind := .unused
  c : SrcKind := .unused
deriving DecidableEq, Repr

/-- A t or x code stands in some specifier field (R16, R37). -/
def slotNamesPriv (s : Slot) : Bool :=
  let src : Src → Bool := fun x =>
    match x with
    | .t _ | .x _ => true
    | _ => false
  src s.sa || src s.sb || src s.sc ||
    match s.dst with
    | .t _ | .x _ => true
    | _ => false

/-- The tval of ILLOPND: the offending specifier and its field (R54). -/
def opndTval (field code : Nat) : Dword := BitVec.ofNat 64 (field * 256 + code)

/-- The tval of an ILLOPND that names SA. -/
def saTval (s : Slot) : Dword := opndTval 1 (srcCode s.sa)
/-- The tval of an ILLOPND that names SB. -/
def sbTval (s : Slot) : Dword := opndTval 2 (srcCode s.sb)

/-- The first specifier field that is illegal for the form, in the order DST, SA, SB, SC (R39). -/
def Frame.specTrap (fr : Frame) (f : Form) (s : Slot) : Option Dword :=
  if !fr.dstOk f.dst s.dst then some (opndTval 0 (dstCode s.dst))
  else if !fr.srcOk f.a s.sa then some (opndTval 1 (srcCode s.sa))
  else if !fr.srcOk f.b s.sb then some (opndTval 2 (srcCode s.sb))
  else if !fr.srcOk f.c s.sc then some (opndTval 3 (srcCode s.sc))
  else none

/-- What one instruction slot checks before it reads: R9 steps 1 (for what depends on the panel), 2 and 3 on the
specifier codes. Every lane of the issue set is in one mode, so every lane meets the same outcome. (log entry 64: DEDUCED) -/
def Frame.staticTrap (fr : Frame) (illop : Bool) (need : Least) (f : Form) (s : Slot) (hi : Dword) : Option (Cause × Dword) :=
  if illop then some (.illop, hi)
  else if (fr.mode == .user && slotNamesPriv s) || !fr.mode.allows need then some (.priv, hi)
  else (fr.specTrap f s).map fun v => (.illopnd, v)

/-- The lane's reads of the form are under-served, its predicate read among them (R27). -/
def Frame.lateLane (fr : Frame) (f : Form) (s : Slot) (l : Nat) : Bool :=
  fr.latePred s l || fr.lateSrc f.a l s.sa || fr.lateSrc f.b l s.sb || fr.lateSrc f.c l s.sc

/-- The lanes that trap STALLSHORT (R29); a skein-level read, or the predicate of an instruction that acts once, traps them all (R139).
(log entry 61: DEDUCED) -/
def Frame.shortLanes (fr : Frame) (once : Bool) (f : Form) (s : Slot) : List Nat :=
  if !fr.p.checking fr.mode then []
  else if once then
    (if fr.lanes.any (fun l => fr.latePred s l) || fr.lateLane f s (fr.leader s) then fr.lanes else [])
  else fr.lanes.filter fun l => fr.lateLane f s l

/-- The words a destination kind writes. -/
def DstKind.words : DstKind → Nat
  | .unused => 0
  | .fixed64 | .late64 | .lateScalar64 | .link => 2
  | .load n _ => n
  | .span => 3
  | .vregs n _ _ => n
  | _ => 1

/-- Some read of the form, its predicate's among them, or its destination interlocks (R30); a form that acts once reads its sources for
the leader alone (R137). -/
def Frame.locked (fr : Frame) (once : Bool) (f : Form) (s : Slot) : Bool :=
  (fr.lanes.any fun l => fr.k.outstanding (.k s.pred.val l) || (fr.dstTargets l s.dst f.dst.words).any fr.k.outstanding) ||
    (if once then [fr.leader s] else fr.lanes).any fun l =>
      fr.lockedSrc f.a l s.sa || fr.lockedSrc f.b l s.sb || fr.lockedSrc f.c l s.sc

/-- The skein may issue nothing yet: a result is due, R84's hold is on, a start of the matrix array holds it (R299), or its
debug request is open (R406). -/
def Frame.notReady (fr : Frame) : Bool :=
  fr.starting || fr.p.dbg.any fun w => w.1 == fr.kx

/-- The event stays selected and nothing else changes (R30, R131). (log entry 4: DESIGN CHOICE) -/
def State.holdEvent (s : State) (fr : Frame) : State :=
  s.onPanel fr.p.id fun p => p.onSkein fr.kx fun k => { k with sel := some fr.lanes }

/-! ## Closing the event -/

/-- One more issue event of the skein in a cycle while a halt is under way: those after the cycle of its detection count (R387 step 2). -/
def Halt.count (h : Halt) (cycle k : Nat) : Halt :=
  if h.since < cycle then { h with skids := h.skids.modify k (· + 1) } else h

/-- The skein may still issue in a cycle: in the cycle of the detection it may, and after it at most 4 times (R387 step 2). -/
def Halt.lets (h : Halt) (cycle k : Nat) : Bool := decide (cycle ≤ h.since) || decide (h.skids.getD k 0 < 4)

/-- The skein steps after this event (R392). -/
def stepping (fr : Frame) (k : Skein) : Bool := k.step.getLsbD 0 && fr.mode != .hypervisor

/-- STEP after the event (R392): every lane that neither exited nor trapped and that is free to enter its handler. -/
def stepTraps (fr : Frame) (k : Skein) (ls : List Nat) : List Trap :=
  if stepping fr k then (ls.filter fun l => (k.lane l).free).map fun l => ⟨l, .step, fr.pc, (k.lane l).pc, false⟩
  else []

/-- A lane that the event parked, holds or set yielding takes its STEP when it is next free: a trap on a parked lane cannot arise (R95), and a
held lane's event ends with its wait, which may still trap (R234, R392). (log entry 10: DEDUCED) -/
def deferSteps (fr : Frame) (ls : List Nat) (k : Skein) : Skein :=
  if stepping fr k then
    k.onLanes ls fun _ a => if !a.exited && !a.free then { a with stepDue := some fr.pc } else a
  else k

/-- The skein holds a live lane whose latest hypervisor entry was by STEP (R393). -/
def Skein.stepped (k : Skein) : Bool := k.lanes.any fun a => !a.exited && a.mode == .hypervisor && a.saveH.status.getLsbD 3

/-- The skein freezes the others of its panel (R393). -/
def Skein.freezes (k : Skein) : Bool := k.step.getLsbD 1 && k.stepped

/-- An event that ends the skein's freeze: it ends in the cycle after (R393). -/
def Panel.thawed (p : Panel) (fr : Frame) : Panel :=
  { p with thaw := if fr.k.freezes && !((p.skein? fr.kx).any Skein.freezes) then fr.cycle + 1 else p.thaw }

/-- The end of an issue event: the lanes in `goes` transfer, those in `stays` keep their PC, the trapping lanes enter
their handlers, an exited lane keeps its last PC (R400), and every other lane of the issue set goes on at `next`; the skein waits its
stall (R17, R26, R50). (log entry 20: DEDUCED) -/
def State.closeEvent (s : State) (fr : Frame) (stall : Nat) (next : Dword) (goes : List (Nat × Dword × Dword))
    (stays : List Nat) (traps : List Trap) : State :=
  let trapped := traps.map (·.lane)
  let on := fr.lanes.filter fun l => !trapped.contains l && !stays.contains l
  s.onPanel fr.p.id fun p =>
    let p1 := p.onSkein fr.kx fun k =>
      let k1 := k.onLanes on fun l a =>
        if a.exited then a
        else
          match goes.find? fun g => g.1 == l with
          | some g => a.jump g.2.1 g.2.2
          | none => a.advance next
      { k1 with nextIssue := fr.cycle + 1 + stall, sel := none, reads := none, waitStart := none }
    let p2 := { p1 with halt := p1.halt.map fun (h : Halt) => h.count fr.cycle fr.kx }
    let steps := match p2.skein? fr.kx with
      | some k => stepTraps fr k on
      | none => []
    ((p2.onSkein fr.kx (deferSteps fr on)).takeTraps fr.kx fr.cycle fr.hypEntry (traps ++ steps)).thawed fr

/-! ## Results on their way -/

/-- A variable-latency write is issued (R21): numbered, with its targets. -/
def Skein.addOut (k : Skein) (w : VarWrite) : Skein := { k with outs := k.outs ++ [{ w with seq := k.seq }], seq := k.seq + 1 }

/-- The words of one lane's pushed value in push order: high word first for 64 bits (R8 push64, R20). -/
def pushWords (wide : Bool) (x : Dword) : List Word := if wide then [hiWord x, loWord x] else [loWord x]

/-- A lane pushes some words, numbered from `2 * seq` (R27). -/
def Skein.push (k : Skein) (l : Nat) (m : Mode) (seq n : Nat) : Skein :=
  (List.range n).foldl (fun k i => k.onLane l fun a => a.setBank m (bankPush (a.bank m) (2 * seq + i))) k

/-- What one member of an issue event does, worked out from the frame alone. `vals` are the results and flags of the
active lanes, `passes` the values that lanes with a false predicate push (R22); `once` marks a scalar form, whose lanes all have the
one result (R137). -/
structure Plan where
  lat : Nat := 0
  wide : Bool := false
  once : Bool := false
  dst : Dst := .none
  vals : List (Nat × Dword × Word) := []
  passes : List (Nat × Dword) := []
  float : Bool := false
  raises : Bool := false
  links : List (Nat × List (Target × Word)) := []
  goes : List (Nat × Dword) := []
  exits : List Nat := []
  parks : List (Nat × Park) := []
  fpmode : Option Word := none
  fpLanes : List Nat := []
deriving DecidableEq, Repr

/-- One member of an issue event: an instruction that may stand in a paired group, or stands alone. `once` marks one whose operands the leader
alone reads, `cross` one whose lanes read their ply mates' operands. -/
structure Member where
  slot : Slot
  hi : Dword
  form : Form
  once : Bool := false
  cross : Bool := false
  plan : Frame → List Nat → Plan

/-- The register writes of a plan for the lanes that complete (R20, R137, R138, R484). A register of the skein takes the one result of a
scalar form when some lane completes; of a vector form it takes the value of lane `lead`, the lowest of the issue set with a true predicate,
and nothing when that lane traps. (log entry 71: DEDUCED) -/
def Plan.regs (pl : Plan) (fr : Frame) (lead : Nat) (vals : List (Nat × Dword × Word)) : List (Target × Word) :=
  let one (v : Nat × Dword × Word) : List (Target × Word) :=
    (fr.dstTargets v.1 pl.dst (if pl.wide then 2 else 1)).zip (if pl.wide then [loWord v.2.1, hiWord v.2.1] else [loWord v.2.1])
  if dstOfSkein pl.dst then (if pl.once then vals.take 1 else vals.filter fun v => v.1 == lead).flatMap one else vals.flatMap one

/-- What an active lane pushes of its result: the new mask bit alone when the result goes to a mask register (R20). -/
def Plan.pushed (pl : Plan) (x : Dword) : Dword :=
  match pl.dst with
  | .k _ => x &&& 1
  | _ => x

/-- The pushed cells of a plan for the lanes that complete (R20, R22). -/
def Plan.cells (pl : Plan) (fr : Frame) (seq : Nat) (vals : List (Nat × Dword)) : List PushCell :=
  if pl.dst = .none then []
  else vals.flatMap fun v =>
    let ws := pushWords pl.wide v.2
    (List.range ws.length).map fun i => ⟨v.1, fr.mode, 2 * seq + i, ws.getD i 0⟩

/-- The FPEXC traps a plan's lanes take (R84). -/
def Plan.excTraps (pl : Plan) (enables : Nat) (epc : Dword) (pair : Bool) : List Trap :=
  if pl.float then
    (pl.vals.filter fun v => excBits enables v.2.2 != 0).map fun v =>
      ⟨v.1, .fpexc, (excBits enables v.2.2).setWidth 64, epc, pair⟩
  else []

/-- A fragment operand of a lane has a poisoned byte (R309). -/
def State.fragBad (s : State) (fr : Frame) (z : Slot) (l : Nat) : Bool :=
  [z.sa, z.sb, z.sc].any fun x =>
    match x with
    | .f n => (fr.k.fragOf n.val).any fun f =>
        s.poisoned (.opbuf fr.p.id) (fragAt (fr.p.record f.handle) f l) (fragBytes (fr.p.record f.handle))
    | _ => false

/-- The lanes among some lanes whose value a poisoned fragment feeds (R309). -/
def State.spoiled (s : State) (fr : Frame) (z : Slot) (once cross : Bool) (ls : List Nat) : List Nat :=
  if s.bad.isEmpty then []
  else if once then (if s.fragBad fr z (fr.leader z) then ls else [])
  else if cross then ls.filter fun l => (ls.filter fun j => j / fr.k.ply == l / fr.k.ply).any (s.fragBad fr z)
  else ls.filter (s.fragBad fr z)

/-- The fixed-latency result that a plan leaves pending under number `seq`: what its lanes write and push, but for the lanes in `dead` and
those in `spoiled`, whose values are not delivered and stop the panel (R20, R25, R309), and its flags. The flags of a lane that traps are
set by the member whose trap it takes (R84), and by no other (R49). A value that SA pushes in place of a result (R22) comes when a result
would. (log entry 84: DEDUCED) -/
def Plan.result (pl : Plan) (fr : Frame) (lead : Nat) (dead spoiled : List Nat) (exc : List Trap) (hold : Bool) (seq : Nat) : FixedResult :=
  let vals := pl.vals.filter fun v => !dead.contains v.1
  let passes := pl.passes.filter fun v => !dead.contains v.1
  let sound {α : Type} (xs : List (Nat × α)) : List (Nat × α) := xs.filter fun v => !spoiled.contains v.1
  { seq := seq, due := fr.cycle + pl.lat, regs := pl.regs fr lead (sound vals)
    cells := pl.cells fr seq ((sound vals).map (fun v => (v.1, pl.pushed v.2.1)) ++ sound passes)
    flags := orFlags ((pl.vals.filter fun v => !dead.contains v.1 || exc.any fun t => t.lane == v.1).map (·.2.2))
    raises := pl.raises, hold := hold && pl.float, exc := exc
    bad := laneMask (spoiled.filter fun l => pl.vals.any (fun v => v.1 == l) || pl.passes.any fun v => v.1 == l) }

/-- A member's plan takes effect on the skein for every lane not in `dead` (R19, R20, R22, R25, R49): pushes first, then
the pending result, and at once the links, exits, parks and a mode write of a branch, an EXIT, a PARK or a mode instruction. -/
def Plan.apply (pl : Plan) (fr : Frame) (lead : Nat) (dead spoiled : List Nat) (exc : List Trap) (hold : Bool) (k : Skein) : Skein :=
  let seq := k.seq
  let vals := pl.vals.filter fun v => !dead.contains v.1
  let passes := pl.passes.filter fun v => !dead.contains v.1
  let pushers := if pl.dst = .none then [] else (vals.map (·.1)) ++ (passes.map (·.1))
  let k1 := pushers.foldl (fun k l => k.push l fr.mode seq (if pl.wide then 2 else 1)) k
  let k2 := if pl.lat = 0 then k1 else { k1 with results := k1.results ++ [pl.result fr lead dead spoiled exc hold seq] }
  let k3 := { k2 with seq := seq + 1 }
  let k4 := (pl.links.filter fun x => !dead.contains x.1).foldl (fun k x => k.writeNow x.2) k3
  let k5 := k4.onLanes (pl.exits.filter fun l => !dead.contains l) fun _ a => a.exit fr.mode
  let k6 := (pl.parks.filter fun x => !dead.contains x.1).foldl
    (fun k x => k.onLane x.1 fun a => { a with park := some x.2 }) k5
  match pl.fpmode with
  | some m => if pl.fpLanes.any fun l => !dead.contains l then { k6 with fpmode := m } else k6
  | none => k6

/-- The traps of R9 steps 1 to 3 of one member for every lane of the issue set; `epc` is the PC the lane saves. -/
def Frame.memberTraps (fr : Frame) (m : Member) (pc epc : Dword) (pair : Bool) : List Trap :=
  match fr.staticTrap false .user m.form m.slot m.hi with
  | some (c, v) => fr.lanes.map fun l => ⟨l, c, v, epc, pair⟩
  | none => (fr.shortLanes m.once m.form m.slot).map fun l => ⟨l, .stallshort, pc, epc, pair⟩

/-- Each lane's first trap of a list (R49: the lower slot's member comes first). -/
def firstTraps (ts : List Trap) : List Trap :=
  ts.foldl (fun acc t => if acc.any fun u => u.lane == t.lane then acc else acc ++ [t]) []

/-- The PC of the member at position `i` of the event's group (R17: adjacent slots of one line). -/
def Frame.memberPc (fr : Frame) (i : Nat) : Dword := fr.pc + BitVec.ofNat 64 i

/-- The PC the event continues at (R19). -/
def Frame.nextAfter (fr : Frame) (n : Nat) : Dword := nextPc (fr.memberPc (n - 1))

/-- The event of one member or of a paired group, with nothing to wait for (R19, R49). A lane that traps on its own read takes no part
in the others' results, as if it were not active (log entry 82: DEDUCED); a lane whose value a poisoned fragment feeds has no result that
could trap (R309). -/
def State.commit (s : State) (fr : Frame) (ms : List Member) : State :=
  let pair := decide (1 < ms.length)
  let traps := firstTraps ((ms.zipIdx.map fun (x : Member × Nat) => fr.memberTraps x.1 (fr.memberPc x.2) fr.pc pair).flatten)
  let alive := fr.lanes.filter fun l => !(traps.map (·.lane)).contains l
  let plans := ms.zipIdx.map fun (x : Member × Nat) => x.1.plan { fr with pc := fr.memberPc x.2, next := fr.nextAfter ms.length } alive
  let en := fr.p.fpEnables fr.mode
  let bad := (ms.map fun m => s.spoiled fr m.slot m.once m.cross alive)
  let exc := (plans.zip bad).map fun (x : Plan × List Nat) => (x.1.excTraps en fr.pc pair).filter fun t => !x.2.contains t.lane
  let dead := (firstTraps exc.flatten).map (·.lane)
  let hold := en != 0
  let own (i : Nat) : List Trap := (exc.getD i []).filter fun t => !(exc.take i).flatten.any fun u => u.lane == t.lane
  let goes := (plans.zipIdx.map fun (x : Plan × Nat) => x.1.goes.map fun g => (g.1, g.2, fr.memberPc x.2)).flatten
  let stall := ms.foldl (fun n m => max n m.slot.stall.val) 0
  let s1 := s.onPanel fr.p.id fun p => p.onSkein fr.kx fun k => (plans.zip ms).zipIdx.foldl (fun k (x : (Plan × Member) × Nat) =>
    x.1.1.apply fr (fr.leader x.1.2.slot) dead (bad.getD x.2 []) (own x.2) hold k) k
  s1.closeEvent fr stall (fr.nextAfter ms.length) goes dead traps

/-- Some member would trap before it reads, for every lane: then nothing is waited for. -/
def Frame.anyStatic (fr : Frame) (ms : List Member) : Bool :=
  ms.any fun m => (fr.staticTrap false .user m.form m.slot m.hi).isSome

/-- One issue event of the skein in focus, made of one member or of a paired group. -/
def runMembers (ms : List Member) (s : State) : Out :=
  match s.openFrame with
  | .error f => .fault f
  | .ok fr =>
    if fr.notReady || (!fr.anyStatic ms && ms.any fun m => fr.locked m.once m.form m.slot) then .next (s.holdEvent fr)
    else .next (s.commit fr ms)

/-! ## Instructions that never pair -/

/-- What such an instruction's own part answers: the event stays selected (R30, R217), or it is done with these transfers,
these lanes that keep their PC, and these traps; or the model stops. -/
inductive Done where
  | wait (s : State)
  | done (s : State) (goes : List (Nat × Dword × Dword)) (stays : List Nat) (traps : List Trap)
  | stop (f : Fault)

/-- The gate an instruction passes before its own part runs. `once` marks one that acts through its leader; `code` is an ILLOPND that the
slot and the panel decide without a read, `judge` one that a served read's value decides (R483), each with its tval. -/
structure Gate where
  slot : Slot
  hi : Dword
  form : Form
  need : Least := .user
  illop : Frame → Bool := fun _ => false
  once : Bool := false
  waits : Frame → Bool := fun _ => false
  code : Frame → Option Dword := fun _ => none
  judge : Frame → Option Dword := fun _ => none

/-- The trap of R9 steps 1 to 3 that is known before any read. -/
def Gate.trap? (g : Gate) (fr : Frame) : Option (Cause × Dword) :=
  match fr.staticTrap (g.illop fr) g.need g.form g.slot g.hi with
  | some x => some x
  | none => (g.code fr).map fun v => (.illopnd, v)

/-- A trap of every lane of the issue set at the instruction (R139). -/
def Frame.allTrap (fr : Frame) (c : Cause) (v : Dword) : List Trap := fr.lanes.map fun l => ⟨l, c, v, fr.pc, false⟩

/-- A trap of one lane at the instruction. -/
def Frame.trapAt (fr : Frame) (l : Nat) (c : Cause) (v : Dword) : Trap := ⟨l, c, v, fr.pc, false⟩

/-- What lanes' checks answer: the lanes that have read poisoned data stop the panel, the others trap (R387, R479). -/
def Done.checks (fr : Frame) (s : State) (ts : List Trap) : Done :=
  let sick := ts.filter fun t => t.cause == .poison
  .done (s.poisonHalt fr.p.id fr.kx (laneMask (sick.map (·.lane))) (BitVec.allOnes 64)) [] [] (ts.filter fun t => t.cause != .poison)

/-- The active lanes among some lanes: predicate true (R150). -/
def Frame.active (fr : Frame) (s : Slot) (ls : List Nat) : List Nat := ls.filter fun l => predOn s fr.k l

/-- A lane's predicate read is served (R27): with the checking scoreboard off every read returns a value. -/
def Frame.predServed (fr : Frame) (s : Slot) (l : Nat) : Bool := !(fr.p.checking fr.mode && fr.latePred s l)

/-- Some lane of the issue set is active, as its served predicate says (R150, R483). -/
def Frame.someActive (fr : Frame) (s : Slot) : Bool := fr.lanes.any fun l => predOn s fr.k l && fr.predServed s l

/-- A source has one value for the whole skein. -/
def srcOfSkein : Src → Bool
  | .s _ | .x _ | .lit | .zero | .skeinIx => true
  | _ => false

/-- The leader's read of a source is served (R27, R483): its registers are, and, where the value is the leader's own, so are the predicates
that make it the leader. -/
def Frame.served (fr : Frame) (kind : SrcKind) (s : Slot) (x : Src) : Bool :=
  !(fr.p.checking fr.mode && fr.lateSrc kind (fr.leader s) x) &&
    (srcOfSkein x || (fr.lanes.filter fun l => decide (l ≤ fr.leader s)).all (fr.predServed s))

/-- One issue event of an instruction that never pairs. `act` is given the lanes that passed R9 steps 1 to 3. -/
def runSlot (g : Gate) (s : State) (act : Frame → List Nat → State → Done) : Out :=
  match s.openFrame with
  | .error f => .fault f
  | .ok fr =>
    match g.trap? fr with
    | some (c, v) =>
      if fr.notReady then .next (s.holdEvent fr)
      else .next (s.closeEvent fr g.slot.stall.val (nextPc fr.pc) [] [] (fr.allTrap c v))
    | none =>
      if fr.notReady || fr.locked g.once g.form g.slot || g.waits fr then .next (s.holdEvent fr)
      else match g.judge fr with
      | some v => .next (s.closeEvent fr g.slot.stall.val (nextPc fr.pc) [] [] (fr.allTrap .illopnd v))
      | none =>
        let short := fr.shortLanes g.once g.form g.slot
        let shorts := short.map fun l => (⟨l, .stallshort, fr.pc, fr.pc, false⟩ : Trap)
        let alive := fr.lanes.filter fun l => !short.contains l
        match act fr alive s with
        | .wait s' => .next (s'.holdEvent fr)
        | .stop f => .fault f
        | .done s' goes stays traps =>
          .next (s'.closeEvent fr g.slot.stall.val (nextPc fr.pc) goes stays (shorts ++ traps))

/-! ## Results become available and writes land -/

/-- A fixed-latency result lands (R28): in its registers, in the cells its pushes still hold, and in skein.fpflags. -/
def Skein.landResult (k : Skein) (r : FixedResult) : Skein :=
  let k1 : Skein := { k with results := supersede (k.results.filter (fun x => x.seq != r.seq)) r.seq (r.regs.map fun w => w.1) }
  let k2 := k1.writeTargets r.regs
  let k3 := r.cells.foldl (fun k c => k.onLane c.lane fun a => a.setBank c.mode (bankLand (a.bank c.mode) c.tag c.val)) k2
  { k3 with fpflags := k3.fpflags ||| (r.flags &&& fpflagsMask) }

/-- The earliest-issued result that is due (R25). -/
def Skein.dueResult (k : Skein) (cycle : Nat) : Option FixedResult :=
  k.results.find? fun r => decide (r.due ≤ cycle) && k.results.all fun q =>
    !(decide (q.due ≤ cycle)) || decide (r.due < q.due) || (r.due == q.due && decide (r.seq ≤ q.seq))

/-- The values of a variable-latency write that land: poisoned ones never do (R219, R387). -/
def VarWrite.sound (w : VarWrite) : List (Target × Word) := w.vals.filter fun x => !(w.bad.any fun b => b.target == some x.1)

/-- A variable-latency write lands (R28, R30, R33). -/
def Skein.landOut (k : Skein) (w : VarWrite) : Skein :=
  let k1 : Skein := { k with outs := k.outs.filter fun x => x.seq != w.seq,
                             results := supersede k.results w.seq (w.sound.map fun x => x.1) }
  let k2 := k1.writeTargets w.sound
  { k2 with fpflags := k2.fpflags ||| (w.flags &&& fpflagsMask) }

/-- The skein waits no longer for anything that can set a flag (R33), engines apart. -/
def Skein.flagsSettled (k : Skein) : Bool := !(k.results.any (·.raises)) && !(k.outs.any (·.raises))

end Sys2Proof.Machine
end

