-- ==== Sys2Proof/Machine/Memory.lean ====
section
/-!
DEFINITION. Sys2Proof/Machine/Memory.lean: physical memory and its homes (R202, R455), L1 and the remote-data cache
(R203 to R205), accesses on their way to the home L2, atomics (R221, R222), acquire and release (R203, R204, R223).
-/
namespace Sys2Proof.Machine

/-! ## The physical map (R455) -/

/-- The bytes of one die's direct base. -/
def dieSpan : Nat := 2 ^ 38
/-- The offset of a die's swatch heap. -/
def heapOff : Nat := 0x2140000000
/-- The offset of a die's firmware range. -/
def firmwareOff : Nat := 0x2180000000
/-- The end of a die's HBM4. -/
def hbmEnd : Nat := 0x218711A000
/-- The base of the interleaved range. -/
def interBase : Nat := 2 ^ 40

/-- The home die of a physical address. -/
def homeDie (pa : Nat) : Nat := if pa < interBase then pa / dieSpan else (pa - interBase) / 16384 % 4

/-- A physical byte is backed by memory; `i` is the interleave share. -/
def backed (i pa : Nat) : Bool :=
  if pa < interBase then
    let o := pa % dieSpan
    decide (o < heapOff - i) || (decide (heapOff ≤ o) && decide (o < hbmEnd))
  else decide (pa < interBase + 4 * i)

/-- Every byte of a range is backed; ranges are at most a page of one kind, or begin and end in one range. -/
def backedRange (i pa n : Nat) : Bool := n == 0 || (backed i pa && backed i (pa + n - 1) &&
  (decide (interBase ≤ pa) || (pa / dieSpan == (pa + n - 1) / dieSpan
    && (decide (pa % dieSpan < heapOff) == decide ((pa + n - 1) % dieSpan < heapOff)))))

/-- The firmware range of a die. -/
def firmwareBase (die : Nat) : Nat := die * dieSpan + firmwareOff
/-- Its size in bytes. -/
def firmwareSize : Nat := hbmEnd - firmwareOff
/-- The swatch heap of a die. -/
def heapBase (die : Nat) : Nat := die * dieSpan + heapOff

/-! ## Copies -/

/-- An acquire leaves the L1 line (R203): its page is read-only, or it holds kernel constants. -/
def PageMark.kept (m : PageMark) : Bool := m.ro || m.const

/-- The sector of a physical address. -/
def sectorOf (pa : Nat) : Nat := pa / 32

/-- `n` bytes of a sector from an offset, as a little-endian number. -/
def sectorRead (d : BitVec 256) (off n : Nat) : Nat := d.toNat / 2 ^ (8 * off) % 2 ^ (8 * n)

/-- A sector with bytes replaced from an offset. -/
def sectorPatch (d : BitVec 256) (off : Nat) : List Byte → BitVec 256
  | [] => d
  | b :: bs =>
    sectorPatch ((d &&& ~~~(0xFF#256 <<< (8 * off))) ||| (b.setWidth 256 <<< (8 * off))) (off + 1) bs

/-- A sector as memory holds it. -/
def memSector (m : Bytes) (sector : Nat) : BitVec 256 := BitVec.ofNat 256 (m.read (32 * sector) 32)

/-- The copy of a sector at a place. -/
def State.copy? (s : State) (place sector : Nat) : Option Copy :=
  s.copies.find? fun c => c.place == place && c.sector == sector

/-- The copy of a sector that a die's remote-data cache holds for a function: a line tagged with another function is no hit, and a fill replaces
it (R204, R250). (log entry 95: DEDUCED) -/
def State.dieCopy? (s : State) (die fn sector : Nat) : Option Copy := (s.copy? (diePlace die) sector).filter fun c => c.fn == fn

/-- The copies that do not satisfy a test. -/
def State.dropCopies (s : State) (f : Copy → Bool) : State := { s with copies := s.copies.filter fun c => !f c }

/-- The copy of one sector at one place is gone. -/
def State.dropCopy (s : State) (place sector : Nat) : State :=
  s.dropCopies fun c => c.place == place && c.sector == sector

/-- How many sectors a place holds (R194). A miss fills single sectors, and a place is full by the sectors it holds, whatever their lines.
(log entry 94: DESIGN CHOICE) -/
def copyRoom (place : Nat) : Nat := if place < 768 then 4096 else 524288

/-- The first `n` elements that satisfy a test, and all that do not. -/
def keepFirst {α : Type} (f : α → Bool) : Nat → List α → List α
  | _, [] => []
  | n, x :: xs =>
    if f x then (match n with | 0 => keepFirst f 0 xs | m + 1 => x :: keepFirst f m xs) else x :: keepFirst f n xs

/-- A copy is filled; an older copy goes when the place is full. -/
def State.fillCopy (s : State) (c : Copy) : State :=
  { s with copies := keepFirst (fun x => x.place == c.place) (copyRoom c.place)
             (c :: s.copies.filter fun x => !(x.place == c.place && x.sector == c.sector)) }

/-- A copy, if present, takes bytes. -/
def State.patchCopy (s : State) (place sector off : Nat) (bs : List Byte) : State :=
  { s with copies := s.copies.map fun c =>
      if c.place = place ∧ c.sector = sector then { c with data := sectorPatch c.data off bs } else c }

/-! ## Accesses on their way -/

/-- How many bytes an access writes. -/
def Access.size (a : Access) : Nat :=
  match a.op with
  | .store bs _ => bs.length
  | .rmw _ n _ _ _ => n

/-- The access touches some byte of a range. -/
def Access.touches (a : Access) (pa n : Nat) : Bool := decide (a.pa < pa + n) && decide (pa < a.pa + a.size)

/-- The new memory value of an atomic operation on `8 n` bits (R221, R222); the kinds are unsigned, signed, FP32. -/
def rmwNew (op : Rmw) (n m b c : Nat) : Nat :=
  let w := 8 * n
  let lt (kind x y : Nat) : Bool := if kind = 1 then decide (sext x w < sext y w) else decide (x < y)
  match op with
  | .cas => if m = b then c else m
  | .atom k kind =>
    match k with
    | 0 => if kind = 2 then (fAdd fmt32 { rm := .rne, ftz := false } m b).1 else (m + b) % 2 ^ w
    | 1 => b
    | 2 => m &&& b
    | 3 => m ||| b
    | 4 => m ^^^ b
    | 5 => if kind = 2 then (fMinMax fmt32 false m b).1 else if lt kind b m then b else m
    | 6 => if kind = 2 then (fMinMax fmt32 true m b).1 else if lt kind m b then b else m
    | _ => if lt kind m b then (m + 1) % 2 ^ w else m

/-- A number as words, low word first. -/
def wordsOf (x : Nat) : Nat → List Word
  | 0 => []
  | n + 1 => BitVec.ofNat 32 x :: wordsOf (x / 2 ^ 32) n

/-- The virtual address of a line (R194), as POISON names it (R54). -/
def lineVa (va : Dword) : Dword := BitVec.ofNat 64 (va.toNat / 128 * 128)

/-- What POISON names for some bytes of memory that data comes from; `none` when they carry no marker (R54, R219). -/
def State.poisonAt (s : State) (r : Region) (pa n : Nat) (va : Dword) : Option Dword :=
  if s.poisoned r pa n then some (lineVa va) else none

/-- An atomic's old value, on its way from the dies `homes`, reaches the outstanding write that waits for access `id`. -/
def State.deliver (s : State) (id : Nat) (r : Return) (old : Nat) (bad : Option Dword) (homes : List Nat) : State :=
  s.onPanel r.panel fun p => p.onSkein r.skein fun k =>
    { k with outs := k.outs.map fun w =>
        if w.seq = r.seq then
          { w with vals := w.vals ++ r.targets.zip (wordsOf old r.targets.length), awaits := w.awaits.erase id
                   bad := w.bad ++ badTargets r.lane r.targets bad, homes := w.homes ++ homes }
        else w }

/-- The operation's new value does not depend on the old one: an exchange. -/
def Rmw.fresh : Rmw → Bool
  | .atom k _ => k == 1
  | .cas => false

/-- A sector filled at a place takes the markers of where it comes from, but for the bytes of the core's own stores on their way (R479). -/
def State.carryFill (s : State) (src dst : Region) (core sector : Nat) : State :=
  s.inflight.foldl (fun s a =>
    match a.op with
    | .store bs _ => if a.core = core ∧ sectorOf a.pa = sector then s.heal dst a.pa bs.length else s
    | .rmw .. => s) (s.carry src (32 * sector) dst (32 * sector) 32)

/-- An access is performed at its home L2 (R203, R204): a store updates the issuing die's remote-data copy on its way, an
atomic removes the issuing core's and die's copies of its sector. Stored bytes carry no marker; an atomic's keep theirs unless it
exchanges (R479). -/
def State.performed (s : State) (a : Access) : State :=
  let die := diePlace (dieOf a.core)
  let s1 : State := { s with inflight := s.inflight.filter fun b => b.id != a.id }
  match a.op with
  | .store bs _ => ((s1.setMem (s1.mem.put a.pa bs) a.pa bs.length).patchCopy die (sectorOf a.pa) (a.pa % 32) bs).heal (.copy die) a.pa bs.length
  | .rmw op n b c ret =>
    let old := s1.mem.read a.pa n
    let s2 := ({ s1 with mem := s1.mem.write a.pa n (rmwNew op n old b c) }.dropCopy a.core (sectorOf a.pa)).dropCopy
      die (sectorOf a.pa)
    let s3 := if op.fresh then s2.heal .memory a.pa n else s2
    match ret with
    | none => s3
    | some r => s3.deliver a.id r old (s1.poisonAt .memory a.pa n a.va) [homeDie a.pa]

/-- No earlier access of the same core to a byte of it is on its way: it may be performed next (R250 Coherence). -/
def State.oldest (s : State) (a : Access) : Bool :=
  s.inflight.all fun b => !(b.core == a.core && decide (b.id < a.id) && b.touches a.pa a.size)

/-- The accesses of a list are performed, in order. -/
def State.performAll (s : State) (as : List Access) : State := as.foldl State.performed s

/-- The accesses of a list, oldest first, that touch a range, with those before them that touch one of these (R250 Coherence). -/
def touching (pa n : Nat) (as : List Access) : List Access :=
  as.foldr (fun a acc => if a.touches pa n || acc.any (fun b => a.touches b.pa b.size) then a :: acc else acc) []

/-- The core's accesses that a read of a range must follow are performed, oldest first. -/
def State.settleRange (s : State) (core pa n : Nat) : State :=
  s.performAll (touching pa n (s.inflight.filter fun a => a.core == core))

/-- The core's atomics that touch a range are performed, with every access before them to those bytes. -/
def State.settleAtomics (s : State) (core pa n : Nat) : State :=
  if s.inflight.any fun a => a.core == core && a.touches pa n && a.isRmw then s.settleRange core pa n else s

/-- A sector with the core's stores that are on their way. -/
def State.overlay (s : State) (core sector : Nat) (d : BitVec 256) : BitVec 256 :=
  s.inflight.foldl (fun d a =>
    match a.op with
    | .store bs _ => if a.core = core ∧ sectorOf a.pa = sector then sectorPatch d (a.pa % 32) bs else d
    | .rmw .. => d) d

/-- What a read of `n` bytes of global memory waits for (R205, R250, R252): the core's atomics to them, and past the caches its stores too, whose
copies then go. -/
def State.loadReady (s : State) (core pa n : Nat) (bypass : Bool) : State :=
  if bypass then ((s.settleRange core pa n).dropCopy core (sectorOf pa)).dropCopy (diePlace (dieOf core)) (sectorOf pa)
  else s.settleAtomics core pa n

/-- Where a function's read on a core finds a sector, and its bytes there: in L1, in the die's copy of a remote sector, or in memory (R202 to
R205). -/
def State.loadSource (s : State) (core fn pa : Nat) : Region × BitVec 256 :=
  match s.copy? core (sectorOf pa), if homeDie pa != dieOf core then s.dieCopy? (dieOf core) fn (sectorOf pa) else none with
  | some c, _ => (.copy core, c.data)
  | none, some c => (.copy (diePlace (dieOf core)), c.data)
  | none, none => (.memory, memSector s.mem (sectorOf pa))

/-- The value of a read that waits for nothing any more: the core's own stores on their way stand over what it finds (R203). -/
def State.loadValue (s : State) (core fn pa n : Nat) (bypass : Bool) : Nat :=
  if bypass then s.mem.read pa n
  else sectorRead (s.overlay core (sectorOf pa) (s.loadSource core fn pa).2) (pa % 32) n

/-- The caches after such a read: its sector is filled where it was missed (R202 to R204). -/
def State.loadFill (s : State) (core fn pa : Nat) (bypass : Bool) (mark : PageMark) : State :=
  let sec := sectorOf pa
  let die := diePlace (dieOf core)
  let from_ := s.loadSource core fn pa
  if bypass || from_.1 == .copy core then s
  else
    let far := homeDie pa != dieOf core
    let s1 := if far && from_.1 == .memory then
        (s.fillCopy ⟨die, sec, from_.2, fn, { mark with const := false }⟩).carry .memory (32 * sec) (.copy die) (32 * sec) 32
      else s
    (s1.fillCopy ⟨core, sec, s1.overlay core sec from_.2, fn, mark⟩).carryFill (if far then .copy die else .memory) (.copy core) core sec

/-- A read of `n` bytes of global memory by a core for a function (R202 to R205): its value, and the caches after it. (log entry 5: DESIGN CHOICE) -/
def State.loadPhys (s : State) (core fn pa n : Nat) (bypass : Bool) (mark : PageMark) : Nat × State :=
  let s1 := s.loadReady core pa n bypass
  (s1.loadValue core fn pa n bypass, s1.loadFill core fn pa bypass mark)

/-- A byte of a core's own store on its way. -/
def State.ownByte (s : State) (core i : Nat) : Bool :=
  s.inflight.any fun a =>
    match a.op with
    | .store .. => a.core == core && a.touches i 1
    | .rmw .. => false

/-- What POISON names for a read that waits for nothing any more (R54, R219): the markers of where its bytes stand. -/
def State.loadPoison (s : State) (core fn pa n : Nat) (bypass : Bool) (va : Dword) : Option Dword :=
  let r := if bypass then .memory else (s.loadSource core fn pa).1
  if (s.badBytes r pa n).any fun i => bypass || !s.ownByte core i then some (lineVa va) else none

/-- A number for a new access, walk or panel. -/
def State.fresh (s : State) : Nat × State := (s.nextId, { s with nextId := s.nextId + 1 })

/-- An access is issued (R203): a store completes at the core by updating its L1 copy; with CPOL 2 the copy goes, so that
the lane's own later reads see the store (R250; log entry 9: DEDUCED). -/
def State.issueAccess (s : State) (a : Access) : State :=
  let s1 : State := { s with inflight := s.inflight ++ [a] }
  match a.op with
  | .store bs false => (s1.patchCopy a.core (sectorOf a.pa) (a.pa % 32) bs).heal (.copy a.core) a.pa bs.length
  | .store _ true => s1.dropCopy a.core (sectorOf a.pa)
  | .rmw .. => s1

/-! ## Acquire and release -/

/-- The function's partition holds clusters on more than one die (R204). -/
def Func.spansDies (f : Func) : Bool :=
  1 < ((List.range 4).filter fun d => bits f.clusters.toNat (8 * d + 7) (8 * d) != 0).length

/-- The scope reaches lanes on another die (R204). -/
def scopeLeavesDie (f : Func) : Scope → Bool
  | .skein | .panel | .cluster | .die => false
  | .tenant => f.spansDies
  | .device | .system => true

/-- The scope is cluster or wider. -/
def scopeLeavesCore : Scope → Bool
  | .skein | .panel => false
  | _ => true

/-- An acquire of a panel of function `fn` on a core (R203, R204). -/
def State.acquire (s : State) (core fn : Nat) (scope : Scope) : State :=
  let s1 := if scopeLeavesCore scope then s.dropCopies fun c => c.place == core && !c.mark.kept else s
  if scopeLeavesDie (s.func fn) scope then
    s1.dropCopies fun c => c.place == diePlace (dieOf core) && c.fn == fn && !c.mark.ro
  else s1

/-- A release at a scope beyond the core must still wait (R223): some access of the core is not at its home, or for system scope some CWB
is not complete. -/
def State.releaseWaits (s : State) (core : Nat) (scope : Scope) : Bool :=
  scopeLeavesCore scope &&
    (s.inflight.any (fun a => a.core == core) || (scope == .system && s.writeBacks.any fun w => w.core == core))

/-- A release by lanes of the skein must still wait: within the core, for what their own earlier atomics will have read (R244). -/
def Frame.releaseWaits (fr : Frame) (s : State) (scope : Scope) : Bool :=
  s.releaseWaits fr.p.core scope || s.rmwFlying fr.p.id fr.kx

/-- ORD has the release role. -/
def ordRel : Ord → Bool
  | .release | .acqRel => true
  | _ => false

/-- ORD has the acquire role. -/
def ordAcq : Ord → Bool
  | .acquire | .acqRel => true
  | _ => false

/-! ## Events -/

/-- PERFORMED_AT_HOME_L2 (R202, R203). Access `n` reaches its home L2. -/
def execPerformedAtHomeL2 (n : Nat) (s : State) : Out :=
  match s.inflight.find? fun a => a.id == n with
  | some a => .next (if s.oldest a then s.performed a else s)
  | none => .next s

/-- The 128-byte line as memory holds it. -/
def lineBytes (m : Bytes) (line : Nat) : List Byte := m.list (128 * line) 128

/-- CWB_COMPLETE (R225): the line's earlier stores of the core are at home, and the L2 line is written to HBM4. -/
def execCwbComplete (n : Nat) (s : State) : Out :=
  match s.writeBacks.find? fun w => w.id == n with
  | none => .next s
  | some w =>
    if s.inflight.any fun a => a.core == w.core && decide (a.id < w.id) && a.touches (128 * w.line) 128 then .next s
    else .next { s with writeBacks := s.writeBacks.filter (fun x => x.id != n),
                        hbm := s.hbm.put (128 * w.line) (lineBytes s.mem w.line) }

end Sys2Proof.Machine
end

