-- ==== Sys2Proof/Machine/Translate.lean ====
section
/-!
DEFINITION. Sys2Proof/Machine/Translate.lean: the two-stage walk (R408 to R412), TLBs and walk caches (R415), walks in flight
and firmware's second-stage faults (R413, R414), the heap window (R352, R353), TLBI and HTLBI (R416 to R418).
-/
namespace Sys2Proof.Machine

/-! ## Table entries (R410, R411) -/

/-- log2 of a page size code. -/
def pageLog (sz : Nat) : Nat :=
  match sz with
  | 0 => 12 | 1 => 14 | 2 => 16 | 3 => 18 | 4 => 20 | 5 => 21 | 6 => 22 | 7 => 24
  | 8 => 25 | 9 => 26 | 10 => 28 | 11 => 29 | 12 => 30 | 13 => 32 | 14 => 34 | _ => 36

/-- The level a page size code is legal at. -/
def pageLevel (sz : Nat) : Nat := if sz ≤ 4 then 4 else if sz ≤ 11 then 3 else 2

/-- log2 of what an entry at a level spans (R409). -/
def spanLog (level : Nat) : Nat := 12 + 9 * (4 - level)

/-- V of an entry. -/
def entryV (e : Dword) : Bool := e.getLsbD 0
/-- T of an entry. -/
def entryT (e : Dword) : Bool := e.getLsbD 1
/-- W of an entry. -/
def entryW (e : Dword) : Bool := e.getLsbD 2
/-- X of an entry. -/
def entryX (e : Dword) : Bool := e.getLsbD 3
/-- U of an entry. -/
def entryU (e : Dword) : Bool := e.getLsbD 4
/-- SZ of an entry. -/
def entrySz (e : Dword) : Nat := bits e.toNat 11 8
/-- OA of an entry, as an address. -/
def entryOa (e : Dword) : Nat := bits e.toNat 56 12 * 4096

/-- The entry is malformed at a level of a stage (R410). -/
def entryBad (stage level : Nat) (e : Dword) : Bool :=
  let reserved := bits e.toNat 58 57 != 0 || bits e.toNat 7 5 != 0
  let second := stage == 2 && (entryU e || bits e.toNat 56 52 != 0)
  if entryT e then level == 4 || reserved || entrySz e != 0 || entryW e || entryX e || second
  else decide (level ≤ 1) || pageLevel (entrySz e) != level || entryOa e % 2 ^ pageLog (entrySz e) != 0 || reserved || second

/-! ## Walks (R412) -/

/-- What a walk reads with: memory as the home L2s hold it, the die's walk cache and its TLB's second-stage leaves for the function, the
function's windows and the interleave share. -/
structure WalkEnv where
  mem : Bytes
  inter : Nat
  cache : List TableRead
  seconds : List TableRead
  windows : List Window

/-- One entry read for an address, from the walk cache or at the home L2 (R415). -/
def WalkEnv.entry (w : WalkEnv) (stage a level pa : Nat) : Dword :=
  match w.cache.find? fun r => r.stage == stage && r.pa == pa && r.base == a / 2 ^ spanLog level * 2 ^ spanLog level with
  | some r => r.val
  | none => BitVec.ofNat 64 (w.mem.read pa 8)

/-- The bytes from `a` up to `e` lie in windows; `fuel` bounds the windows they run through. -/
def windowsCover (ws : List Window) (a e : Nat) : Nat → Bool
  | 0 => false
  | fuel + 1 =>
    match ws.find? fun w => decide (w.base ≤ a) && decide (a < w.base + w.size) with
    | none => false
    | some w => decide (e ≤ w.base + w.size) || windowsCover ws (w.base + w.size) e fuel

/-- A page lies inside the function's windows (R456): several windows may hold it together. -/
def inWindows (ws : List Window) (pa n : Nat) : Bool := windowsCover ws pa (pa + n) ws.length

/-- A leaf a walk reached: the output address, the entry, its level and page size. -/
structure Leaf where
  out : Nat
  entry : Dword
  level : Nat
  size : Nat
deriving DecidableEq, Repr

/-- What a walk answers: the entries it read, and a leaf or where it stopped. -/
abbrev WalkRes := List TableRead × Except WalkStop Leaf

/-- The page an entry's leaf names for an address. -/
def leafOf (e : Dword) (a level : Nat) : Leaf :=
  let size := 2 ^ pageLog (entrySz e)
  ⟨entryOa e + a % size, e, level, size⟩

/-- An entry as a walk reads it for an address: a table spans its level's reach, a leaf its whole page (R411). -/
def readOf (stage a level pa ipa : Nat) (e : Dword) : TableRead :=
  let span := if entryT e then 2 ^ spanLog level else 2 ^ pageLog (entrySz e)
  ⟨stage, a / span * span, span, pa, ipa, e⟩

/-- The second stage from a level on; `fuel` counts the levels left. -/
def walkSecond (w : WalkEnv) (a : Nat) : Nat → Nat → WalkRes
  | 0, _ => ([], .error ⟨2, 4, 2, 0, a⟩)
  | fuel + 1, t =>
    let level := 4 - fuel
    let pa := t + 8 * (a / 2 ^ spanLog level % 512)
    if !backed w.inter pa then ([], .error ⟨2, level, 6, 0, a⟩)
    else
      let e := w.entry 2 a level pa
      let r := readOf 2 a level pa 0 e
      if !entryV e then ([], .error ⟨2, level, 1, e, a⟩)
      else if entryBad 2 level e then ([], .error ⟨2, level, 2, e, a⟩)
      else if entryT e then
        let rest := walkSecond w a fuel (entryOa e)
        (r :: rest.1, rest.2)
      else
        let l := leafOf e a level
        if inWindows w.windows (entryOa e) l.size then ([r], .ok l) else ([r], .error ⟨2, level, 4, e, a⟩)

/-- The second stage of an address: a second-stage leaf of the TLB answers at once (R415). -/
def WalkEnv.second (w : WalkEnv) (root2 a : Nat) : WalkRes :=
  match w.seconds.find? fun r => decide (r.base ≤ a) && decide (a < r.base + r.span) with
  | some r => ([r], .ok (leafOf r.val a (pageLevel (entrySz r.val))))
  | none => walkSecond w a 5 root2

/-- The first stage from a level on: each table read first passes the second stage. -/
def walkFirst (w : WalkEnv) (root2 a : Nat) : Nat → Nat → WalkRes
  | 0, _ => ([], .error ⟨1, 4, 2, 0, 0⟩)
  | fuel + 1, t =>
    let level := 4 - fuel
    let ipa := t + 8 * (a / 2 ^ spanLog level % 512)
    match w.second root2 ipa with
    | (rs, .error x) => (rs, .error x)
    | (rs, .ok l2) =>
      let e := w.entry 1 a level l2.out
      let r := readOf 1 a level l2.out ipa e
      if !entryV e then (rs, .error ⟨1, level, 1, e, 0⟩)
      else if entryBad 1 level e then (rs, .error ⟨1, level, 2, e, 0⟩)
      else if entryT e then
        let rest := walkFirst w root2 a fuel (entryOa e)
        (rs ++ r :: rest.1, rest.2)
      else (rs ++ [r], .ok (leafOf e a level))

/-- Both stages of R412 without the permission checks: the entries read, and the two leaves. -/
def walkBoth (w : WalkEnv) (root1 root2 va : Nat) : List TableRead × Except WalkStop (Leaf × Leaf) :=
  if va / 2 ^ 57 != 0 then ([], .error ⟨1, 0, 3, 0, 0⟩)
  else
    match walkFirst w root2 va 5 root1 with
    | (rs, .error x) => (rs, .error x)
    | (rs, .ok l1) =>
      match w.second root2 l1.out with
      | (rs2, .error x) => (rs ++ rs2, .error x)
      | (rs2, .ok l2) => (rs ++ rs2, .ok (l1, l2))

/-- The page two leaves give together (R415): the smaller of the two. -/
def combine (va : Nat) (l1 l2 : Leaf) : Page :=
  let size := min l1.size l2.size
  { base := va / size * size, size := size, pa := l2.out / size * size, w := entryW l1.entry && entryW l2.entry
    x := entryX l1.entry && entryX l2.entry, u := entryU l1.entry, level := l1.level }

/-- The page permits the access (R412). -/
def Page.permits (p : Page) (kind : AccessKind) (m : Mode) : Bool :=
  (kind != .write || p.w) && (kind != .fetch || p.x) && (m != .user || p.u)

/-- The walk of an access (R412). -/
def walkAccess (w : WalkEnv) (root1 root2 va : Nat) (kind : AccessKind) (m : Mode) : List TableRead × WalkEnd :=
  match walkBoth w root1 root2 va with
  | (rs, .error x) => (rs, .stop x)
  | (rs, .ok (l1, l2)) =>
    let p := combine va l1 l2
    if p.permits kind m then (rs, .page p) else (rs, .stop ⟨1, l1.level, 5, l1.entry, 0⟩)

/-- What a die's walks of a function read with. -/
def State.walkEnv (s : State) (fn die : Nat) (cached : Bool) : WalkEnv where
  mem := s.mem
  inter := s.interleave
  cache := if cached then (s.walkCopies.filter fun c => c.die == die && c.fn == fn).map fun c => c.entry else []
  seconds := if cached then s.tlbs.filterMap fun t =>
      match t.map with
      | .second r => if t.place = diePlace die ∧ t.fn = fn then some r else none
      | .combined _ => none
    else []
  windows := (s.func fn).windows

/-- The walk of an access by the tables as they stand. -/
def State.walkNow (s : State) (fn die : Nat) (cached : Bool) (va : Dword) (kind : AccessKind) (m : Mode) :
    List TableRead × WalkEnd :=
  walkAccess (s.walkEnv fn die cached) (s.func fn).root1.toNat (s.func fn).root2.toNat va.toNat kind m

/-! ## TLBs (R415) -/

/-- The page covers an address. -/
def Page.covers (p : Page) (va : Nat) : Bool := decide (p.base ≤ va) && decide (va < p.base + p.size)

/-- The combined page of a TLB entry. -/
def TlbMap.page? : TlbMap → Option Page
  | .combined p => some p
  | .second _ => none

/-- The combined page that a place's TLB holds for an address of a function. -/
def State.tlb? (s : State) (place fn va : Nat) : Option Page :=
  s.tlbs.findSome? fun t => if t.place = place ∧ t.fn = fn then t.map.page?.filter fun p => p.covers va else none

/-- How many entries a place holds. -/
def tlbRoom (place : Nat) : Nat := if place < 768 then 512 else 16384

/-- Two maps are of one stage and of one page. -/
def TlbMap.same : TlbMap → TlbMap → Bool
  | .combined p, .combined q => p.base == q.base && p.size == q.size
  | .second r, .second q => r.base == q.base && r.span == q.span
  | _, _ => false

/-- An entry is installed; the oldest goes when the place is full. -/
def State.installTlb (s : State) (t : TlbEntry) : State :=
  let others := s.tlbs.filter fun x => !(x.place == t.place && x.fn == t.fn && x.map.same t.map)
  { s with tlbs := keepFirst (fun x => x.place == t.place) (tlbRoom t.place) (t :: others) }

/-- A walk's page goes to its core's and its die's TLB; the die keeps the second-stage leaves it read in its TLB, one entry for a page, and
the table entries in its walk caches (R415). (log entry 18: DEDUCED) -/
def State.installWalk (s : State) (w : Walk) (p : Page) : State :=
  let die := dieOf w.core
  let leaves := w.reads.filter fun r => r.stage == 2 && !entryT r.val
  let s1 := leaves.foldl (fun (s : State) r => s.installTlb ⟨diePlace die, w.fn, .second r⟩) s
  let s2 := (s1.installTlb ⟨diePlace die, w.fn, .combined p⟩).installTlb ⟨w.core, w.fn, .combined p⟩
  let new := (w.reads.filter fun r => entryT r.val).map fun r => (⟨die, w.fn, r⟩ : WalkCopy)
  { s2 with walkCopies := new ++ s2.walkCopies.filter fun c => !new.contains c }

/-- The physical address of an address in a page. -/
def Page.at (p : Page) (va : Nat) : Nat := p.pa + (va - p.base)

/-! ## The heap window (R352, R353) -/

/-- The address lies in the function's heap window (R489). -/
def Func.inHeap (f : Func) (va : Nat) : Bool := f.heapVa != 0 && va / 2 ^ 32 == f.heapVa

/-- The physical address of an address in a heap window. -/
def heapPhys (va : Nat) : Nat := heapBase (va / 2 ^ 30 % 4) + va % 2 ^ 30

/-- A function holds a right, by its bit in a grant word, on a domain and tag (R356). -/
def Func.hasRight (f : Func) (bit domain tag : Nat) : Bool :=
  (List.range 64).any fun i =>
    let g := f.grants.get i
    bits g.toNat 31 27 == 0 && g.getLsbD bit && bits g.toNat 23 16 == domain && bits g.toNat 15 0 == tag

/-- The number of the tag entry that owns a heap address: 2^21 for each die, 16 for each set, and the way (R352). -/
def swEntryOf (va : Nat) : Nat := va / 2 ^ 30 % 4 * 2 ^ 21 + va % 2 ^ 30 / 512

/-- A tag entry by its number (R354). -/
def State.swTag (s : State) (n : Nat) : SwTag := cellGet SwTag.blank s.swTags n

/-- The permission check of R353 for an access of a function to a heap address. -/
def State.heapOk (s : State) (fn : Nat) (kind : AccessKind) (va : Nat) : Bool :=
  let t := s.swTag (swEntryOf va)
  match kind with
  | .read => (s.func fn).hasRight 24 t.domain t.tag
  | .write => (s.func fn).hasRight 25 t.domain t.tag && t.st == .inflight
  | .fetch => false

/-- The first address of a page of the heap window whose slot the check of R353 turns away: a page holds eight slots. -/
def State.heapBar (s : State) (fn : Nat) (kind : AccessKind) (va : Nat) : Option Nat :=
  ((List.range 8).map fun i => va + 512 * i).find? fun a => !s.heapOk fn kind a

/-- What translating an address for an access gives at once. -/
inductive Look where
  | phys (pa : Nat) (mark : PageMark)
  | tfault
  | perm
  | miss
  | declined
  | unbacked
deriving DecidableEq, Repr

/-- What a walk's end gives the access. -/
def WalkEnd.look (e : WalkEnd) (va : Nat) : Look :=
  match e with
  | .page p => .phys (p.at va) ⟨!p.w, false, (p.base, p.size)⟩
  | .stop x => if x.kind = 6 then .unbacked else .tfault

/-- Firmware has declined a walk of the panel's engines for the page (R414). -/
def State.declinedWalk (s : State) (panel : Nat) (skein : Option Nat) (va : Dword) (kind : AccessKind) (m : Mode) : Bool :=
  s.walks.any fun w => w.panel == panel && w.skein == skein && w.kind == kind && w.mode == m && w.stage == .declined &&
    w.va.toNat / 4096 == va.toNat / 4096

/-- An ended walk of the event held by (panel, skein) for the address. -/
def State.endedWalk (s : State) (panel : Nat) (skein : Option Nat) (va : Dword) (kind : AccessKind) (m : Mode) :
    Option Walk :=
  s.walks.find? fun w => w.panel == panel && w.skein == skein && w.kind == kind && w.mode == m && w.stage == .ended &&
    w.va.toNat / 4096 == va.toNat / 4096

/-- The combined page that the core's TLB or an ended walk of the event gives an access. -/
def State.pageFor (s : State) (id fn core : Nat) (skein : Option Nat) (va : Dword) (kind : AccessKind) (m : Mode) : Option WalkEnd :=
  match (s.tlb? core fn va.toNat).filter fun p => p.permits kind m with
  | some p => some (.page p)
  | none => (s.endedWalk id skein va kind m).map fun w => w.found

/-- Translation at issue (R217, R353, R412, R415). -/
def State.lookAt (s : State) (id fn core : Nat) (skein : Option Nat) (va : Dword) (kind : AccessKind) (m : Mode) : Look :=
  let a := va.toNat
  if a / 2 ^ 57 != 0 then .tfault
  else if (s.func fn).inHeap a then
    (if kind = .fetch then .tfault else if s.heapOk fn kind a then .phys (heapPhys a) ⟨false, false, (0, 0)⟩ else .perm)
  else match s.pageFor id fn core skein va kind m with
    | some e => e.look a
    | none => if s.declinedWalk id skein va kind m then .declined else .miss

/-- Translation for an access of a resident panel. -/
def State.look (s : State) (p : Panel) (skein : Option Nat) (va : Dword) (kind : AccessKind) (m : Mode) : Look :=
  s.lookAt p.id p.fn p.core skein va kind m

/-- The walks of a die that hold a walker: those that run, and those that wait for firmware (R414, R415). (log entry 18: DEDUCED) -/
def State.walksOf (s : State) (die : Nat) : Nat :=
  (s.walks.filter fun w => dieOf w.core == die && (w.stage == .running || w.stage == .firmware)).length

/-- A walk starts unless one for the same page of the same event is there or the die has no free walker (R415). A hit in
the die's TLB fills the core's TLB at once. -/
def State.startWalkAt (s : State) (id fn core : Nat) (skein : Option Nat) (lanes : Word) (va : Dword) (kind : AccessKind)
    (m : Mode) : State :=
  let die := dieOf core
  match s.tlb? (diePlace die) fn va.toNat with
  | some p =>
    if p.permits kind m && (s.tlb? core fn va.toNat).isNone then s.installTlb ⟨core, fn, .combined p⟩ else go die
  | none => go die
where
  go (die : Nat) : State :=
    if s.walks.any fun w => w.panel == id && w.skein == skein && w.kind == kind && w.mode == m &&
        w.va.toNat / 4096 == va.toNat / 4096 then s
    else if 512 ≤ s.walksOf die then s
    else
      let (n, s1) := s.fresh
      let (rs, found) := s.walkNow fn die true va kind m
      { s1 with walks := s1.walks ++ [⟨n, id, skein, fn, core, va, kind, m, lanes, rs, false, found, .running⟩] }

/-- A walk for an access of a resident panel. -/
def State.startWalk (s : State) (p : Panel) (skein : Option Nat) (lanes : Word) (va : Dword) (kind : AccessKind) (m : Mode) : State :=
  s.startWalkAt p.id p.fn p.core skein lanes va kind m

/-- The walks of an event that goes on or is given up are forgotten (R217, R414). -/
def State.endWalks (s : State) (panel : Nat) (skein : Option Nat) : State :=
  { s with walks := s.walks.filter fun w => !(w.panel == panel && w.skein == skein) }

/-! ## Walks end (R412 to R414, R418) -/

/-- A walk changed by number. -/
def State.onWalk (s : State) (id : Nat) (f : Walk → Walk) : State :=
  { s with walks := s.walks.map fun w => if w.id = id then f w else w }

/-- A walk restarts from level 0 of the first stage (R414, R418). -/
def State.restartWalk (s : State) (w : Walk) : State :=
  let (rs, found) := s.walkNow w.fn (dieOf w.core) true w.va w.kind w.mode
  s.onWalk w.id fun x => { x with reads := rs, found := found, marked := false, stage := .running }

/-- A walk's end is a second-stage fault, which goes to firmware (R414). -/
def WalkEnd.secondStage : WalkEnd → Bool
  | .page _ => false
  | .stop x => x.stage == 2 && x.kind != 6

/-- TRANSLATION_WALK (R412 to R415, R418). Walk `n` ends: a marked one restarts, a page is installed, a second-stage fault
goes to firmware, any other fault stays for the event to take. -/
def execTranslationWalk (n : Nat) (s : State) : Out :=
  match s.walks.find? fun w => w.id == n && w.stage == .running with
  | none => .next s
  | some w =>
    if w.marked then .next (s.restartWalk w)
    else
      match w.found with
      | .page p => .next ((s.installWalk w p).onWalk n fun x => { x with stage := .ended })
      | .stop x =>
        if x.kind = 6 then .fault .unbacked
        else if w.found.secondStage then .next (s.onWalk n fun x => { x with stage := .firmware })
        else .next (s.onWalk n fun x => { x with stage := .ended })

/-- The syndrome of a machine check (R480). -/
def mchkTval (addr peer die src : Nat) : Dword := BitVec.ofNat 64 (addr / 4096 * 4096 + peer % 4 * 1024 + die % 4 * 256 + src)

/-- STAGE2_FAULT_RESOLVE (R414). Firmware writes table entries, and the access restarts; or it declines, and the panel stops with MCHK,
source 2: the operation of an engine that needs the page is dropped when it comes to it again. -/
def execStage2FaultResolve (n : Nat) (fix : Option (List (Nat × Dword))) (s : State) : Out :=
  match s.walks.find? fun w => w.id == n && w.stage == .firmware with
  | none => .next s
  | some w =>
    match fix with
    | some ws =>
      if ws.all fun x => backedRange s.interleave x.1 8 then
        let s1 := ws.foldl (fun (s : State) x => s.setMem (s.mem.write x.1 8 x.2.toNat) x.1 8) s
        .next (s1.restartWalk w)
      else .fault .unbacked
    | none =>
      let s1 : State := if w.skein.isNone then s.onWalk n fun x => { x with stage := .declined }
        else { s with walks := s.walks.filter fun x => x.id != n }
      .next (s1.onPanel w.panel fun p =>
        p.startHalt (s.cycle p.core) (w.skein.getD 0) .mchk w.lanes (mchkTval 0 0 (dieOf w.core) 2))

/-! ## TLBI and HTLBI (R416 to R418) -/

/-- What an invalidation covers. -/
inductive Cover where
  | va (lo n : Nat)
  | firstAll
  | ipa (lo n : Nat)
  | all
deriving DecidableEq, Repr

/-- Two ranges overlap. -/
def overlap (a n b m : Nat) : Bool := decide (a < b + m) && decide (b < a + n)

/-- A TLB entry is covered (R416). -/
def Cover.tlb (c : Cover) (t : TlbEntry) : Bool :=
  match c, t.map with
  | .va lo n, .combined p => overlap p.base p.size lo n
  | .va _ _, .second _ | .firstAll, .second _ => false
  | .ipa lo n, .second r => overlap r.base r.span lo n
  | .firstAll, .combined _ | .ipa _ _, .combined _ | .all, _ => true

/-- A table entry held in a walk cache, or read by a walk, is covered. -/
def Cover.read (c : Cover) (r : TableRead) : Bool :=
  match c with
  | .va lo n => r.stage == 1 && overlap r.base r.span lo n
  | .firstAll => r.stage == 1
  | .ipa lo n => if r.stage = 2 then overlap r.base r.span lo n else overlap r.ipa 8 lo n
  | .all => true

/-- A walk is marked: it read a covered entry, or its input address lies in the range. -/
def Cover.walk (c : Cover) (w : Walk) : Bool :=
  w.reads.any c.read ||
  match c with
  | .va lo n => overlap (w.va.toNat / 4096 * 4096) 4096 lo n
  | .firstAll | .all => true
  | .ipa lo n => (match w.found with
    | .stop x => x.stage == 2 && overlap (x.ipa / 4096 * 4096) 4096 lo n
    | .page _ => false)

/-- An access already translated through a page goes through a covered entry; HTLBI covers every combined entry. -/
def Cover.access (c : Cover) (page : Nat × Nat) : Bool :=
  match c with
  | .va lo n => overlap page.1 page.2 lo n
  | _ => page.2 != 0

/-- The sweep of R418 for a function: covered entries go; walks that used them are marked, and one that had ended goes, so that its access
walks afresh; remote-data copies of covered pages go (R204), and L1 copies of them keep no read-only mark (R203). -/
def State.sweep (s : State) (fn : Nat) (c : Cover) : State :=
  let s1 : State := { s with
    tlbs := s.tlbs.filter (fun t => !(t.fn == fn && c.tlb t))
    walkCopies := s.walkCopies.filter (fun w => !(w.fn == fn && c.read w.entry))
    walks := (s.walks.filter fun w => !(w.fn == fn && w.stage == .ended && c.walk w)).map fun w =>
      if w.fn == fn && c.walk w then { w with marked := true } else w
    copies := s.copies.map fun x => if x.fn = fn ∧ c.access x.mark.page then { x with mark := { x.mark with ro := false } } else x }
  s1.dropCopies fun x => decide (768 ≤ x.place) && x.fn == fn && c.access x.mark.page

/-- A lane's atomic step goes through a covered entry. -/
def Cover.step (c : Cover) : AtomPlace → Bool
  | .phys _ page _ => c.access page
  | .scratch .. => false

/-- The drain of R418 still waits: an access or CWB of the function through a covered entry is on its way. -/
def State.drainWaits (s : State) (fn : Nat) (c : Cover) : Bool :=
  s.inflight.any (fun a => a.fn == fn && c.access a.page) || s.atoms.any (fun a => a.fn == fn && c.step a.place) ||
    s.writeBacks.any fun w => w.fn == fn && c.access w.page

/-- TLBI and HTLBI but PROBE (R416, R418): `cover` says what is covered, `judge` gives the tval of an ILLOPND of the page count. -/
def runTlbi (i : Instr) (z : Slot) (need : Least) (f : Form) (cover : Frame → Cover) (judge : Frame → Option Dword) (s : State) : Out :=
  runSlot { slot := z, hi := slotHigh (encode i), form := f, need := need, once := true, judge := judge } s fun fr alive s =>
    if (fr.active z alive).isEmpty then .done s [] [] []
    else if s.releaseWaits fr.p.core .device then .wait s
    else
      let c := cover fr
      let s1 := s.sweep fr.p.fn c
      if s1.drainWaits fr.p.fn c then .wait s1 else .done s1 [] [] []

/-- The form of the ranged TLBI and HTLBI, and of PROBE. -/
def formTlbiRange : Form := { a := .scalarPair, b := .scalar }

/-- The page count of a ranged form. -/
def Frame.pageCount (fr : Frame) (z : Slot) : Nat := (fr.read32 z (fr.leader z) z.sb).toNat

/-- A page count of 0 or above 2^31, where its read is served (R416, R483). -/
def Frame.pagesBad (fr : Frame) (z : Slot) : Option Dword :=
  if fr.someActive z ∧ fr.served .scalar z z.sb ∧ (fr.pageCount z = 0 ∨ 2 ^ 31 < fr.pageCount z) then
    some (sbTval z)
  else none

/-- The covered range of the ranged forms: [11:0] of the address are ignored. -/
def rangeCover (z : Slot) (mk : Nat → Nat → Cover) (fr : Frame) : Cover :=
  mk ((fr.read z (fr.leader z) z.sa true false).toNat / 4096 * 4096) (4096 * fr.pageCount z)

/-- TLBI VA. -/
def execTlbiVa (z : Slot) (s : State) : Out :=
  runTlbi (.tlbiVa z) z .supervisor formTlbiRange (rangeCover z .va) (fun fr => fr.pagesBad z) s
/-- TLBI ALL. -/
def execTlbiAll (z : Slot) (s : State) : Out := runTlbi (.tlbiAll z) z .supervisor {} (fun _ => .firstAll) (fun _ => none) s
/-- HTLBI IPA. -/
def execHtlbiIpa (z : Slot) (s : State) : Out :=
  runTlbi (.htlbiIpa z) z .hypervisor formTlbiRange (rangeCover z .ipa) (fun fr => fr.pagesBad z) s
/-- HTLBI ALL. -/
def execHtlbiAll (z : Slot) (s : State) : Out := runTlbi (.htlbiAll z) z .hypervisor {} (fun _ => .all) (fun _ => none) s

/-- Tval of PERM and ALIGN outside global memory (R200). -/
def spaceTval (space handle off : Nat) : Dword := BitVec.ofNat 64 (space * 2 ^ 61 + handle % 16 * 2 ^ 32 + off % 2 ^ 32)

/-- The record PROBE writes (R417): the entry, and LEVEL, STAGE, KIND. -/
def probeRecord (r : Except WalkStop (Leaf × Leaf)) : Nat :=
  match r with
  | .ok (l1, _) => l1.entry.toNat + l1.level * 2 ^ 64
  | .error x => x.entry.toNat + (x.level + (if x.stage = 2 then 8 else 0) + x.kind * 16) * 2 ^ 64

/-- TLBI PROBE (R417). A table in unbacked memory ends the model's run (R455). -/
def execTlbiProbe (z : Slot) (s : State) : Out :=
  let tables (fr : Frame) (s : State) : List TableRead × Except WalkStop (Leaf × Leaf) :=
    walkBoth (s.walkEnv fr.p.fn (dieOf fr.p.core) false) (s.func fr.p.fn).root1.toNat (s.func fr.p.fn).root2.toNat
      (fr.read z (fr.leader z) z.sa true false).toNat
  runSlot { slot := z, hi := slotHigh (encode (.tlbiProbe z)), form := formTlbiRange, need := .supervisor, once := true } s
    fun fr alive s =>
      if (fr.active z alive).isEmpty then .done s [] [] []
      else
        let off := (fr.read32 z (fr.leader z) z.sb).toNat
        if off % 16 != 0 then .done s [] [] (fr.allTrap .align (spaceTval 1 0 off))
        else if fr.p.kernel.scratch < off + 16 then .done s [] [] (fr.allTrap .perm (spaceTval 1 0 off))
        else
          match (tables fr s).2 with
          | .error ⟨_, _, 6, _, _⟩ => .stop .unbacked
          | r => .done ((s.onPanel fr.p.id fun p => { p with scratch := p.scratch.write off 16 (probeRecord r) }).heal (.scratch fr.p.id) off 16) [] [] []

end Sys2Proof.Machine
end

