-- ==== Sys2Proof/Machine/MemCore.lean ====
section
/-!
DEFINITION. Sys2Proof/Machine/MemCore.lean: what the instructions of opcodes 0xA0 to 0xB0 share
(spec/11_memory_instructions.md R211 to R218, spec/10_memory_levels.md R195 to R201): addresses, the order of checks, the
place an access reaches, memory barrier objects (R230, R231) and completion objects.
-/
namespace Sys2Proof.Machine

/-! ## Addresses (R213, R229) -/

/-- SIZE in bytes (R43). -/
def sizeBytes : Size → Nat
  | .w8 => 1 | .w16 => 2 | .w32 => 4 | .w64 => 8 | .w128 => 16

/-- SIZE in registers (R214). -/
def sizeWords : Size → Nat
  | .w8 | .w16 | .w32 => 1 | .w64 => 2 | .w128 => 4

/-- The base operand of a space (R213). -/
def baseKind : Space → SrcKind
  | .global => .base
  | _ => .noLit

/-- The store datum or atomic operand of a size (R214). -/
def datumKind : Size → SrcKind
  | .w64 => .datum64
  | .w128 => .datum128
  | .w32 => .datum true
  | _ => .datum false

/-- A lane's address (R213); `w` is the width of the offset in LIT. -/
def Frame.addr (fr : Frame) (m : Mem) (w l : Nat) : Nat :=
  let off := sext m.slot.lit.toNat w
  if m.space = .global then wrap ((fr.read m.slot l m.slot.sa true false).toNat + off) 64
  else wrap ((fr.read32 m.slot l m.slot.sa).toNat + off) 32

/-- The operand-buffer offset of OBLD and OBST (R229). -/
def Frame.obOffset (fr : Frame) (m : Mem) (l : Nat) : Nat :=
  ((fr.read32 m.slot l m.slot.sa).toNat + bits m.slot.lit.toNat 18 0) % 2 ^ 32

/-- The handle of OBLD and OBST, LIT[31:28] (R229). -/
def obHandle (m : Mem) : Nat := bits m.slot.lit.toNat 31 28

/-! ## What an access reaches -/

/-- The bytes a lane's access reaches, or what stops it. -/
inductive Reach where
  | phys (va : Dword) (pa : Nat) (mark : PageMark)
  | scratch (panel off : Nat)
  | opbuf (off : Nat)
  | firmware (pa : Nat)
  | trap (c : Cause) (v : Dword)
  | miss (va : Dword)
  | machineCheck
  | unbacked
deriving DecidableEq, Repr

/-- The scope code (R43). -/
def scopeCode : Scope → Nat
  | .skein => 0 | .panel => 1 | .cluster => 2 | .die => 3 | .tenant => 4 | .device => 5 | .system => 6

/-- vf.scopes does not permit the scope (R215, R398). -/
def Func.scopeDenied (f : Func) : Scope → Bool
  | .device => !f.scopes.getLsbD 0
  | .system => !f.scopes.getLsbD 1
  | _ => false

/-- The trap of a scope that vf.scopes denies (R54, R215). -/
def scopeTrap (sc : Scope) : Reach := .trap .scopepol (BitVec.ofNat 64 (scopeCode sc))

/-- The panel of the gang member that a cluster word names, when the word is legal for `n` bytes (R198); a tensor's pointer with bits above
[31:0] names none (R272, R273). -/
def State.member? (s : State) (p : Panel) (w n : Nat) : Option Panel :=
  match p.gang with
  | none => none
  | some g =>
    if decide (2 ^ 32 ≤ w) || bits w 31 29 != 0 || bits w 23 18 != 0 then none
    else
      match g.cores.findIdx? (· == bits w 28 24) with
      | none => none
      | some r =>
        match s.panel? (g.members.getD r 0) with
        | some q => if bits w 17 0 + n ≤ q.kernel.scratch then some q else none
        | none => none

/-- The bytes of a scratchpad address (R197, R198); the trap's tval follows R200. -/
def State.reachScratch (s : State) (p : Panel) (space : Space) (a n : Nat) : Reach :=
  if space = .cluster then
    match s.member? p a n with
    | some q => .scratch q.id (bits a 17 0)
    | none => .trap .perm (spaceTval 2 0 a)
  else if a + n ≤ p.kernel.scratch then .scratch p.id a
  else .trap .perm (spaceTval 1 0 a)

/-- The first byte and size of the constants a mode reads through translation (R196, R199, R378). -/
def Panel.constants (p : Panel) : Mode → Dword × Nat
  | .user => (p.kernel.addr + p.kernel.constOff, p.kernel.constBytes)
  | _ => (p.image.addr + p.image.constOff, p.image.constBytes)

/-- The trap of a translation fault (R413). -/
def faultCause : AccessKind → Cause
  | .read => .tfld
  | .write => .tfst
  | .fetch => .tfif

/-- What a translated access reaches once translation is done: SCOPEPOL comes before PERM (R9), whose tval `perm` follows R200. -/
def reachPhys (lk : Look) (va perm : Dword) (kind : AccessKind) (denied : Bool) (sc : Scope) (inner : Nat → PageMark → Reach) : Reach :=
  match lk with
  | .tfault => .trap (faultCause kind) va
  | .miss | .declined => .miss va
  | .unbacked => .unbacked
  | .perm => if denied then scopeTrap sc else .trap .perm perm
  | .phys pa mark => if denied then scopeTrap sc else inner pa mark

/-- What a lane's access of `n` aligned bytes reaches: alignment, translation, SCOPEPOL, PERM in that order (R9, R201,
R215, R217). (log entry 21: DEDUCED) -/
def State.reach (s : State) (fr : Frame) (space : Space) (sc : Scope) (kind : AccessKind) (a n : Nat) : Reach :=
  let denied := (s.func fr.p.fn).scopeDenied sc
  match space with
  | .global =>
    let va := BitVec.ofNat 64 a
    if a % n != 0 then .trap .align va
    else reachPhys (s.look fr.p (some fr.kx) va kind fr.mode) va va kind denied sc fun pa mark => .phys va pa mark
  | .constants =>
    if a % n != 0 then .trap .align (spaceTval 3 0 a)
    else if fr.mode = .hypervisor then
      let o := s.hypConst + a
      if o + n ≤ firmwareSize then .firmware (firmwareBase (dieOf fr.p.core) + o) else .machineCheck
    else
      let c := fr.p.constants fr.mode
      let va := c.1 + BitVec.ofNat 64 a
      reachPhys (s.look fr.p (some fr.kx) va kind fr.mode) va (spaceTval 3 0 a) kind denied sc fun pa mark =>
        if a + n ≤ c.2 then .phys va pa { mark with const := true } else .trap .perm (spaceTval 3 0 a)
  | sp =>
    if a % n != 0 then .trap .align (spaceTval (if sp = .cluster then 2 else 1) 0 a)
    else if denied then scopeTrap sc else s.reachScratch fr.p sp a n

/-- What an operand-buffer access reaches (R207, R229). -/
def Frame.reachOpbuf (fr : Frame) (h o n : Nat) : Reach :=
  let r := fr.p.record h
  if o % n != 0 then .trap .align (spaceTval 4 h o)
  else if resvValid r && decide (o + n ≤ resvLen r) then .opbuf (resvBase r + o)
  else .trap .perm (spaceTval 4 h o)

/-- The trap a lane takes. -/
def Reach.trap? : Reach → Option (Cause × Dword)
  | .trap c v => some (c, v)
  | _ => none

/-- The access is made. -/
def Reach.made : Reach → Bool
  | .phys .. | .scratch .. | .opbuf .. | .firmware .. => true
  | _ => false

/-! ## One memory event -/

/-- A byte of a record that a running traversal thread owns (R340). -/
def State.rayOwns (s : State) (panel a : Nat) : Bool := s.rays.any fun t => t.panel == panel && t.record == a / 64

/-- A panel as software and the other engines read it: the bytes of the records that running threads own are free (R340). (log entry 38:
DESIGN CHOICE) -/
def State.seen (s : State) (p : Panel) : Panel :=
  { p with scratch := (s.rays.filter fun t => t.panel == p.id).foldl (fun m t =>
      m.put (64 * t.record) ((List.range 64).map fun i => Config.recordByte s.free (2 ^ 18 * p.id + 64 * t.record + i))) p.scratch }

/-- The free values that a read of a scratchpad takes are used up. -/
def State.tookRecords (s : State) : State := { s with free := s.free + s.rays.length }

/-- `n` bytes of a panel's scratchpad as software reads them (R340). -/
def State.readScratch (s : State) (panel off n : Nat) : Nat × State :=
  match s.panel? panel with
  | none => (0, s)
  | some p =>
    if (List.range n).any fun i => s.rayOwns panel (off + i) then ((s.seen p).scratch.read off n, s.tookRecords)
    else (p.scratch.read off n, s)

/-- What a read of a reached place waits for. -/
def State.readyReach (s : State) (fr : Frame) (bypass : Bool) (n : Nat) : Reach → State
  | .phys _ pa _ => s.loadReady fr.p.core pa n bypass
  | _ => s

/-- The value of a read of a reached place (R202, R220): global memory through the caches, the scratchpads and the operand buffer at
once. -/
def State.readReach (s : State) (fr : Frame) (bypass : Bool) (n : Nat) : Reach → Nat
  | .phys _ pa _ => s.loadValue fr.p.core fr.p.fn pa n bypass
  | .firmware pa => s.mem.read pa n
  | .scratch q off => (s.readScratch q off n).1
  | .opbuf off => ((s.panel? fr.p.id).map fun p => p.opbuf.read off n).getD 0
  | _ => 0

/-- What a read of a reached place leaves: filled caches, and used free values (R202, R340). -/
def State.afterReach (s : State) (fr : Frame) (bypass : Bool) (n : Nat) : Reach → State
  | .phys _ pa mark => s.loadFill fr.p.core fr.p.fn pa bypass mark
  | .scratch q off => (s.readScratch q off n).2
  | _ => s

/-- What POISON names for a read of a reached place; only global memory has virtual addresses (R54, R219, R479). -/
def State.readPoison (s : State) (fr : Frame) (bypass : Bool) (n : Nat) : Reach → Option Dword
  | .phys va pa _ => s.loadPoison fr.p.core fr.p.fn pa n bypass va
  | .firmware pa => if s.poisoned .memory pa n then some (BitVec.allOnes 64) else none
  | .scratch q off => if s.poisoned (.scratch q) off n then some (BitVec.allOnes 64) else none
  | .opbuf off => if s.poisoned (.opbuf fr.p.id) off n then some (BitVec.allOnes 64) else none
  | _ => none

/-- A write of `n` bytes of a value to a reached place (R203, R220). -/
def State.writeReach (s : State) (fr : Frame) (bypass : Bool) (n x : Nat) : Reach → State
  | .phys va pa mark =>
    let (id, s1) := s.fresh
    s1.issueAccess ⟨id, fr.p.id, fr.kx, fr.p.core, fr.p.fn, va, mark.page, pa, .store (leBytes x n) bypass⟩
  | .scratch q off => (s.onPanel q fun p => { p with scratch := p.scratch.write off n x }).heal (.scratch q) off n
  | .opbuf off => (s.onPanel fr.p.id fun p => { p with opbuf := p.opbuf.write off n x }).heal (.opbuf fr.p.id) off n
  | _ => s

/-- The lanes through which an instruction acts: the leader alone for one that acts once, the active lanes otherwise
(R137, R216). -/
def Frame.actors (fr : Frame) (z : Slot) (once : Bool) (alive : List Nat) : List Nat :=
  let on := fr.active z alive
  if on.isEmpty then [] else if once then [fr.leader z] else on

/-- The traps of one memory event: each lane's own, or the leader's for the whole issue set (R139, R216). -/
def reachTraps (fr : Frame) (once : Bool) (rs : List (Nat × Reach)) : List Trap :=
  rs.flatMap fun x =>
    match x.2.trap? with
    | some (c, v) => if once then fr.allTrap c v else [fr.trapAt x.1 c v]
    | none => []

/-- The panel stops with MCHK, source 6: a hypervisor read outside the firmware range (R408). -/
def State.firmwareCheck (s : State) (fr : Frame) (ls : List Nat) : State :=
  s.onPanel fr.p.id fun p =>
    p.startHalt fr.cycle fr.kx .mchk (laneMask ls) (mchkTval 0 0 (dieOf fr.p.core) 6)

/-- One event of a memory instruction (R217, R218). Its operands are read when it issues, also when its translations take longer (R220). `reach` says what each acting lane reaches; `waits` whether the lanes
that go must still wait (R223); `act` performs the accesses of the lanes that go, in ascending lane order. -/
def runMem (i : Instr) (m : Mem) (form : Form) (once : Bool) (kind : AccessKind) (reach : Frame → State → Nat → Reach)
    (waits : Frame → State → Bool) (act : Frame → List (Nat × Reach) → State → State) (s : State) : Out :=
  runSlot { slot := m.slot, hi := slotHigh (encode i), form := form, once := once } s fun fr alive s =>
    let rs := (fr.actors m.slot once alive).map fun l => (l, reach fr s l)
    if rs.any fun x => x.2 == .unbacked then .stop .unbacked
    else
      let missing := rs.filterMap fun (x : Nat × Reach) => match x.2 with
        | .miss va => some (x.1, va)
        | _ => none
      if !missing.isEmpty then
        .wait ((missing.foldl (fun s x => s.startWalk fr.p (some fr.kx) (laneBit x.1) x.2 kind fr.mode) s).onPanel fr.p.id fun p =>
          p.onSkein fr.kx fun k => k.keepReads i)
      else
        let gos := rs.filter fun x => x.2.made
        if !gos.isEmpty && waits fr s then .wait s
        else
          let s1 := (act fr gos s).endWalks fr.p.id (some fr.kx)
          let bad := (rs.filter fun x => x.2 == .machineCheck).map fun x => x.1
          let s2 := if bad.isEmpty then s1 else s1.firmwareCheck fr bad
          .done s2 [] [] (reachTraps fr once rs)

/-- An outstanding write of a memory instruction is added, when it has targets (R21). -/
def State.addWrite (s : State) (fr : Frame) (w : VarWrite) : State :=
  if w.targets.isEmpty then s else s.onPanel fr.p.id fun p => p.onSkein fr.kx fun k => k.addOut w

/-- An outstanding write with nothing known yet. -/
def VarWrite.blank : VarWrite := ⟨0, [], [], [], 0, false, false, [], [], []⟩

/-! ## Memory barrier objects (R230, R231) -/

/-- EXP. -/
def objExp (o : Nat) : Nat := bits o 23 0
/-- PEND. -/
def objPend (o : Nat) : Nat := bits o 47 24
/-- PHASE. -/
def objPhase (o : Nat) : Nat := bits o 63 48
/-- FLT. -/
def objFlt (o : Nat) : Bool := o.testBit 64
/-- FADDR. -/
def objFaddr (o : Nat) : Dword := BitVec.ofNat 64 (bits o 127 71)

/-- An object of its fields; `rest` are the reserved bits in place. -/
def objMake (exp pend phase flt faddr rest : Nat) : Nat :=
  exp + pend * 2 ^ 24 + phase * 2 ^ 48 + flt * 2 ^ 64 + rest * 2 ^ 65 + faddr * 2 ^ 71

/-- The counting loop of R231 in closed form, for EXP = `e` > 0: `n` arrivals against PEND = `d`. -/
def arriveCount (e d phase n : Nat) : Nat × Nat :=
  if n = 0 then (d, phase)
  else if n < d then (d - n, phase)
  else (e - (n - d) % e, (phase + 1 + (n - d) / e) % 2 ^ 16)

/-- `arrive` of R231 on an object's 128 bits. -/
def arriveObj (o n : Nat) (faulted : Bool) (va : Dword) : Nat :=
  if objExp o = 0 then o
  else
    let first := faulted && !objFlt o
    let r := arriveCount (objExp o) (objPend o) (objPhase o) n
    objMake (objExp o) r.1 r.2 (if first || objFlt o then 1 else 0) (if first then va.toNat % 2 ^ 57 else bits o 127 71)
      (bits o 70 65)

/-- The object at a panel's scratchpad offset. -/
def State.obj (s : State) (panel off : Nat) : Nat := (s.readScratch panel off 16).1

/-- The object at a panel's scratchpad offset takes a value made from the old one; its bytes keep their markers (R479). -/
def State.putObj (s : State) (panel off x : Nat) : State := s.onPanel panel fun p => { p with scratch := p.scratch.write off 16 x }

/-- The object at a panel's scratchpad offset takes a new value. -/
def State.setObj (s : State) (panel off x : Nat) : State := (s.putObj panel off x).heal (.scratch panel) off 16

/-- Some byte of an object is marked (R479). -/
def State.sickObj (s : State) (panel off : Nat) : Bool := s.poisoned (.scratch panel) off 16

/-- The saved panel with a number, its function and context address. -/
def State.saved? (s : State) (panel : Nat) : Option (Nat × SavedPanel) :=
  ((List.range s.fns.length).filterMap fun f =>
    ((s.func f).saved.find? fun q => q.id == panel).map fun q => (f, q)).head?

/-- An arrival reaches an object: a resident panel's at once; a saved panel's is held until it resumes (R429); with no such
panel it is discarded (R429, R443). -/
def State.arriveAt (s : State) (panel off n : Nat) (faulted : Bool) (va : Dword) : State :=
  match s.panel? panel with
  | some _ => s.putObj panel off (arriveObj (s.obj panel off) n faulted va)
  | none =>
    match s.saved? panel with
    | none => s
    | some (f, _) => s.onFunc f fun fn =>
        { fn with saved := fn.saved.map fun q => if q.id = panel then { q with held := q.held ++ [.arrive off faulted va] } else q }

/-- Where an engine's completion object lies; `none` for MBS 0. -/
abbrev ObjRef := Option (Nat × Nat)

/-- An engine operation completes or faults to its object (R231). -/
def State.arriveRef (s : State) (o : ObjRef) (faulted : Bool) (va : Dword) : State :=
  match o with
  | none => s
  | some (panel, off) => s.arriveAt panel off 1 faulted va

/-- Where the completion object of an engine instruction lies, or the trap of its check: 16-byte aligned, then in bounds
(R197, R198, R277). -/
def State.objRef (s : State) (fr : Frame) (mbs : ObjSpace) (lit : Word) : Except (Cause × Dword) ObjRef :=
  let a := lit.toNat
  let go (sp : Space) (code : Nat) : Except (Cause × Dword) ObjRef :=
    if a % 16 != 0 then .error (.align, spaceTval code 0 a)
    else match s.reachScratch fr.p sp a 16 with
      | .scratch q off => .ok (some (q, off))
      | .trap c v => .error (c, v)
      | _ => .error (.perm, spaceTval code 0 a)
  match mbs with
  | .none => .ok none
  | .panel => go .panel 1
  | .cluster => go .cluster 2

end Sys2Proof.Machine
end

