-- ==== Sys2Proof/Machine/Formats.lean ====
section
/-!
DEFINITION. Sys2Proof/Machine/Formats.lean: narrow and block-scaled elements, quantisation, fixed-rate compression and
tensor layout records (spec/14_block_formats.md R259 to R275).
-/
namespace Sys2Proof.Machine

/-! ## Elements (R209, R259 to R265) -/

/-- Bits of an element of a format code (R274). -/
def fmtBits (f : Nat) : Nat := if f = 1 ∨ f = 9 then 32 else if f = 2 ∨ f = 3 then 16 else if f = 8 ∨ f = 12 ∨ f = 13 then 4 else 8

/-- A block format (R264). -/
def fmtBlock (f : Nat) : Bool := decide (10 ≤ f) && decide (f ≤ 13)

/-- The float format of a code's elements. -/
def fmtFloat (f : Nat) : Option Fmt :=
  match f with
  | 1 => some fmt32 | 2 => some fmt16 | 3 => some fmtB16 | 4 => some fmtE4M3 | 5 => some fmtE5M2
  | 10 => some fmtE4M3 | 11 => some fmtE5M2 | 12 => some fmtE2M1 | 13 => some fmtE2M1
  | _ => none

/-- Sign and width of an integer code's elements (R261). -/
def fmtInt (f : Nat) : Option (Bool × Nat) :=
  match f with
  | 6 => some (true, 8) | 7 => some (false, 8) | 8 => some (true, 4) | 9 => some (true, 32)
  | _ => none

/-- An integer as an exact value. -/
def intNum (v : Int) : Num := if v = 0 then .zero false else .fin (decide (v < 0)) v.natAbs 0

/-- The integer of an element's bits. -/
def intCode (sgn : Bool) (n x : Nat) : Int := if sgn then sext x n else (x % 2 ^ n : Nat)

/-- The value of an element before any scale; `extra` is the block's extra byte (R262, R265). -/
def elemNum (f x extra : Nat) : Num :=
  if f = 13 ∧ x = 8 then decodeFloat fmtE4M3 extra
  else match fmtFloat f, fmtInt f with
    | some g, _ => decodeFloat g x
    | none, some (sgn, n) => intNum (intCode sgn n x)
    | none, none => intNum x

/-- A value times `2^(c - 127)`; scale 0xFF makes a NaN of it (R263, R264). A signalling NaN stays one (R82). -/
def scaleNum (c : Nat) (x : Num) : Num :=
  match x with
  | .nan s => .nan s
  | .fin s m e => if c = 255 then .nan false else .fin s m (e + (c : Int) - 127)
  | y => if c = 255 then .nan false else y

/-- The exact value of an element with its scale and extra byte (R264, R265). -/
def blockNum (f x scale extra : Nat) : Num := if fmtBlock f then scaleNum scale (elemNum f x extra) else elemNum f x extra

/-- A value rounded into a format (R77 to R79, R85); NaNs become the canonical NaN, and a signalling one raises NV. -/
def roundNum (g : Fmt) (c : RoundCfg) (sat : Bool) (x : Num) : FRes :=
  match x with
  | .nan s => nanRes g s
  | .inf neg =>
    if sat then (g.largest neg, 0)
    else match g.top with
      | .e4m3 => (g.nan, flagNV)
      | _ => (g.inf neg, 0)
  | .zero neg => (g.zero neg, 0)
  | .fin neg m e => roundDyadic g c sat (if neg then -(m : Int) else m) e

/-! ## Quantisation (R267 to R269) -/

/-- A finite value as mantissa and exponent; zero otherwise. -/
def Num.dyadic : Num → Int × Int
  | .fin neg m e => (if neg then -(m : Int) else m, e)
  | _ => (0, 0)

/-- The magnitude of the first value is above the second's. -/
def magLt (a b : Int × Int) : Bool :=
  if b.1 = 0 then false else if a.1 = 0 then true else scaledLt a.1.natAbs a.2 b.1.natAbs b.2

/-- The position and value of the largest magnitude, the lowest position on ties. -/
def largestAt (xs : List Num) : Nat × (Int × Int) :=
  (xs.zipIdx.map fun (x : Num × Nat) => (x.2, x.1.dyadic)).foldl (fun acc x => if magLt acc.2 x.2 then x else acc)
    (0, (xs.headD (.zero false)).dyadic)

/-- A quantised block: its scale, extra byte, element codes and flags. -/
structure Quant where
  scale : Nat
  extra : Nat
  codes : List Nat
  flags : Word
deriving DecidableEq, Repr

/-- The element format's greatest exponent in R267 step 2. -/
def quantEmax (f : Nat) : Int := if f = 10 then 8 else if f = 11 then 15 else 2

/-- A value in units of `2^e`, for an `e` at or below its exponent. -/
def inUnits (e : Int) (x : Int × Int) : Int := x.1 * 2 ^ (x.2 - e).toNat

/-- The code of F4X whose value lies nearest a scaled source, and whether it is exact (R269). -/
def f4xCode (extra : Nat) (x : Int × Int) : Nat × Bool :=
  let e := min x.2 (-9)
  let t := inUnits e x
  let cand (code : Nat) : Nat × Nat × Nat := (code, (t - inUnits e (elemNum 13 code extra).dyadic).natAbs, if code = 8 then 2 else code % 2)
  let all := ((List.range 16).filter fun c => c != 8).map cand ++ [cand 8]
  let best := all.foldl (fun (acc : Nat × Nat × Nat) y =>
    if y.2.1 < acc.2.1 ∨ (y.2.1 = acc.2.1 ∧ y.2.2 < acc.2.2) then y else acc) (cand 0)
  (best.1, best.2.1 == 0)

/-- Quantising a block (R267 to R269); `cfg k` is how element `k` rounds. -/
def quantise (f : Nat) (cfg : Nat → RoundCfg) (xs : List Num) : Quant :=
  let bad := xs.any fun x => match x with
    | .nan _ | .inf _ => true
    | _ => false
  let big := largestAt xs
  if bad then ⟨255, 0, xs.map fun _ => 0, flagNV⟩
  else if big.2.1 = 0 then ⟨0, 0, xs.map fun _ => 0, 0⟩
  else
    let d := floorLog2 big.2.1.natAbs 1 + big.2.2 - quantEmax f
    let c := if d < -127 then 0 else (d + 127).toNat
    let under : Word := if d < -127 then flagSCALEUF else 0
    let scaled (x : Num) : Int × Int := (x.dyadic.1, x.dyadic.2 - ((c : Int) - 127))
    if f = 13 then
      let p := scaled (xs.getD big.1 (.zero false))
      let extra := (roundDyadic fmtE4M3 ⟨.rne, false, 24, 0⟩ false p.1 p.2).1
      let rs := xs.map fun x => if x.dyadic.1 = 0 then (0, true) else f4xCode extra (scaled x)
      ⟨c, extra, rs.map fun r => r.1, under ||| (if rs.any fun r => !r.2 then flagNX else 0)⟩
    else
      let g := (fmtFloat f).getD fmtE4M3
      let rs := xs.zipIdx.map fun (x : Num × Nat) =>
        match x.1 with
        | .fin .. => let y := scaled x.1; roundDyadic g (cfg x.2) true y.1 y.2
        | .zero neg => (g.zero neg, 0)
        | _ => (0, 0)
      ⟨c, 0, rs.map fun r => r.1, under ||| (orFlags (rs.map fun r => r.2) &&& ~~~flagOF)⟩

/-! ## Fixed-rate compression (R271, R272) -/

/-- Bytes of a slot. -/
def slotBytes (cmp : Nat) : Nat := if cmp = 1 then 32 else 16
/-- Nonzero bytes a slot holds. -/
def slotRoom (cmp : Nat) : Nat := slotBytes cmp - 8

/-- The 64 bytes of a slot that stands in place; bytes ranked beyond the slot's room expand as zero (R273). -/
def expandSlot (cmp : Nat) (slot : List Byte) : List Byte :=
  let map := leNat (slot.take 8)
  ((List.range 64).foldl (fun (acc : List Byte × Nat) i =>
    if map.testBit i then
      ((if acc.2 < slotRoom cmp then slot.getD (8 + acc.2) 0 else 0) :: acc.1, acc.2 + 1)
    else (0 :: acc.1, acc.2)) ([], 0)).1.reverse

/-- A 64-byte block in place, or `none` when it must be escaped. -/
def compressBlock (cmp : Nat) (bs : List Byte) : Option (List Byte) :=
  let full := bs.filter fun b => b != 0
  if slotRoom cmp < full.length then none
  else
    let map := (List.range 64).foldl (fun n i => if bs.getD i 0 != 0 then n + 2 ^ i else n) 0
    some (leBytes map 8 ++ full ++ List.replicate (slotRoom cmp - full.length) 0)

/-! ## Reading a region of the operand buffer (R266, R273, R295) -/

/-- Byte `n` of a region's element array, expanded when it is compressed. -/
def regionByte (buf : Bytes) (r : BitVec 128) (n : Nat) : Byte :=
  if resvCmp r = 0 then buf.get (resvBase r + n)
  else
    let j := n / 64
    let slot := buf.list (resvBase r + slotBytes (resvCmp r) * j) (slotBytes (resvCmp r))
    if (buf.get (resvBase r + resvMapoff r + j / 8)).getLsbD (j % 8) then
      let ptr := leNat (slot.take 8)
      if ptr % 64 = 0 ∧ ptr + 64 ≤ resvLen r then buf.get (resvBase r + ptr + n % 64) else 0
    else (expandSlot (resvCmp r) slot).getD (n % 64) 0

/-- The bits of element `e` of an array of bytes (R261, R266). -/
def elemBits (byte : Nat → Byte) (f e : Nat) : Nat :=
  match fmtBits f with
  | 4 => (byte (e / 2)).toNat / 16 ^ (e % 2) % 16
  | n => leNat ((List.range (n / 8)).map fun i => byte (e * (n / 8) + i))

/-- A byte of a region's scale or extra array; beyond the region's end it reads as 0xFF (R266). -/
def regionSide (buf : Bytes) (r : BitVec 128) (off j : Nat) : Nat :=
  if off + j < resvLen r then (buf.get (resvBase r + off + j)).toNat else 255

/-- The unscaled value of element `e` of a region (R300). -/
def regionElem (buf : Bytes) (r : BitVec 128) (e : Nat) : Num :=
  elemNum (resvFmt r) (elemBits (regionByte buf r) (resvFmt r) e) (if resvFmt r = 13 then regionSide buf r (resvXoff r) (e / 32) else 0)

/-- The scale code of the block that holds element `e` of a region. -/
def regionScale (buf : Bytes) (r : BitVec 128) (e : Nat) : Nat := regionSide buf r (resvScoff r) (e / 32)

/-! ## Tensor layout records (R274, R275) -/

/-- The dense index of an element. -/
def Tensor.index (t : Tensor) (r c : Nat) : Nat :=
  match t.layout with
  | 0 => r * t.cols + c
  | 1 => c * t.rows + r
  | _ => 2048 * (r / 64 * (t.cols / 32) + c / 32) + 32 * (r % 64) + c % 32

/-- The row and column of a dense index. -/
def Tensor.place (t : Tensor) (e : Nat) : Nat × Nat :=
  match t.layout with
  | 0 => (e / t.cols, e % t.cols)
  | 1 => (e % t.rows, e / t.rows)
  | _ =>
    let q := e / 2048
    (q / (t.cols / 32) * 64 + e % 2048 / 32, q % (t.cols / 32) * 32 + e % 32)

/-- Bytes of a line: a row, a column, or the whole tiled tensor. -/
def Tensor.line (t : Tensor) : Nat :=
  match t.layout with
  | 0 => t.cols * fmtBits t.fmt / 8
  | 1 => t.rows * fmtBits t.fmt / 8
  | _ => t.rows * t.cols * fmtBits t.fmt / 8

/-- Bytes of the element array without gaps. -/
def Tensor.bytes (t : Tensor) : Nat := t.rows * t.cols * fmtBits t.fmt / 8

/-- Lines of the element array. -/
def Tensor.lines (t : Tensor) : Nat :=
  match t.layout with
  | 0 => t.rows
  | 1 => t.cols
  | _ => 1

/-- The address of byte `n` of an element array that is not compressed. -/
def Tensor.byteAddr (t : Tensor) (n : Nat) : Nat := t.addr + n / t.line * t.stride + n % t.line

/-- How many of the next `n` bytes from byte `from_` of an element array that is not compressed lie in one aligned 32-byte sector with the
first (R206). -/
def Tensor.sectorRun (t : Tensor) (from_ n : Nat) : Nat :=
  ((List.range (min 32 n)).takeWhile fun i => t.byteAddr (from_ + i) / 32 == t.byteAddr from_ / 32).length

/-- Elements in all. -/
def Tensor.count (t : Tensor) : Nat := t.rows * t.cols

/-- Blocks of 32 elements of a block format. -/
def Tensor.blocks (t : Tensor) : Nat := if fmtBlock t.fmt then t.count / 32 else 0

/-- Source blocks of 64 bytes of a compressed tensor. -/
def Tensor.slots (t : Tensor) : Nat := if t.cmp = 0 then 0 else t.bytes / 64

/-- The record in 64 bytes, before any check. -/
def parseTensor (b : List Byte) : Tensor :=
  let f (off n : Nat) : Nat := leNat ((b.drop off).take n)
  let w := f 57 1
  { site := match w / 32 with
      | 0 => .global
      | 1 => .panel
      | _ => .cluster
    addr := f 0 8, sc := f 8 8, xt := f 16 8, map := f 24 8, ovf := f 32 8, rows := f 40 4, cols := f 44 4, stride := f 48 4
    ovfBytes := f 52 4, fmt := f 56 1, cmp := w / 8 % 4, layout := w % 8 }

/-- The record is well formed (R274, R275). -/
def tensorOk (b : List Byte) : Bool :=
  let t := parseTensor b
  let w := leNat ((b.drop 57).take 1)
  let n := fmtBits t.fmt
  let small (a : Nat) : Bool := w / 32 == 0 || decide (a < 2 ^ 32)
  decide (w / 32 ≤ 2) && t.cmp != 3 && decide (t.layout ≤ 2) && decide (t.fmt ≤ 13)
    && leNat ((b.drop 58).take 6) == 0
    && decide (1 ≤ t.rows) && decide (t.rows ≤ 2 ^ 24) && decide (1 ≤ t.cols) && decide (t.cols ≤ 2 ^ 24)
    && small t.addr && small t.sc && small t.xt && small t.map && small t.ovf
    && (fmtBlock t.fmt || t.sc == 0) && (t.fmt == 13 || t.xt == 0)
    && (t.cmp != 0 || (t.map == 0 && t.ovf == 0 && t.ovfBytes == 0)) && t.ovf % 64 == 0 && t.ovfBytes % 64 == 0
    && (if t.layout = 1 then t.rows * n % 8 == 0 else t.cols * n % 8 == 0)
    && (!fmtBlock t.fmt || (if t.layout = 0 then t.cols % 32 == 0 else if t.layout = 1 then t.rows % 32 == 0 else true))
    && (t.layout != 2 || (t.rows % 64 == 0 && t.cols % 32 == 0 && t.stride == 0))
    && (t.cmp == 0 || ((t.layout == 2 || t.stride == t.line) && t.bytes % 64 == 0))

end Sys2Proof.Machine
end

