-- ==== Sys2Proof/Machine/Engine.lean ====
section
/-!
DEFINITION. Sys2Proof/Machine/Engine.lean: how the engines reach memory (R206, R246, R281, R412, R413), and the checks that
their instructions share (R279). An engine reads as its core reads, through the core's copies, and fills none (log entry 5: DESIGN CHOICE).
-/
namespace Sys2Proof.Machine

/-- Why an engine's access gives no byte: a fault with its value, a translation to wait for, one that firmware has declined
(R414), a table no memory backs. -/
inductive EngStop where
  | fault (v : Dword)
  | miss (va : Dword) (kind : AccessKind)
  | declined
  | unbacked
deriving DecidableEq, Repr

/-- What an engine of a panel gives. -/
abbrev Eng (α : Type) := Except EngStop α

/-- The bytes an engine's access reaches, in the mode of the lane that issued it (R412). (log entry 35: DEDUCED) -/
def State.engReach (s : State) (p : Panel) (mode : Mode) (site : Site) (kind : AccessKind) (a n : Nat) : Eng Reach :=
  let local_ (sp : Space) : Eng Reach :=
    match s.reachScratch p sp a n with
    | .trap _ v => .error (.fault v)
    | r => .ok r
  match site with
  | .global =>
    let va := BitVec.ofNat 64 a
    match s.look p none va kind mode with
    | .phys pa mark => .ok (.phys va pa mark)
    | .miss => .error (.miss va kind)
    | .declined => .error .declined
    | .unbacked => .error .unbacked
    | _ => .error (.fault va)
  | .firmware => .ok (.firmware a)
  | .panel => local_ .panel
  | .cluster => local_ .cluster
  | .opbuf => .ok (.opbuf a)

/-- `n` bytes of one sector that an engine of a panel reads. -/
def State.engRead (s : State) (p : Panel) (n : Nat) : Reach → Nat
  | .phys _ pa mark => (s.loadPhys p.core p.fn pa n false mark).1
  | .firmware pa => s.mem.read pa n
  | .scratch q off => (s.readScratch q off n).1
  | .opbuf off => ((s.panel? p.id).map fun p => p.opbuf.read off n).getD 0
  | _ => 0

/-- The place of a byte that an engine reaches. -/
def Reach.place : Reach → Option Place
  | .phys _ pa _ | .firmware pa => some (.memory pa)
  | .scratch q off => some (.scratch q off)
  | .opbuf off => some (.opbuf off)
  | _ => none

/-- Bytes of two sites may be the same bytes. -/
def Site.meets (a b : Site) : Bool :=
  a == b || ((a == .panel || a == .cluster) && (b == .panel || b == .cluster))

/-- One byte read by an engine. -/
def State.engByte (s : State) (p : Panel) (mode : Mode) (site : Site) (a : Nat) : Eng Byte := do
  let r ← s.engReach p mode site .read a 1
  pure (BitVec.ofNat 8 (s.engRead p 1 r))

/-- Bytes read by an engine. -/
def State.engBytes (s : State) (p : Panel) (mode : Mode) (site : Site) (a n : Nat) : Eng (List Byte) :=
  (List.range n).mapM fun i => s.engByte p mode site (a + i)

/-- Bytes of one sector that an engine writes at their home (R206, R281): the core's and the die's copies go, and the bytes carry no
marker (R479). -/
def State.engStore (s : State) (p : Panel) (bs : List Byte) : Reach → State
  | .phys _ pa _ =>
    ((s.setMem (s.mem.put pa bs) pa bs.length).dropCopy p.core (sectorOf pa)).dropCopy (diePlace (dieOf p.core)) (sectorOf pa)
  | .scratch q off => (s.onPanel q fun p => { p with scratch := p.scratch.put off bs }).heal (.scratch q) off bs.length
  | .opbuf off => (s.onPanel p.id fun p => { p with opbuf := p.opbuf.put off bs }).heal (.opbuf p.id) off bs.length
  | _ => s

/-- A byte that an engine of a panel reads is marked (R479). -/
def State.engBad (s : State) (p : Panel) : Reach → Bool
  | .phys _ pa _ => ((s.loadReady p.core pa 1 false).loadPoison p.core p.fn pa 1 false 0).isSome
  | .firmware pa => s.poisoned .memory pa 1
  | .scratch q off => s.poisoned (.scratch q) off 1
  | .opbuf off => s.poisoned (.opbuf p.id) off 1
  | _ => false

/-- A byte of a site that an engine of a panel reads is marked. -/
def State.siteBad (s : State) (p : Panel) (mode : Mode) (site : Site) (a : Nat) : Bool :=
  match s.engReach p mode site .read a 1 with
  | .ok r => s.engBad p r
  | .error _ => false

/-- A byte that an engine has written takes a marker with its data (R479). -/
def State.engMark (s : State) (p : Panel) (bad : Bool) : Reach → State
  | .phys _ pa _ => s.mark .memory pa bad
  | .scratch q off => s.mark (.scratch q) off bad
  | .opbuf off => s.mark (.opbuf p.id) off bad
  | _ => s

/-- What POISON names for a byte of a site: the line of a virtual address, all ones where there is none (R54). -/
def sitePoison (site : Site) (a : Nat) : Dword := if site = .global then lineVa (BitVec.ofNat 64 a) else BitVec.allOnes 64

/-- Bytes written by an engine, one by one. -/
def State.engPut (s : State) (p : Panel) (mode : Mode) (site : Site) (a : Nat) (bs : List Byte) : Eng State :=
  bs.zipIdx.foldlM (fun s (x : Byte × Nat) => do
    let r ← s.engReach p mode site .write (a + x.2) 1
    pure (s.engStore p [x.1] r)) s

/-- Every access of the core's lanes that is on its way is performed: what precedes an engine operation in a lane happens
before it (R246). -/
def State.flushCore (s : State) (core : Nat) : State := s.performAll (s.inflight.filter fun a => a.core == core)

/-- An engine of a panel waits for a translation. -/
def State.engMiss (s : State) (p : Panel) (mode : Mode) (va : Dword) (kind : AccessKind) : State :=
  s.startWalk p none 0 va kind mode

/-! ## Checks at issue (R279) -/

/-- The space code of R200. -/
def siteCode : Site → Nat
  | .global | .firmware => 3
  | .panel => 1
  | .cluster => 2
  | .opbuf => 4

/-- The tval of an address of a tensor's site: the virtual address, or R200's encoding. -/
def siteTval (site : Site) (handle a : Nat) : Dword :=
  if site = .global then BitVec.ofNat 64 a else spaceTval (siteCode site) handle a

/-- The first byte of `rows` lines of `row` bytes, `stride` apart from `base`, that lies at or above `limit`. -/
def firstOut (base row rows stride limit : Nat) : Option Nat :=
  let i := if limit < base + row then 0 else if stride = 0 then rows else (limit - row - base) / stride + 1
  if i < rows then some (max (base + i * stride) limit) else none

/-- The trap of a range of a tensor's site that is not in bounds (R197, R198). Global ranges are checked as they are
used (R279). -/
def State.siteOut (s : State) (p : Panel) (site : Site) (base row rows stride : Nat) : Option (Cause × Dword) :=
  if row = 0 ∨ rows = 0 then none
  else match site with
  | .panel => (firstOut base row rows stride p.kernel.scratch).map fun a => (.perm, spaceTval 1 0 a)
  | .cluster =>
    match s.reachScratch p .cluster base 1 with
    | .scratch q off =>
      let limit := ((s.panel? q).map fun q => q.kernel.scratch).getD 0
      (firstOut off row rows stride limit).map fun a => (.perm, spaceTval 2 0 (base - off + a))
    | _ => some (.perm, spaceTval 2 0 base)
  | _ => none

/-- The PERM of a tensor layout record whose bytes are out of bounds (R279). -/
def recordOut (p : Panel) (handle : Nat) : Option (Cause × Dword) :=
  (firstOut (64 * handle) 64 1 0 p.kernel.scratch).map fun a => (.perm, spaceTval 1 0 a)

/-- The tensor layout record of a handle. -/
def recordAt (p : Panel) (handle : Nat) : Tensor := parseTensor (p.scratch.list (64 * handle) 64)

/-- A record that lies in bounds is not well formed (R275), or fails a condition of the instruction. -/
def recordBad (p : Panel) (handle : Nat) (ok : Tensor → Bool) : Bool :=
  (recordOut p handle).isNone && !(tensorOk (p.scratch.list (64 * handle) 64) && ok (recordAt p handle))

/-- Two records that lie in bounds fail a condition on both. -/
def recordsBad (p : Panel) (h g : Nat) (ok : Tensor → Tensor → Bool) : Bool :=
  (recordOut p h).isNone && (recordOut p g).isNone && !ok (recordAt p h) (recordAt p g)

/-- The arrays of a tensor that lie outside their space; overflow bytes are checked as they are used (R289). -/
def State.tensorOut (s : State) (p : Panel) (t : Tensor) : Option (Cause × Dword) :=
  let elems := if t.cmp = 0 then s.siteOut p t.site t.addr t.line t.lines t.stride
    else s.siteOut p t.site t.addr (t.slots * slotBytes t.cmp) 1 0
  elems <|> s.siteOut p t.site t.sc t.blocks 1 0
    <|> s.siteOut p t.site t.xt (if t.fmt = 13 then t.blocks else 0) 1 0
    <|> s.siteOut p t.site t.map ((t.slots + 7) / 8) 1 0

/-- Some of 64 bytes that lie in bounds in a panel's scratchpad is marked (R479). -/
def State.sickBlock (s : State) (p : Panel) (off : Nat) : Bool :=
  decide (off + 64 ≤ p.kernel.scratch) && s.poisoned (.scratch p.id) off 64

/-- An outcome of checks as the instruction's answer: the first failure traps every lane of the issue set (R279), or stops the panel for
poisoned data that lane `l` has read (R479). -/
def checked (fr : Frame) (l : Nat) (s : State) (r : Except (Cause × Dword) Done) : Done :=
  match r with
  | .ok d => d
  | .error (.poison, v) => .done (s.poisonHalt fr.p.id fr.kx (laneBit l) v) [] [] []
  | .error (c, v) => .done s [] [] (fr.allTrap c v)

/-- A check of a list that failed. -/
def failIf (b : Bool) (c : Cause) (v : Dword) : Except (Cause × Dword) Unit := if b then .error (c, v) else .ok ()

/-- A check that reads 64 bytes of a panel's scratchpad finds them marked (R479). -/
def State.sickCheck (s : State) (p : Panel) (off : Nat) : Except (Cause × Dword) Unit :=
  failIf (s.sickBlock p off) .poison (BitVec.allOnes 64)

/-- A check that found a trap. -/
def failSome (o : Option (Cause × Dword)) : Except (Cause × Dword) Unit :=
  match o with
  | some x => .error x
  | none => .ok ()

/-- The ALIGN of a completion object that LIT names (R279). -/
def objAlign (mbs : ObjSpace) (z : Slot) : Option (Cause × Dword) :=
  if mbs != .none && z.lit.toNat % 16 != 0 then some (.align, spaceTval (if mbs = .panel then 1 else 2) 0 z.lit.toNat) else none

/-- The tval of an ILLOPND that names SC. -/
def scTval (s : Slot) : Dword := opndTval 3 (srcCode s.sc)

end Sys2Proof.Machine
end

