-- ==== Sys2Proof/Machine/Coll.lean ====
section
/-!
DEFINITION. Sys2Proof/Machine/Coll.lean: COLL and the collective engine (spec/28_dies_devices_host.md R458 to R465). The device
holds one member of each group; what the other members supply comes with COLL_MATCH.
-/
namespace Sys2Proof.Machine

/-! ## The record (R461, R462) -/

/-- The bytes of one element. -/
def collBytes (t : Ty) : Nat := t.width / 8

/-- Every field of a collective record but STATUS is legal (R461). -/
def collRecordOk (m : CollMod) (b : List Byte) (field : Nat → Nat → Nat) : Bool :=
  b.length == 64 && field 0 8 % 16 == 0 && field 8 8 % 16 == 0 && field 16 8 % 64 == 0 && decide (1 ≤ field 24 4)
    && decide (field 24 4 ≤ 2 ^ 28) && field 24 4 * collBytes m.ety % 16 == 0 && (m.cop == .broadcast || field 28 2 == 0)
    && field 30 2 == 0 && field 40 24 == 0

/-- COLL (R460 to R462). -/
def execColl (z : Slot) (m : CollMod) (s : State) : Out :=
  runSlot { slot := z, hi := slotHigh (encode (.coll z m)), form := { a := .scalar }, once := true } s fun fr alive s =>
    if (fr.active z alive).isEmpty then .done s [] [] []
    else if 64 ≤ (s.colls.filter fun o => dieOf o.core == dieOf fr.p.core).length then .wait s
    else checked fr (fr.leader z) s (do
      let off := (fr.read32 z (fr.leader z) z.sa).toNat
      failIf (off % 64 != 0) .align (spaceTval 1 0 off)
      failSome ((firstOut off 64 1 0 fr.p.kernel.scratch).map fun a => (.perm, spaceTval 1 0 a))
      s.sickCheck fr.p off
      let b := (s.seen fr.p).scratch.list off 64
      let field (o n : Nat) : Nat := leNat ((b.drop o).take n)
      failIf (!collRecordOk m b field) .illopnd (saTval z)
      let o ← s.objRef fr m.mbs z.lit
      failIf ((s.func fr.p.fn).scopeDenied .system) .scopepol 6
      let (id, s1) := s.tookRecords.fresh
      let op : CollOp :=
        { id := id, panel := fr.p.id, skein := fr.kx, core := fr.p.core, fn := fr.p.fn, mode := fr.mode, cop := m.cop, rop := m.rop
          ety := m.ety, send := field 0 8, recv := field 8 8, group := field 16 8, count := field 24 4, root := field 28 2
          tag := field 32 4, record := off, obj := o, desc := none, out := none, marks := [], ended := none }
      pure (.done { s1 with colls := s1.colls ++ [op] } [] [] []))

/-! ## The engine's accesses -/

/-- The physical address the engine reaches for an operation, in the mode of the lane that issued it (R412). -/
def State.collReach (s : State) (o : CollOp) (kind : AccessKind) (a : Nat) : Eng Nat :=
  let va := BitVec.ofNat 64 a
  match s.lookAt o.panel o.fn o.core none va kind o.mode with
  | .phys pa _ => .ok pa
  | .miss => .error (.miss va kind)
  | .unbacked => .error .unbacked
  | .declined => .error .declined
  | _ => .error (.fault va)

/-- Bytes the engine reads at their homes (R471). -/
def State.collRead (s : State) (o : CollOp) (a n : Nat) : Eng (List Byte) :=
  (List.range n).mapM fun i => do
    let pa ← s.collReach o .read (a + i)
    pure (s.mem.get pa)

/-- The marked bytes among those the engine reads, counted from the first (R479). -/
def State.collBad (s : State) (o : CollOp) (a n : Nat) : List Nat :=
  if s.bad.isEmpty then []
  else (List.range n).filter fun i =>
    match s.collReach o .read (a + i) with
    | .ok pa => s.poisoned .memory pa 1
    | .error _ => false

/-- The panel of an operation stops for a marked byte, when it has not been saved (R479). -/
def State.collSick (s : State) (o : CollOp) (a : Nat) : State := s.poisonStop o.panel o.skein 0 (lineVa (BitVec.ofNat 64 a))

/-- An operation changed by number. -/
def State.onColl (s : State) (id : Nat) (f : CollOp → CollOp) : State :=
  { s with colls := s.colls.map fun o => if o.id = id then f o else o }

/-- What the engine does when an access gives no byte: it waits for a walk, or ends with STATUS 1 (R464), or with 3 where firmware has
declined the page and the panel stops. (log entry 43: DEDUCED) -/
def State.collStop (s : State) (o : CollOp) : EngStop → Out
  | .unbacked => .fault .unbacked
  | .miss va k => .next (s.startWalkAt o.panel o.fn o.core none 0 va k o.mode)
  | .declined => .next ((s.endWalks o.panel none).onColl o.id fun x => { x with ended := some (3, BitVec.ofNat 64 o.group) })
  | .fault v => .next ((s.endWalks o.panel none).onColl o.id fun x => { x with ended := some (1, v) })

/-! ## Descriptors and matching (R459, R463, R464) -/

/-- A group descriptor of the issuing function on this device, when it is valid (R459). -/
def parseGroup (device fn : Nat) (b members : List Byte) : Option CollGroup :=
  let field (o n : Nat) : Nat := leNat ((b.drop o).take n)
  let P := field 6 2
  let r := field 8 2
  let member (i : Nat) : Nat := leNat ((members.drop (8 * i)).take 8)
  let devices := (List.range P).map fun i => member i % 2 ^ 16
  if field 0 4 = 0x50524750 ∧ field 4 2 = 1 ∧ 1 ≤ P ∧ P ≤ 1024 ∧ r < P ∧ field 10 2 = 0 ∧ field 16 48 = 0
    ∧ (List.range P).all (fun i => decide (member i < 2 ^ 23)) ∧ distinct devices ∧ member r = device + fn * 2 ^ 16 then
    some ⟨field 12 4, P, r, devices⟩
  else none

/-- The descriptor as memory holds it: `none` when it is not valid. -/
def State.readGroup (s : State) (o : CollOp) : Eng (Option CollGroup) := do
  let b ← s.collRead o o.group 64
  let P := leNat ((b.drop 6).take 2)
  let ms ← if 1024 < P then pure [] else s.collRead o (o.group + 64) (8 * P)
  pure (parseGroup s.device o.fn b ms)

/-- The bytes a member's SEND holds, for P members and a rank (R463). -/
def CollOp.sendBytes (o : CollOp) (P rank : Nat) : Nat :=
  let e := o.count * collBytes o.ety
  match o.cop with
  | .allReduce | .allGather => e
  | .reduceScatter => P * e
  | .broadcast => if rank = o.root then e else 0

/-- Two values of an element combined (R463). -/
def collCombine (rop : Rop) (t : Ty) (x y : Nat) : Nat :=
  let pick (lt : Bool) : Nat := if lt then x else y
  let less : Bool := if t.signed then decide (sext x 32 ≤ sext y 32) else decide (x ≤ y)
  if t.isFloat then
    match rop with
    | .add => (fAdd (fmtOf t) { rm := .rne, ftz := false } x y).1
    | .min => (fMinMax (fmtOf t) false x y).1
    | .max => (fMinMax (fmtOf t) true x y).1
  else
    match rop with
    | .add => (x + y) % 2 ^ 32
    | .min => pick less
    | .max => pick !less

/-- The values of an element combined pairwise in an order: each pair of numbers names two of the values left, the second of
which goes into the first; what the order leaves is combined from the left (R463). -/
def combineAll (f : Nat → Nat → Nat) : List Nat → List Nat → Nat
  | i :: j :: rest, vs =>
    if i ≠ j ∧ i < vs.length ∧ j < vs.length then
      combineAll f rest ((vs.set i (f (vs.getD i 0) (vs.getD j 0))).eraseIdx j)
    else combineAll f rest vs
  | _, v :: vs => vs.foldl f v
  | _, [] => 0

/-- Element `e` of some bytes. -/
def elemAt (w : Nat) (b : List Byte) (e : Nat) : Nat := leNat ((b.drop (w * e)).take w)

/-- An element's combination as it is delivered: a NaN is the canonical one of ETYPE, also where nothing was combined (R463). -/
def collElem (t : Ty) (x : Nat) : Nat := if t.isFloat && (decodeFloat (fmtOf t) x).isNan then (fmtOf t).nan else x

/-- The bytes RECV receives (R463), from every member's SEND by rank; `free` stands for the bytes of a broadcast whose root is no
member, which no rule gives. -/
def CollOp.result (o : CollOp) (P rank : Nat) (sends : List (List Byte)) (order : List Nat) (free : Nat → Byte) : List Byte :=
  let w := collBytes o.ety
  let reduce (at_ : Nat) : List Byte := (List.range o.count).flatMap fun e =>
    leBytes (collElem o.ety (combineAll (collCombine o.rop o.ety) order (sends.map fun b => elemAt w b (at_ + e)))) w
  match o.cop with
  | .allReduce => reduce 0
  | .reduceScatter => reduce (rank * o.count)
  | .allGather => sends.flatten
  | .broadcast => if o.root < P then sends.getD o.root [] else (List.range (o.count * w)).map free

/-- The bytes of RECV that this member's marked bytes of SEND feed: the copies, or the elements they are combined into (R463, R479). -/
def CollOp.feeds (o : CollOp) (rank : Nat) (bad : List Nat) : List Nat :=
  let w := collBytes o.ety
  let into (at_ : Nat) : List Nat := ((List.range o.count).filter fun e => bad.any fun i => i / w == at_ + e).flatMap fun e =>
    (List.range w).map fun i => w * e + i
  if bad.isEmpty then []
  else match o.cop with
    | .allReduce => into 0
    | .reduceScatter => into (rank * o.count)
    | .allGather => bad.map (rank * (o.count * w) + ·)
    | .broadcast => bad

/-- The operation combines elements. -/
def CollOp.combines (o : CollOp) : Bool := o.cop == .allReduce || o.cop == .reduceScatter

/-- The COLL of each other member that matches this one, by rank, `none` at this member's rank: equal GROUPID and TAG (R464). `none` in all
while some member has issued no such COLL. -/
def CollOp.matched (o : CollOp) (g : CollGroup) (peers : List CollPeer) : Option (List (Option CollPeer)) :=
  (List.range g.size).mapM fun i =>
    if i = g.rank then some none
    else (peers.find? fun q => q.rank == i && q.groupId == g.id && q.tag == o.tag).map some

/-- A matched COLL names the same operation (R464). -/
def CollOp.agrees (o : CollOp) (g : CollGroup) (q : CollPeer) : Bool :=
  q.size == g.size && q.cop == o.cop && q.rop == o.rop && q.ety == o.ety && q.count == o.count && q.root == o.root

/-- What the matched members sent, with this member's own, by rank; `none` when a SEND has another length. -/
def CollOp.gather (o : CollOp) (g : CollGroup) (own : List Byte) (qs : List (Option CollPeer)) : Option (List (List Byte)) :=
  qs.zipIdx.mapM fun (x : Option CollPeer × Nat) =>
    match x.1 with
    | none => some own
    | some q => if q.send.length = o.sendBytes g.size x.2 then some q.send else none

/-- Every other member can be reached over the fabric (R458, R464). -/
def State.reachesAll (s : State) (rank : Nat) (devices : List Nat) : Bool :=
  devices.zipIdx.all fun (x : Nat × Nat) => x.2 == rank || s.routes.any fun r => r.1 == x.1 && r.2 != 0

/-- An operation ends with a status; the fault value of all but STATUS 1 is GROUP (R464). -/
def State.endColl (s : State) (o : CollOp) (status : Nat) : State :=
  s.onColl o.id fun x => { x with ended := some (status, BitVec.ofNat 64 o.group) }

/-- The first marked byte of the descriptor. -/
def State.groupBad (s : State) (o : CollOp) : Option Nat :=
  match s.collRead o o.group 64 with
  | .error _ => none
  | .ok b =>
    let P := leNat ((b.drop 6).take 2)
    (s.collBad o o.group (if 1024 < P then 64 else 64 + 8 * P)).head?

/-- The descriptor is read, once, at the start of the operation, after what the issuing lane stored before (R246, R459). One with a marked
byte stops the panel, and the operation ends with STATUS 3 (R479; log entry 43: DEDUCED). -/
def State.collStart (s : State) (o : CollOp) : Out :=
  let s0 := s.flushCore o.core
  match s0.readGroup o with
  | .error e => s.collStop o e
  | .ok d => match s0.groupBad o, d with
  | some i, _ => .next (((s0.endWalks o.panel none).endColl o 3).collSick o (o.group + i))
  | none, none => .next ((s0.endWalks o.panel none).endColl o 4)
  | none, some d => .next ((s0.endWalks o.panel none).onColl o.id fun x => { x with desc := some d })

/-- The members meet (R464): the operation ends, waits for a member, or reads SEND after the fork (R465) and combines it with what the
others sent. Markers go with what SEND's bytes are copied or combined into, and combining marked bytes stops the panel (R479). (log entry 43:
DEDUCED) -/
def State.collMeet (s : State) (o : CollOp) (m : CollMeet) (g : CollGroup) : Out :=
  if m.lost ∨ !s.reachesAll g.rank g.devices then .next (s.endColl o 3)
  else match o.matched g m.peers with
  | none => .next s
  | some qs =>
    if !qs.all (fun q => q.all (o.agrees g)) then .next (s.endColl o 2)
    else
      let s0 := s.flushCore o.core
      match s0.collRead o o.send (o.sendBytes g.size g.rank) with
      | .error e => s.collStop o e
      | .ok own =>
        match o.gather g own qs with
        | none => .next s
        | some sends =>
          let free (i : Nat) : Byte := BitVec.ofNat 8 (Config.freeBits (s0.free + i))
          let out := o.result g.size g.rank sends m.order free
          let bad := s0.collBad o o.send own.length
          let s1 := { s0 with free := s0.free + out.length }.endWalks o.panel none |>.onColl o.id fun x =>
            { x with out := some out, marks := o.feeds g.rank bad }
          .next (match bad with
            | i :: _ => if o.combines then s1.collSick o (o.send + i) else s1
            | [] => s1)

/-- COLL_MATCH (R459, R463 to R465): operation `op` starts by reading its descriptor; once that is done, the members meet. -/
def execCollMatch (op : Nat) (m : CollMeet) (s : State) : Out :=
  match s.colls.find? fun o => o.id == op with
  | none => .next s
  | some o =>
    if o.ended.isSome || o.out.isSome then .next s
    else
      match o.desc with
      | none => s.collStart o
      | some g => s.collMeet o m g

/-! ## Completion (R461, R464, R465) -/

/-- RECV is written at its homes in ascending order, up to the first address that fails (R465, R281): the state, and the bytes
left with what stopped them. -/
def State.collWrite (s : State) (o : CollOp) (a : Nat) : List Byte → State × Option EngStop
  | [] => (s, none)
  | b :: bs =>
    match s.collReach o .write a with
    | .error e => (s, some e)
    | .ok pa =>
      let s1 := (s.setMem (s.mem.set pa b) pa 1).mark .memory pa (o.marks.contains (a - o.recv))
      ((s1.dropCopy o.core (sectorOf pa)).dropCopy (diePlace (dieOf o.core)) (sectorOf pa)).collWrite o (a + 1) bs

/-- The bytes RECV receives when the operation succeeds (R463). -/
def CollOp.recvBytes (o : CollOp) : Nat :=
  (match o.cop with
    | .allGather => (o.desc.map fun g => g.size).getD 1
    | _ => 1) * (o.count * collBytes o.ety)

/-- After STATUS 1, 3 or 4 each byte of RECV that can be reached is free (R464; log entry 7: DESIGN CHOICE); `n` bytes from `a`. -/
def State.collScrub (s : State) (o : CollOp) (a : Nat) : Nat → State × Option EngStop
  | 0 => (s, none)
  | n + 1 =>
    match s.collReach o .write a with
    | .error (.fault _) | .error .declined => s.collScrub o (a + 1) n
    | .error e => (s, some e)
    | .ok pa =>
      let s1 := ({ s with free := s.free + 1 } : State).setMem (s.mem.set pa (BitVec.ofNat 8 (Config.freeBits s.free))) pa 1
      ((s1.dropCopy o.core (sectorOf pa)).dropCopy (diePlace (dieOf o.core)) (sectorOf pa)).collScrub o (a + 1) n

/-- STATUS is written in the record of a resident panel, or held for a saved one (R429, R461). -/
def State.collStatus (s : State) (panel record code : Nat) : State :=
  match s.panel? panel with
  | some _ => (s.onPanel panel fun p => { p with scratch := p.scratch.write (record + 36) 4 code }).heal (.scratch panel) (record + 36) 4
  | none =>
    match s.saved? panel with
    | none => s
    | some (f, _) => s.onFunc f fun fn =>
        { fn with saved := fn.saved.map fun q => if q.id = panel then { q with held := q.held ++ [.status (record + 36) code] } else q }

/-- The operation leaves the engine: STATUS, then the arrival (R461, R464). (log entry 43: DEDUCED) -/
def State.finishColl (s : State) (o : CollOp) (status : Nat) (v : Dword) : State :=
  ({ s with colls := s.colls.filter fun x => x.id != o.id }.collStatus o.panel o.record status).arriveRef o.obj (status != 0) v

/-- COLL_COMPLETE (R461, R464, R465). -/
def execCollComplete (op : Nat) (s : State) : Out :=
  match s.colls.find? fun o => o.id == op with
  | none => .next s
  | some o =>
    match o.ended, o.out with
    | some (status, v), _ =>
      match if status = 2 then (s, none) else s.collScrub o o.recv o.recvBytes with
      | (s1, some (.miss va k)) => .next (s1.startWalkAt o.panel o.fn o.core none 0 va k o.mode)
      | (s1, _) => .next ((s1.endWalks o.panel none).finishColl o status v)
    | none, none => .next s
    | none, some bs =>
      match s.collWrite o o.recv bs with
      | (s1, none) => .next ((s1.endWalks o.panel none).finishColl o 0 0)
      | (s1, some e) => s1.collStop o e

/-- FABRIC_FAILURE (R464): the fabric fails while operation `op` is under way. -/
def execFabricFailure (op : Nat) (s : State) : Out :=
  match s.colls.find? fun o => o.id == op with
  | none => .next s
  | some o => .next (if o.ended.isSome then s else s.endColl o 3)

end Sys2Proof.Machine
end

