-- ==== Sys2Proof/Machine/Copy.lean ====
section
/-!
DEFINITION. Sys2Proof/Machine/Copy.lean: copy channels (spec/15_copy_and_transform.md R276 to R285).
-/
namespace Sys2Proof.Machine

/-! ## Contexts (R276) -/

/-- A context at panel start. -/
def Chan.blank : Chan := ⟨0, 0, false, 0⟩
/-- A panel's context of a channel. -/
def Panel.chan (p : Panel) (c : Nat) : Chan := cellGet .blank p.chans c
/-- A context takes a value. -/
def State.setChan (s : State) (panel c : Nat) (x : Chan) : State :=
  s.onPanel panel fun p => { p with chans := cellSet .blank p.chans c x }
/-- The copies outstanding on a context, oldest first. -/
def State.copiesOf (s : State) (panel c : Nat) : List CopyOp := s.copyOps.filter fun o => o.panel == panel && o.chan == c

/-! ## CPY (R277 to R280) -/

/-- The operand kind of an address in a space (R278). -/
def copyAddrKind (f : CopyForm) (sp : Space) : SrcKind :=
  if f = .records then .unused else if sp = .global then .scalarPair else .scalar

/-- Operands of CPY. -/
def formCpy (m : CopyMod) : Form where
  a := copyAddrKind m.form m.ssp
  b := copyAddrKind m.form m.dsp
  c := if m.form = .shape then .scalarQuad else .scalar

/-- The width of TRN's elements in bytes. -/
def trnBytes : Trn → Nat
  | .halves => 2
  | _ => 1

/-- A side of forms 0 and 1 as its address operand gives it: the space, the handle, and the address. -/
structure CopyAddr where
  space : Space
  handle : Nat
  addr : Nat
deriving DecidableEq, Repr

/-- An address operand (R278). -/
def Frame.copyAddr (fr : Frame) (z : Slot) (sp : Space) (x : Src) : CopyAddr :=
  let l := fr.leader z
  if sp = .global then ⟨sp, 0, (fr.read z l x true false).toNat⟩
  else
    let w := (fr.read32 z l x).toNat
    if sp = .opbuf then ⟨sp, bits w 31 28, bits w 18 0⟩ else ⟨sp, 0, w⟩

/-- Reserved bits of an operand-buffer address are not zero (R278). -/
def Frame.copyAddrBad (fr : Frame) (z : Slot) (sp : Space) (x : Src) : Bool :=
  sp == .opbuf && bits (fr.read32 z (fr.leader z) x).toNat 27 19 != 0

/-- The tval of an address of a side (R200). -/
def CopyAddr.tval (c : CopyAddr) (a : Nat) : Dword :=
  match c.space with
  | .global => BitVec.ofNat 64 a
  | .panel => spaceTval 1 0 a
  | .cluster => spaceTval 2 0 a
  | .constants => spaceTval 3 0 a
  | .opbuf => spaceTval 4 c.handle a

/-- The bounds of a side of forms 0 and 1 (R279 step 2): lines of `row` bytes, `stride` apart. -/
def State.copyOut (s : State) (fr : Frame) (c : CopyAddr) (row rows stride : Nat) : Option (Cause × Dword) :=
  match c.space with
  | .global => none
  | .panel => s.siteOut fr.p .panel c.addr row rows stride
  | .cluster => s.siteOut fr.p .cluster c.addr row rows stride
  | .constants =>
    if fr.mode = .hypervisor then none
    else (firstOut c.addr row rows stride (fr.p.constants fr.mode).2).map fun a => (.perm, c.tval a)
  | .opbuf =>
    let r := fr.p.record c.handle
    (firstOut c.addr row rows stride (if resvValid r then resvLen r else 0)).map fun a => (.perm, c.tval a)

/-- A hypervisor's constants outside the firmware range (R408). -/
def State.copyPastFirmware (s : State) (fr : Frame) (c : CopyAddr) (row rows stride : Nat) : Bool :=
  c.space == .constants && fr.mode == .hypervisor && (firstOut (s.hypConst + c.addr) row rows stride firmwareSize).isSome

/-- A side as the engine uses it. -/
def State.copyTensor (s : State) (fr : Frame) (c : CopyAddr) (rows cols stride fmt : Nat) : Tensor :=
  let t (site : Site) (addr : Nat) : Tensor := ⟨site, addr, 0, 0, 0, 0, rows, cols, stride, 0, fmt, 0, 0⟩
  match c.space with
  | .global => t .global c.addr
  | .panel => t .panel c.addr
  | .cluster => t .cluster c.addr
  | .constants =>
    if fr.mode = .hypervisor then t .firmware (firmwareBase (dieOf fr.p.core) + s.hypConst + c.addr)
    else t .global ((fr.p.constants fr.mode).1.toNat + c.addr)
  | .opbuf => t .opbuf (resvBase (fr.p.record c.handle) + c.addr)

/-- The shape of forms 0 and 1: row bytes, rows, and the two strides. -/
structure CopyShape where
  r : Nat
  h : Nat
  ss : Nat
  ds : Nat
deriving DecidableEq, Repr

/-- The shape operand (R278). -/
def Frame.copyShape (fr : Frame) (z : Slot) (m : CopyMod) : CopyShape :=
  let l := fr.leader z
  if m.form = .linear then
    let n := (fr.read32 z l z.sc).toNat
    ⟨n, 1, n, n⟩
  else
    let ws := fr.readWords z l z.sc 4
    ⟨(ws.getD 0 0).toNat, (ws.getD 1 0).toNat, (ws.getD 2 0).toNat, (ws.getD 3 0).toNat⟩

/-- The shape is within the limits of R278; the strides' multiples of 16 are R279's. -/
def shapeOk (m : CopyMod) (x : CopyShape) : Bool :=
  let w := trnBytes m.trn
  decide (16 ≤ x.r) && decide (x.r ≤ 2 ^ 24) && x.r % 16 == 0 && decide (1 ≤ x.h) && decide (x.h ≤ 65536)
    && decide (x.r ≤ x.ss)
    && (if m.trn = .none then decide (x.r ≤ x.ds) else x.r / w % 16 == 0 && x.h * w % 16 == 0 && decide (x.h * w ≤ x.ds))

/-- What a CPY moves: its two sides, and the operand-buffer handles it names. -/
structure CopyPlan where
  src : Tensor
  dst : Tensor
  handles : List Nat
  pastFirmware : Bool
deriving DecidableEq, Repr

/-- Lines of a side: `none` marks no line. -/
def CopyShape.dstRows (m : CopyMod) (x : CopyShape) : Nat × Nat :=
  if m.trn = .none then (x.r, x.h) else (x.h * trnBytes m.trn, x.r / trnBytes m.trn)

/-- The limits of R278 on what the operands of forms 0 and 1 deliver, each judged where its read is served (R483): the tval of ILLOPND. -/
def Frame.copyBad (fr : Frame) (z : Slot) (m : CopyMod) : Option Dword :=
  let f := formCpy m
  if m.form = .records ∨ !fr.someActive z then none
  else if fr.served f.a z z.sa && fr.copyAddrBad z m.ssp z.sa then some (saTval z)
  else if fr.served f.b z z.sb && fr.copyAddrBad z m.dsp z.sb then some (sbTval z)
  else if fr.served f.c z z.sc && !shapeOk m (fr.copyShape z m) then some (scTval z)
  else none

/-- Forms 0 and 1 with operands in their limits (R278, R279). The completion object comes after the sides' alignment and before the
bounds. -/
def State.copySides (s : State) (fr : Frame) (z : Slot) (m : CopyMod) : Except (Cause × Dword) (CopyPlan × ObjRef) := do
  let x := fr.copyShape z m
  let a := fr.copyAddr z m.ssp z.sa
  let b := fr.copyAddr z m.dsp z.sb
  let d := x.dstRows m
  failIf (a.addr % 16 != 0) .align (a.tval a.addr)
  failIf (x.ss % 16 != 0) .align (a.tval (a.addr + x.ss))
  failIf (b.addr % 16 != 0) .align (b.tval b.addr)
  failIf (x.ds % 16 != 0) .align (b.tval (b.addr + x.ds))
  failSome (objAlign m.mbs z)
  failSome (s.copyOut fr a x.r x.h x.ss)
  failSome (s.copyOut fr b d.1 d.2 x.ds)
  let o ← s.objRef fr m.mbs z.lit
  let w := trnBytes m.trn
  let fmt := if w = 2 then 2 else 0
  pure (⟨s.copyTensor fr a x.h (x.r / w) x.ss fmt, s.copyTensor fr b d.2 (d.1 / w) x.ds fmt,
      (if m.ssp = .opbuf then [a.handle] else []) ++ (if m.dsp = .opbuf then [b.handle] else []),
      s.copyPastFirmware fr a x.r x.h x.ss⟩, o)

/-- The conditions of form 2 on one record (R278); `dst` marks the destination's. -/
def copyRecordOk (m : CopyMod) (dst : Bool) (t : Tensor) : Bool :=
  !fmtBlock t.fmt && t.cmp == 0 && (m.trn == .none || fmtBits t.fmt == 8 * trnBytes m.trn)
    && (!dst || t.layout == 2 || decide (t.line ≤ t.stride))

/-- The conditions of form 2 on both records (R278). -/
def copyPairOk (m : CopyMod) (a b : Tensor) : Bool :=
  a.fmt == b.fmt && if m.trn = .none then b.rows == a.rows && b.cols == a.cols else b.rows == a.cols && b.cols == a.rows

/-- Form 2 (R278, R279). -/
def State.copyRecords (s : State) (fr : Frame) (z : Slot) (m : CopyMod) : Except (Cause × Dword) (CopyPlan × ObjRef) := do
  let w := (fr.read32 z (fr.leader z) z.sc).toNat
  let ha := bits w 15 0
  let hb := bits w 31 16
  let p := s.seen fr.p
  let a := recordAt p ha
  let b := recordAt p hb
  s.sickCheck p (64 * ha)
  s.sickCheck p (64 * hb)
  failIf (recordBad p ha (copyRecordOk m false) || recordBad p hb (copyRecordOk m true) || recordsBad p ha hb (copyPairOk m))
    .illopnd (scTval z)
  failSome (objAlign m.mbs z)
  failSome (recordOut p ha <|> recordOut p hb)
  failSome (s.tensorOut fr.p a <|> s.tensorOut fr.p b)
  let o ← s.objRef fr m.mbs z.lit
  pure (⟨a, b, [], false⟩, o)

/-- A CPY that passed its checks takes its stream range (R280); while FLT is set it completes at once (R282). -/
def State.startCopy (s : State) (fr : Frame) (m : CopyMod) (pl : CopyPlan) (o : ObjRef) : State :=
  let c := m.chan.val
  let ch := ((s.panel? fr.p.id).map fun p => p.chan c).getD .blank
  let n := pl.dst.bytes
  let s1 := s.setChan fr.p.id c { ch with tail := (ch.tail + n) % 2 ^ 63 }
  if ch.flt then s1.arriveRef o true ch.faddr
  else
    let (id, s2) := s1.fresh
    { s2 with copyOps := s2.copyOps ++
        [⟨id, fr.p.id, fr.kx, fr.p.core, fr.mode, c, pl.src, pl.dst, m.trn != .none, ch.tail, n, 0, pl.handles, o, []⟩] }

/-- CPY (R277 to R283). -/
def execCpy (z : Slot) (m : CopyMod) (s : State) : Out :=
  runSlot { slot := z, hi := slotHigh (encode (.cpy z m)), form := formCpy m, once := true
            judge := fun fr => fr.copyBad z m } s fun fr alive s =>
    if (fr.active z alive).isEmpty then .done s [] [] []
    else if 16 ≤ (s.copiesOf fr.p.id m.chan.val).length then .wait s
    else checked fr (fr.leader z) s (do
      let (pl, o) ← if m.form = .records then s.copyRecords fr z m else s.copySides fr z m
      let s := if m.form = .records then s.tookRecords else s
      pure (if pl.pastFirmware then .done (s.firmwareCheck fr [fr.leader z]) [] [] []
        else .done (s.startCopy fr m pl o) [] [] []))

/-! ## The channel at work (R280 to R282) -/

/-- The source place of a dense destination element. -/
def CopyOp.srcIndex (o : CopyOp) (e : Nat) : Nat :=
  let d := o.dst.place e
  if o.trn then o.src.index d.2 d.1 else o.src.index d.1 d.2

/-- A source byte at an address. One that this copy has written gives its value from before or the one written: `i` numbers the
choice (R281). -/
def State.copyRead (s : State) (p : Panel) (o : CopyOp) (i a : Nat) : Eng Byte := do
  let r ← s.engReach p o.mode o.src.site .read a 1
  let now := BitVec.ofNat 8 (s.engRead p 1 r)
  pure (match o.old.find? fun (x : Place × Byte) => some x.1 == r.place with
    | some x => if Config.choice (s.free + i) % 2 = 0 then x.2 else now
    | none => now)

/-- The byte the channel writes at stream byte `k` of a copy; two nibbles of one source byte come of one reading of it (R281). -/
def State.copyByte (s : State) (p : Panel) (o : CopyOp) (k : Nat) : Eng Byte :=
  if fmtBits o.src.fmt = 4 then do
    let n (e : Nat) := o.srcIndex (2 * k + e)
    let nib (e : Nat) : Eng Nat := do
      let b ← s.copyRead p o (2 * (k - o.done) + if n e / 2 = n 0 / 2 then 0 else 1) (o.src.byteAddr (n e / 2))
      pure (b.toNat / 16 ^ (n e % 2) % 16)
    let lo ← nib 0
    let hi ← nib 1
    pure (BitVec.ofNat 8 (lo + 16 * hi))
  else
    let w := fmtBits o.src.fmt / 8
    s.copyRead p o (k - o.done) (o.src.byteAddr (o.srcIndex (k / w) * w + k % w))

/-- The source bytes of stream byte `k` of a copy. -/
def CopyOp.sources (o : CopyOp) (k : Nat) : List Nat :=
  if fmtBits o.src.fmt = 4 then [2 * k, 2 * k + 1].map fun e => o.src.byteAddr (o.srcIndex e / 2)
  else
    let w := fmtBits o.src.fmt / 8
    [o.src.byteAddr (o.srcIndex (k / w) * w + k % w)]

/-- Stream byte `k` of a copy brings a marker with it (R479). -/
def State.copyBad (s : State) (p : Panel) (o : CopyOp) (k : Nat) : Bool :=
  !s.bad.isEmpty && (o.sources k).any (s.siteBad p o.mode o.src.site)

/-- The bytes of a copy's next destination sector, from stream byte `done` on: all that lie in one sector, lines apart or not (R206,
R280). -/
def CopyOp.piece (o : CopyOp) : Nat := o.dst.sectorRun o.done (o.len - o.done)

/-- The channel's next sector: its bytes and where they go. The lowest byte that fails gives the fault, its source before
its destination (R282). The bytes it replaces are kept where the source may be among them. -/
def State.copyStep (s : State) (p : Panel) (o : CopyOp) : Eng State := do
  let bs ← (List.range o.piece).mapM fun i => do
    let b ← s.copyByte p o (o.done + i)
    let r ← s.engReach p o.mode o.dst.site .write (o.dst.byteAddr (o.done + i)) 1
    pure (b, r)
  let keep : List (Place × Byte) :=
    if o.src.site.meets o.dst.site then bs.filterMap fun (x : Byte × Reach) =>
      x.2.place.map fun w => (w, BitVec.ofNat 8 (s.engRead p 1 x.2))
    else []
  let t := bs.zipIdx.foldl (fun (t : State) (x : (Byte × Reach) × Nat) =>
    let t1 := t.engStore p [x.1.1] x.1.2
    if s.copyBad p o (o.done + x.2) then t1.engMark p true x.1.2 else t1) s
  pure { t with free := s.free + 2 * o.piece + s.rays.length, copyOps := t.copyOps.map fun x => if x.id = o.id then { x with old := keep ++ x.old } else x }

/-- A copy leaves its channel and arrives on its object. -/
def State.endCopy (s : State) (o : CopyOp) (faulted : Bool) (v : Dword) : State :=
  { s with copyOps := s.copyOps.filter fun x => x.id != o.id }.arriveRef o.obj faulted v

/-- The channel of a panel writes its next sector, or stops at a fault: FLT and FADDR are set, and the copies behind it
arrive faulted with FADDR (R282). -/
def State.copyWork (s : State) (p : Panel) (c : Nat) (o : CopyOp) : Out :=
  let s0 := s.flushCore p.core
  match s0.copyStep p o with
  | .ok s1 =>
    let done := o.done + o.piece
    let ch := p.chan c
    let s2 := (s1.setChan p.id c { ch with ptr := (o.start + done) % 2 ^ 63 }).endWalks p.id none
    if done = o.len then .next (s2.endCopy o false 0)
    else .next { s2 with copyOps := s2.copyOps.map fun x => if x.id = o.id then { x with done := done } else x }
  | .error .unbacked => .fault .unbacked
  | .error .declined => .next { s0 with copyOps := s0.copyOps.filter fun x => x.id != o.id }
  | .error (.miss va k) => .next (s.engMiss p o.mode va k)
  | .error (.fault v) =>
    let ch := p.chan c
    let ch1 : Chan := if ch.flt then ch else { ch with flt := true, faddr := v }
    let s1 := (s0.setChan p.id c ch1).endWalks p.id none
    .next (((s1.copiesOf p.id c).filter fun x => x.id != o.id).foldl (fun s x => s.endCopy x true ch1.faddr) (s1.endCopy o true v))

/-- COPY_SECTOR_WRITE (R280, R281, R282). -/
def execCopySectorWrite (p : Nat) (chan : Fin 8) (s : State) : Out :=
  match s.panel? p, s.copiesOf p chan.val with
  | some q, o :: _ => s.copyWork q chan.val o
  | _, _ => .next s

/-! ## CPTR and CPWAIT (R284, R285) -/

/-- CPTR: a 64-bit value of the context lands in the leader's destination. -/
def runCptr (i : Instr) (z : Slot) (chan : Fin 8) (value : Chan → Nat) (s : State) : Out :=
  runSlot { slot := z, hi := slotHigh (encode i), form := { dst := .lateScalar64 }, once := true } s fun fr alive s =>
    if (fr.active z alive).isEmpty then .done s [] [] []
    else
      let v := BitVec.ofNat 64 (value (fr.p.chan chan.val))
      let ws := (fr.dstTargets (fr.leader z) z.dst 2).zip [loWord v, hiWord v]
      .done (s.addWrite fr { VarWrite.blank with targets := ws.map fun w => w.1, vals := ws }) [] [] []

/-- CPTR.PTR. -/
def execCptrPtr (z : Slot) (chan : Fin 8) (s : State) : Out :=
  runCptr (.cptrPtr z chan) z chan (fun c => c.ptr + if c.flt then 2 ^ 63 else 0) s
/-- CPTR.TAIL. -/
def execCptrTail (z : Slot) (chan : Fin 8) (s : State) : Out := runCptr (.cptrTail z chan) z chan (fun c => c.tail) s
/-- CPTR.FADR. -/
def execCptrFadr (z : Slot) (chan : Fin 8) (s : State) : Out :=
  runCptr (.cptrFadr z chan) z chan (fun c => c.faddr.toNat) s

/-- CPTR.RST: waits until nothing is outstanding on the context, then clears a fault. -/
def execCptrRst (z : Slot) (chan : Fin 8) (s : State) : Out :=
  runSlot { slot := z, hi := slotHigh (encode (.cptrRst z chan)), form := {}, once := true } s fun fr alive s =>
    if (fr.active z alive).isEmpty then .done s [] [] []
    else if !(s.copiesOf fr.p.id chan.val).isEmpty then .wait s
    else
      let c := fr.p.chan chan.val
      .done (if c.flt then s.setChan fr.p.id chan.val { c with ptr := c.tail, flt := false, faddr := 0 } else s) [] [] []

/-- CPWAIT (R285): the active lanes go on with an acquire, trap TFENG on a fault, or are held. -/
def execCpwait (z : Slot) (scope : Scope) (chan : Fin 8) (s : State) : Out :=
  runSlot { slot := z, hi := slotHigh (encode (.cpwait z scope chan)), form := { a := .scalarPair }, once := true } s
    fun fr alive s =>
      let on := fr.active z alive
      if on.isEmpty then .done s [] [] []
      else if (s.func fr.p.fn).scopeDenied scope then .done s [] [] (on.map fun l => fr.trapAt l .scopepol (BitVec.ofNat 64 (scopeCode scope)))
      else
        let c := fr.p.chan chan.val
        let v := (fr.read z (fr.leader z) z.sa true false).toNat % 2 ^ 63
        if v ≤ c.ptr then .done (s.acquire fr.p.core fr.p.fn scope) [] [] []
        else if c.flt then .done s [] [] (on.map fun l => fr.trapAt l .tfeng c.faddr)
        else .done (s.onPanel fr.p.id fun p => p.onSkein fr.kx fun k =>
          k.onLanes on fun _ a => { a with held := some (.cpwait chan.val v scope fr.pc) }) [] [] []

end Sys2Proof.Machine
end

