-- ==== Sys2Proof/Machine/Matrix.lean ====
section
/-!
DEFINITION. Sys2Proof/Machine/Matrix.lean: the matrix array (spec/16_matrix_engine.md R292 to R308) and the distance
operations (spec/17_distance_engine.md R310 to R320).
-/
namespace Sys2Proof.Machine

/-! ## The parameter block (R297, R311) -/

/-- The fields of a block as its 64 bytes hold them. (log entry 27: DEDUCED) -/
def parseBlock (b : List Byte) : MatBlock :=
  let f (off n : Nat) : Nat := leNat ((b.drop off).take n)
  let g := f 11 1
  { ah := f 0 1, bh := f 1 1, dh := f 2 1, ih := f 3 1, m := f 4 2, n := f 6 2, k := f 8 2, metric := f 10 1
    acc := g.testBit 0, sat := g.testBit 1, merge := g.testBit 2, sense := g.testBit 3, tie := g.testBit 4
    aoff := f 16 4, boff := f 20 4, doff := f 24 4, ioff := f 28 4, cbase := f 32 4 }

/-- CMPL of a block. -/
def blockCmpl (b : List Byte) : Nat := leNat ((b.drop 36).take 1)
/-- MBO of a block. -/
def blockMbo (b : List Byte) : Nat := leNat ((b.drop 40).take 4)

/-- Step 3 of R298: every field is legal for the operation. -/
def blockOk (kind : MatKind) (b : List Byte) : Bool :=
  let x := parseBlock b
  let f (off n : Nat) : Nat := leNat ((b.drop off).take n)
  let size (n : Nat) : Bool := n == 64 || n == 128 || n == 192 || n == 256
  let chunk := decide (x.cbase + x.n - 1 ≤ 0xFFFFFFFE)
  decide (x.ah < 16) && decide (x.bh < 16) && decide (x.dh < 16) && decide (x.ih < 16)
    && size x.m && size x.n && decide (32 ≤ x.k) && decide (x.k ≤ 4096) && x.k % 32 == 0
    && f 12 4 == 0 && f 37 3 == 0 && f 44 20 == 0
    && decide (blockCmpl b ≤ 2) && (blockCmpl b != 0 || blockMbo b == 0) && x.doff % 4096 == 0
    && match kind with
      | .mma => decide (x.metric ≤ 2) && decide (f 11 1 < 4) && x.ih == 0 && x.ioff == 0 && x.cbase == 0
      | .mdist => decide (x.metric ≤ 2) && decide (f 11 1 < 32) && chunk
      | .mcacc => x.metric == 0 && decide (f 11 1 < 4) && chunk
      | .mcfin => x.metric == 0 && f 11 1 == 0 && x.m == 64 && x.cbase == 0

/-! ## Formats (R293, R312) -/

/-- The class of an operand format (R293): 16-bit float, 8-bit float, 4-bit float, integer. -/
def fmtClass (f : Nat) : Option Nat :=
  match f with
  | 2 | 3 => some 0
  | 4 | 5 | 10 | 11 => some 1
  | 12 | 13 => some 2
  | 6 | 7 | 8 => some 3
  | _ => none

/-- The layouts R293 allows for an operand format. -/
def operandLayout (f layout : Nat) : Bool := if fmtBlock f then layout == 0 || layout == 2 else true

/-- A, B and METRIC fit a row of R293. -/
def operandsOk (fa fb la lb metric : Nat) : Bool :=
  match fmtClass fa, fmtClass fb with
  | some a, some b =>
    a == b && operandLayout fa la && operandLayout fb lb && (metric == 0 || match a with
      | 0 => true
      | 1 => !fmtBlock fa && !fmtBlock fb
      | 2 => false
      | _ => fa != 8 && fb != 8)
  | _, _ => false

/-- A record of a format with LAYOUT 0 and CMP 0. -/
def plainRecord (r : BitVec 128) (fs : List Nat) : Bool := fs.contains (resvFmt r) && resvLayout r == 0 && resvCmp r == 0

/-- The tile offset of an operand meets R294. -/
def offsetOk (r : BitVec 128) (o : Nat) : Bool :=
  if fmtBlock (resvFmt r) then o % (if resvLayout r = 2 then 2048 else 32) == 0 else true

/-- Accumulator formats C/D may have for an operand class. -/
def accFormats (kind : MatKind) (fa : Nat) : List Nat := if fmtClass fa = some 3 then [9] else if kind = .mdist then [1] else [1, 2]

/-- Step 5 of R298. -/
def formatsOk (kind : MatKind) (p : Panel) (x : MatBlock) : Bool :=
  let a := p.record x.ah
  let b := p.record x.bh
  let d := p.record x.dh
  let i := p.record x.ih
  match kind with
  | .mma =>
    operandsOk (resvFmt a) (resvFmt b) (resvLayout a) (resvLayout b) x.metric && plainRecord d (accFormats kind (resvFmt a))
      && x.dh != x.ah && x.dh != x.bh && offsetOk a x.aoff && offsetOk b x.boff
  | .mdist =>
    operandsOk (resvFmt a) (resvFmt b) (resvLayout a) (resvLayout b) x.metric && plainRecord d (accFormats kind (resvFmt a))
      && plainRecord i [0] && x.ih != x.ah && x.ih != x.bh && x.ih != x.dh && x.dh != x.ah && x.dh != x.bh
      && offsetOk a x.aoff && offsetOk b x.boff
  | .mcacc =>
    decide (1 ≤ resvFmt a) && decide (resvFmt a ≤ 13) && resvFmt a != 9
      && (if resvFmt a = 1 then decide (resvLayout a ≤ 1) else operandLayout (resvFmt a) (resvLayout a))
      && plainRecord b [9] && plainRecord d [1] && plainRecord i [0] && distinct [x.ah, x.bh, x.dh, x.ih] && offsetOk a x.aoff
  | .mcfin =>
    plainRecord a [1, 2, 3] && plainRecord b [9] && plainRecord d [1] && plainRecord i [0] && distinct [x.ah, x.bh, x.dh, x.ih]

/-! ## Positions (R294, R296, R313) -/

/-- The dense index of element `(r, k)` of an operand of `rows` rows and `cols` columns (R294). -/
def operandIndex (layout rows cols o r k : Nat) : Nat :=
  match layout with
  | 0 => o + r * cols + k
  | 1 => o + k * rows + r
  | _ => o + 2048 * (r / 64 * (cols / 32) + k / 32) + 32 * (r % 64) + k % 32

/-- Bytes of an accumulator element. -/
def accBytes (f : Nat) : Nat := if f = 2 then 2 else 4

/-- The accumulator element of output element `(i, j)` (R296). -/
def accIndex (x : MatBlock) (i j : Nat) : Nat := x.doff + 4096 * (i / 64 * (x.n / 64) + j / 64) + 64 * (i % 64) + j % 64

/-- W of R313. -/
def sumWidth (x : MatBlock) : Nat := (x.k + 63) / 64
/-- The FP32 element of sum `(c, k)` (R313). -/
def sumIndex (x : MatBlock) (c k : Nat) : Nat := x.doff + 4096 * (c / 64 * sumWidth x + k / 64) + 64 * (c % 64) + k % 64

/-- The byte offset in its region that follows the last byte an operand of `rows` rows of K from `o` uses; for a compressed
region, of its slots and of its map. -/
def operandEnds (r : BitVec 128) (o rows k : Nat) : List (Nat × Nat) :=
  let n := fmtBits (resvFmt r)
  let lo := o * n / 8
  let hi := ((o + rows * k) * n + 7) / 8
  if resvCmp r = 0 then [(lo, hi)]
  else
    let a := lo / 64
    let b := (hi + 63) / 64
    [(slotBytes (resvCmp r) * a, slotBytes (resvCmp r) * b), (resvMapoff r + a / 8, resvMapoff r + (b + 7) / 8)]

/-- The first byte of some ranges of a region that lies beyond it: the lowest range first. -/
def regionOut (p : Panel) (h : Nat) (rs : List (Nat × Nat)) : Option (Cause × Dword) :=
  (rs.find? fun r => decide (resvLen (p.record h) < r.2)).map fun r =>
    (.perm, spaceTval 4 h (max r.1 (resvLen (p.record h))))

/-- Step 6 of R298, with R313's ranges. -/
def rangesOut (kind : MatKind) (p : Panel) (x : MatBlock) : Option (Cause × Dword) :=
  let acc := accBytes (resvFmt (p.record x.dh))
  let counts := regionOut p x.bh [(4 * x.boff, 4 * (x.boff + x.n))]
  let sums := regionOut p x.dh [(4 * x.doff, 4 * (x.doff + 4096 * ((x.n + 63) / 64 * sumWidth x)))]
  let entries := regionOut p x.ih [(8 * x.ioff, 8 * (x.ioff + x.m))]
  let a := regionOut p x.ah (operandEnds (p.record x.ah) x.aoff x.m x.k)
  let b := regionOut p x.bh (operandEnds (p.record x.bh) x.boff x.n x.k)
  let d := regionOut p x.dh [(acc * x.doff, acc * (x.doff + x.m * x.n))]
  match kind with
  | .mma => a <|> b <|> d
  | .mdist => a <|> b <|> d <|> entries
  | .mcacc => a <|> entries <|> counts <|> sums
  | .mcfin => counts <|> sums <|> regionOut p x.ah (operandEnds (p.record x.ah) x.aoff x.n x.k)
      <|> regionOut p x.ih [(8 * x.ioff, 8 * x.ioff + x.n / 8)]

/-- The handles a block names (R228). -/
def blockHandles (kind : MatKind) (x : MatBlock) : List Nat := if kind = .mma then [x.ah, x.bh, x.dh] else [x.ah, x.bh, x.dh, x.ih]

/-- The bytes of a tile of a record (R314). -/
def tileBytes (f : Nat) : Nat := if f = 2 ∨ f = 3 then 8192 else 16384

/-- The tiles of a record that hold a byte of a range. -/
def tilesOf (p : Panel) (h lo hi : Nat) : List (Nat × Nat) :=
  let n := tileBytes (resvFmt (p.record h))
  ((List.range 48).filter fun u => decide (n * u < hi) && decide (lo < n * (u + 1)) && decide (lo < hi)).map fun u => (h, u)

/-- The (handle, tile) pairs an operation writes, one list for each of its steps (R296, R300, R314). -/
def stepTiles (kind : MatKind) (p : Panel) (x : MatBlock) : List (List (Nat × Nat)) :=
  let acc := accBytes (resvFmt (p.record x.dh))
  let out := (List.range (x.m / 64 * (x.n / 64))).map fun t =>
    tilesOf p x.dh (acc * (x.doff + 4096 * t)) (acc * (x.doff + 4096 * (t + 1)))
  let counts := tilesOf p x.bh (4 * x.boff) (4 * (x.boff + x.n))
  match kind with
  | .mma => out
  | .mdist => out ++ [tilesOf p x.ih (8 * x.ioff) (8 * (x.ioff + x.m))]
  | .mcacc => [tilesOf p x.dh (4 * x.doff) (4 * (x.doff + 4096 * ((x.n + 63) / 64 * sumWidth x))) ++ counts]
  | .mcfin =>
    let w := fmtBits (resvFmt (p.record x.ah)) / 8
    [tilesOf p x.ah (w * x.aoff) (w * (x.aoff + x.n * x.k)) ++ tilesOf p x.ih (8 * x.ioff) (8 * x.ioff + x.n / 8)]

/-- The tiles an operation writes. -/
def opTiles (kind : MatKind) (p : Panel) (x : MatBlock) : List (Nat × Nat) := (stepTiles kind p x).flatten

/-! ## Starting (R298, R299, R310) -/

/-- The checks of R298 for one lane: the operation's block and object. (log entry 28: DEDUCED) -/
def State.blockCheck (s : State) (fr : Frame) (kind : MatKind) (z : Slot) (l : Nat) :
    Except (Cause × Dword) (MatBlock × ObjRef) := do
  let off := (fr.read32 z l z.sa).toNat
  failIf (off % 64 != 0) .align (spaceTval 1 0 off)
  failIf (decide (fr.p.kernel.scratch < off + 64)) .perm (spaceTval 1 0 (max off fr.p.kernel.scratch))
  s.sickCheck fr.p off
  let b := (s.seen fr.p).scratch.list off 64
  failIf (!blockOk kind b) .illopnd (saTval z)
  let x := parseBlock b
  failSome (((blockHandles kind x).find? fun h => !resvValid (fr.p.record h)).map fun h => (.perm, spaceTval 4 h 0))
  failIf (!formatsOk kind fr.p x) .illopnd (saTval z)
  failSome (rangesOut kind fr.p x)
  let o ← s.objRef fr (match blockCmpl b with | 0 => .none | 1 => .panel | _ => .cluster) (BitVec.ofNat 32 (blockMbo b))
  pure (x, o)

/-- The operation a lane starts waits to enter its core's queue (R292, R299). -/
def State.addMat (s : State) (fr : Frame) (kind : MatKind) (x : MatBlock × ObjRef) : State :=
  let (id, s1) := s.fresh
  { s1 with mats := s1.mats ++ [⟨id, fr.p.id, fr.kx, fr.p.core, kind, x.1, x.2, false, false, 0, false⟩] }

/-- The event's PC and the lanes it leaves are kept until its first operation has entered the queue (R428). -/
def State.forms (s : State) (fr : Frame) (on : List Nat) (rs : List (Nat × Except (Cause × Dword) (MatBlock × ObjRef))) : State :=
  if rs.any fun x => x.2.isOk then s.onPanel fr.p.id fun p => p.onSkein fr.kx fun k => { k with forming := some (fr.pc, on) } else s

/-- MMA, MDIST, MCACC and MCFIN (R299, R310): each active lane checks its block; those that pass start one operation each. -/
def runMat (i : Instr) (kind : MatKind) (z : Slot) (s : State) : Out :=
  runSlot { slot := z, hi := slotHigh (encode i), form := { a := .block } } s fun fr alive s =>
    let rs := (fr.active z alive).map fun l => (l, s.blockCheck fr kind z l)
    let s1 := rs.foldl (fun s x => match x.2 with
      | .ok b => s.addMat fr kind b
      | .error _ => s) s
    let on := fr.lanes.filter fun l => alive.contains l && rs.all fun x => x.1 != l || x.2.isOk
    .checks fr (s1.forms fr on rs).tookRecords (rs.filterMap fun x => match x.2 with
      | .error (c, v) => some (fr.trapAt x.1 c v)
      | .ok _ => none)

/-- MMA. -/
def execMma (z : Slot) (s : State) : Out := runMat (.mma z) .mma z s
/-- MDIST. -/
def execMdist (z : Slot) (s : State) : Out := runMat (.mdist z) .mdist z s
/-- MCACC. -/
def execMcacc (z : Slot) (s : State) : Out := runMat (.mcacc z) .mcacc z s
/-- MCFIN. -/
def execMcfin (z : Slot) (s : State) : Out := runMat (.mcfin z) .mcfin z s

/-- A tile count changed (R304). -/
def Panel.onTile (p : Panel) (t : Nat × Nat) (f : Nat → Nat) : Panel :=
  { p with tiles := cellSet 0 p.tiles (tileKey t.1 t.2) (f (p.tileCount t.1 t.2)) }

/-- The operations in a core's queue, the running one among them. -/
def State.queueOf (s : State) (core : Nat) : List MatOp := s.mats.filter fun o => o.core == core && o.queued

/-- A started operation may enter its core's queue (R299). -/
def State.mayQueue (s : State) (p : Panel) (o : MatOp) : Bool :=
  decide ((s.queueOf o.core).length < 32) && (opTiles o.kind p o.blk).all fun t => decide (p.tileCount t.1 t.2 < 15)

/-- An operation enters its core's queue and its tiles' counts rise; it takes its place after those already there. -/
def State.enqueueMat (s : State) (p : Panel) (o : MatOp) : State :=
  let s1 := s.onPanel p.id fun q => ((opTiles o.kind p o.blk).foldl (fun q t => q.onTile t (· + 1)) q).onSkein o.skein fun k => { k with forming := none }
  { s1 with mats := s1.mats.filter (fun x => x.id != o.id) ++ [{ o with queued := true }] }

/-- The operations that wait to enter a queue, put in R292's order: ascending skein within a panel, then lane order. -/
def insertStart (o : MatOp) : List MatOp → List MatOp
  | [] => [o]
  | x :: xs =>
    if o.panel < x.panel ∨ (o.panel = x.panel ∧ (o.skein < x.skein ∨ (o.skein = x.skein ∧ o.id < x.id))) then o :: x :: xs
    else x :: insertStart o xs

/-- At the end of a cycle of a die, the operations its cores' lanes started enter their queues as far as they fit; a skein's
operations enter in order (R131, R292, R299). (log entry 29: DEDUCED) -/
def State.enterQueues (s : State) (die : Nat) : State :=
  ((s.mats.filter fun o => !o.queued && dieOf o.core == die).foldr insertStart []).foldl (fun s o =>
    match s.panel? o.panel with
    | none => { s with mats := s.mats.filter fun x => x.id != o.id }
    | some p =>
      let first := s.mats.all fun x => x.queued || x.panel != o.panel || x.skein != o.skein || decide (o.id ≤ x.id)
      if first && s.mayQueue p o then s.enqueueMat p o else s) s

/-! ## A start abandoned (R428) -/

/-- The skein's array start is held before its first lane enters the queue. -/
def State.heldStart (s : State) (p : Panel) (k : Skein) : Bool :=
  k.forming.isSome && (s.mats.find? fun o => o.panel == p.id && o.skein == k.ix && !o.queued).any fun o => !s.mayQueue p o

/-- The lanes of a start that is abandoned keep its PC. -/
def Skein.unform (k : Skein) : Skein :=
  match k.forming with
  | none => k
  | some (pc, on) => { k.onLanes on fun _ a => if a.pc = nextPc pc then { a with pc := pc } else a with forming := none }

/-- Array starts of some panels that no engine has begun are abandoned at a save. -/
def State.abandonStarts (s : State) (ids : List Nat) : State :=
  let held (p : Panel) : List Nat :=
    if ids.contains p.id && p.saving.isNone && p.halt.isNone then (p.skeins.filter (s.heldStart p)).map (·.ix) else []
  { s with
    mats := s.mats.filter fun o => o.queued || !(s.panels.any fun p => p.id == o.panel && (held p).contains o.skein)
    panels := s.panels.map fun p => (held p).foldl (fun p k => p.onSkein k Skein.unform) p }

/-! ## The start limit (R186) -/

/-- An operation counts against the start limit. -/
def MatOp.counted (o : MatOp) : Bool := o.kind != .mcfin

/-- The operation at the head of a core's queue that has not started. -/
def State.headMat (s : State) (core : Nat) : Option MatOp :=
  match s.queueOf core with
  | o :: _ => if o.started then none else some o
  | [] => none

/-- The die may start one more counted operation in this cycle. -/
def Die.mayStart (d : Die) : Bool := decide ((d.starts.filter fun c => decide (d.cycle < c + 150)).length < 16)

/-- Waiting heads of a die are noted as delayed by the limit, and counted once (R186, R481). -/
def State.noteDelays (s : State) (die : Nat) : State :=
  if (s.die die).mayStart then s
  else
    let late := s.mats.filter fun o => dieOf o.core == die && o.counted && !o.delayed && (s.headMat o.core).any fun h => h.id == o.id
    { s with mats := s.mats.map fun (o : MatOp) => if late.any (fun x => x.id == o.id) then { o with delayed := true } else o }.onDie die
      fun d => { d with mstartWait := (d.mstartWait + late.length) % 2 ^ 64 }

/-- ARRAY_START (R186, R292): the head of a core's queue starts; starts wait in order of issue across the die. -/
def execArrayStart (core : Nat) (s : State) : Out :=
  match s.headMat core with
  | none => .next s
  | some o =>
    let die := dieOf core
    let go (s : State) : State := { s with mats := s.mats.map fun x => if x.id = o.id then { x with started := true } else x }
    if !o.counted then .next (go s)
    else
      let older := s.mats.any fun x => x.queued && x.counted && dieOf x.core == die && decide (x.id < o.id)
        && (s.headMat x.core).any fun h => h.id == x.id
      if older || !(s.die die).mayStart then .next s
      else .next ((go s).onDie die fun d =>
        { d with starts := (d.starts.filter fun c => decide (d.cycle < c + 150)) ++ [d.cycle] })

/-! ## What an operation computes (R300 to R302) -/

/-- The accumulator of an output element: an integer, or a float's bits. -/
abbrev AccRes := Nat × Word

/-- One term of a group (R300, R302); `none` for an invalid one. NaNs are the caller's. -/
def matTerm (metric : Nat) (a b : Num) : Option Num :=
  let diff : Option Num := match a, b with
    | .inf x, .inf y => if x = y then none else some (.inf x)
    | .inf x, _ => some (.inf x)
    | _, .inf y => some (.inf (!y))
    | _, _ =>
      let e := min a.dyadic.2 b.dyadic.2
      let v := inUnits e a.dyadic - inUnits e b.dyadic
      some (if v = 0 then .zero false else .fin (decide (v < 0)) v.natAbs e)
  match metric with
  | 0 => mulNum a b
  | 1 => diff.map fun d => match d with
    | .inf _ => .inf false
    | .zero _ => .zero false
    | .fin _ m e => .fin false m e
    | x => x
  | _ => diff.bind fun d => mulNum d d

/-- A finite term truncated toward zero to a multiple of `2^q`, in units of `2^q` (R301). -/
def truncTerm (q : Int) (x : Num) : Int :=
  let d := x.dyadic
  if q ≤ d.2 then d.1 * 2 ^ (d.2 - q).toNat else d.1.tdiv (2 ^ (q - d.2).toNat)

/-- The group sum of terms with no NaN (R301, R302); `none` when it holds both infinities. -/
def groupSum (integer : Bool) (ts : List Num) : Option Num :=
  let pos := ts.any fun t => t == .inf false
  let neg := ts.any fun t => t == .inf true
  if pos && neg then none
  else if pos then some (.inf false)
  else if neg then some (.inf true)
  else
    let fin := ts.filterMap fun t => match t with
      | .fin _ m e => some (floorLog2 m 1 + e)
      | _ => none
    match fin with
    | [] => some (.zero false)
    | e :: es =>
      let q := if integer then 0 else es.foldl max e - 40
      let v := (ts.map (truncTerm q)).sum
      some (if v = 0 then .zero false else .fin (decide (v < 0)) v.natAbs q)

/-- The sum of an accumulator and a group as an exact value; `none` for opposite infinities. -/
def addNum (a b : Num) : Option Num :=
  match a, b with
  | .nan _, _ => none
  | _, .nan _ => none
  | .inf x, .inf y => if x = y then some (.inf x) else none
  | .inf x, _ => some (.inf x)
  | _, .inf y => some (.inf y)
  | .zero x, .zero y => some (.zero (x && y))
  | _, _ =>
    let e := min a.dyadic.2 b.dyadic.2
    let v := inUnits e a.dyadic + inUnits e b.dyadic
    some (if v = 0 then .zero false else .fin (decide (v < 0)) v.natAbs e)

/-- The rounding of the array (R302). -/
def rneCfg : RoundCfg := { rm := .rne, ftz := false }

/-- `accumulate(acc, s)` of R302 in a float format. -/
def accumulateFloat (f : Nat) (sat : Bool) (acc : Nat) (s : Option Num) : AccRes :=
  let g := if f = 2 then fmt16 else fmt32
  match s.bind fun x => addNum (decodeFloat g acc) x with
  | none => (g.nan, 0)
  | some (.fin neg m e) =>
    let r := roundDyadic g rneCfg (sat || f == 2) (if neg then -(m : Int) else m) e
    (r.1, if r.2 &&& flagOF != 0 then (if f = 2 then flagSATNARROW else flagOVF32) else 0)
  | some x => ((roundNum g rneCfg false x).1, 0)

/-- `accumulate(acc, s)` of R302 in INT32. -/
def accumulateInt (acc : Nat) (s : Option Num) : AccRes :=
  let v := sext acc 32 + (match s with
    | some x => inUnits 0 x.dyadic
    | none => 0)
  if v < -2 ^ 31 then (2 ^ 31, flagSATINT) else if 2 ^ 31 - 1 < v then (2 ^ 31 - 1, flagSATINT) else (wrap v 32, 0)

/-- An operand of a started operation: its record, offset, rows and K. -/
structure MatSide where
  r : BitVec 128
  off : Nat
  rows : Nat
  k : Nat

/-- The dense index of element `(i, k)` of an operand. -/
def MatSide.index (o : MatSide) (i k : Nat) : Nat := operandIndex (resvLayout o.r) o.rows o.k o.off i k

/-- Group `g` of output element `(i, j)`: the exact sum with its scales; `none` is a NaN (R300 to R302). -/
def matGroup (buf : Bytes) (metric : Nat) (integer : Bool) (a b : MatSide) (i j g : Nat) : Option Num :=
  let pairs := (List.range 32).map fun n =>
    (regionElem buf a.r (a.index i (32 * g + n)), regionElem buf b.r (b.index j (32 * g + n)))
  let scale (o : MatSide) (r : Nat) : Option Int :=
    if fmtBlock (resvFmt o.r) then
      let c := regionScale buf o.r (o.index r (32 * g))
      if c = 255 then none else some ((c : Int) - 127)
    else some 0
  if pairs.any fun x => x.1.isNan || x.2.isNan then none
  else
    match scale a i, scale b j with
    | some sa, some sb =>
      let ts := pairs.map fun x => matTerm metric x.1 x.2
      if ts.any (·.isNone) then none
      else (groupSum integer (ts.filterMap id)).map fun t => match t with
        | .fin s m e => .fin s m (e + sa + sb)
        | x => x
    | _, _ => none

/-- An output element's new bits and flags (R300). -/
def matElement (buf : Bytes) (d : BitVec 128) (x : MatBlock) (a b : MatSide) (i j : Nat) : AccRes :=
  let f := resvFmt d
  let w := accBytes f
  let start := if x.acc then buf.read (resvBase d + w * accIndex x i j) w else 0
  (List.range (x.k / 32)).foldl (fun (r : AccRes) g =>
    let t := matGroup buf x.metric (f == 9) a b i j g
    let n := if f = 9 then accumulateInt r.1 t else accumulateFloat f x.sat r.1 t
    (n.1, r.2 ||| n.2)) (start, 0)

/-! ## Poisoned bytes (R309, R320) -/

/-- A range of operand-buffer bytes: where it begins and its length. -/
abbrev Bits := Nat × Nat

/-- The operand-buffer bytes that element `e` of a region is read from, with its block's scale and extra byte (R266, R273). -/
def regionFeeds (buf : Bytes) (r : BitVec 128) (e : Nat) : List Bits :=
  let lo := e * fmtBits (resvFmt r) / 8
  let j := lo / 64
  let slot := resvBase r + slotBytes (resvCmp r) * j
  let ptr := buf.read slot 8
  let elem : List Bits :=
    if resvCmp r = 0 then [(resvBase r + lo, (fmtBits (resvFmt r) + 7) / 8)]
    else [(slot, slotBytes (resvCmp r)), (resvBase r + resvMapoff r + j / 8, 1)] ++
      if (buf.get (resvBase r + resvMapoff r + j / 8)).getLsbD (j % 8) then [(resvBase r + ptr, 64)] else []
  elem ++ (if fmtBlock (resvFmt r) then [(resvBase r + resvScoff r + e / 32, 1)] else [])
    ++ (if resvFmt r = 13 then [(resvBase r + resvXoff r + e / 32, 1)] else [])

/-- Where accumulator element `(i, j)` lies. -/
def accSpan (p : Panel) (x : MatBlock) (i j : Nat) : Bits :=
  (resvBase (p.record x.dh) + accBytes (resvFmt (p.record x.dh)) * accIndex x i j, accBytes (resvFmt (p.record x.dh)))

/-- What row `i` of A and row `j` of B are read from. -/
def rowFeeds (p : Panel) (h layout rows k off i : Nat) : List Bits :=
  (List.range k).flatMap fun n => regionFeeds p.opbuf (p.record h) (operandIndex layout rows k off i n)

/-- What output element `(i, j)` is computed from. -/
def outFeeds (p : Panel) (x : MatBlock) (i j : Nat) : List Bits :=
  rowFeeds p x.ah (resvLayout (p.record x.ah)) x.m x.k x.aoff i ++ rowFeeds p x.bh (resvLayout (p.record x.bh)) x.n x.k x.boff j
    ++ if x.acc then [accSpan p x i j] else []

/-- Where index entry `i` lies. -/
def entrySpan (p : Panel) (x : MatBlock) (i : Nat) : Bits := (resvBase (p.record x.ih) + 8 * (x.ioff + i), 8)
/-- Where count `c` lies. -/
def countSpan (p : Panel) (x : MatBlock) (c : Nat) : Bits := (resvBase (p.record x.bh) + 4 * (x.boff + c), 4)
/-- Where sum `(c, k)` lies. -/
def sumSpan (p : Panel) (x : MatBlock) (c k : Nat) : Bits := (resvBase (p.record x.dh) + 4 * sumIndex x c k, 4)

/-- The elements that step `t` of an operation writes, each with the bytes it is computed from. -/
def stepFeeds (kind : MatKind) (p : Panel) (x : MatBlock) (t : Nat) : List (Bits × List Bits) :=
  let tile : List (Bits × List Bits) := (List.range 4096).map fun e =>
    let i := t / (x.n / 64) * 64 + e / 64
    let j := t % (x.n / 64) * 64 + e % 64
    (accSpan p x i j, outFeeds p x i j)
  let entries := (List.range x.m).map fun i => ((entrySpan p x i).1, 4)
  let into (c : Nat) : List Nat := (List.range x.m).filter fun i => p.opbuf.read (entrySpan p x i).1 4 == x.cbase + c
  match kind with
  | .mma => tile
  | .mdist =>
    if t < x.m / 64 * (x.n / 64) then tile
    else (List.range x.m).map fun i =>
      (entrySpan p x i, (if x.merge then [entrySpan p x i] else []) ++ (List.range x.n).flatMap fun j => accSpan p x i j :: outFeeds p x i j)
  | .mcacc => (List.range x.n).flatMap fun c =>
      (countSpan p x c, entries ++ if x.acc then [countSpan p x c] else []) :: (List.range x.k).map fun k =>
        (sumSpan p x c k, entries ++ (if x.acc then [sumSpan p x c k] else []) ++ (into c).flatMap fun i =>
          regionFeeds p.opbuf (p.record x.ah) (operandIndex (resvLayout (p.record x.ah)) x.m x.k x.aoff i k))
  | .mcfin =>
    let w := fmtBits (resvFmt (p.record x.ah)) / 8
    ((List.range x.n).filter fun c => decide (0 < sext (p.opbuf.read (countSpan p x c).1 4) 32)).flatMap (fun c => (List.range x.k).map fun k =>
        ((resvBase (p.record x.ah) + w * (x.aoff + c * x.k + k), w), [countSpan p x c, sumSpan p x c k]))
      ++ (List.range (x.n / 8)).map fun b =>
        ((resvBase (p.record x.ih) + 8 * x.ioff + b, 1), (List.range 8).map fun i => countSpan p x (8 * b + i))

/-- Some byte of a range is among some addresses. -/
def Bits.meets (r : Bits) (marks : List Nat) : Bool := marks.any fun a => decide (r.1 ≤ a) && decide (a < r.1 + r.2)

/-- Memory of the operand buffer and flags as an operation leaves them. -/
abbrev MatRun := Bytes × Word

/-- An element is written unless a poisoned byte fed it (R309). -/
def MatRun.put (r : MatRun) (bad : List Nat) (a n x : Nat) : MatRun := if bad.contains a then r else (r.1.write a n x, r.2)

/-- Tile `t` of the outputs (R300). -/
def matTile (p : Panel) (x : MatBlock) (bad : List Nat) (t : Nat) : MatRun :=
  let d := p.record x.dh
  let w := accBytes (resvFmt d)
  let a : MatSide := ⟨p.record x.ah, x.aoff, x.m, x.k⟩
  let b : MatSide := ⟨p.record x.bh, x.boff, x.n, x.k⟩
  let i0 := t / (x.n / 64) * 64
  let j0 := t % (x.n / 64) * 64
  (List.range 4096).foldl (fun (r : MatRun) e =>
    let i := i0 + e / 64
    let j := j0 + e % 64
    let v := matElement p.opbuf d x a b i j
    MatRun.put (r.1, r.2 ||| v.2) bad (resvBase d + w * accIndex x i j) w v.1) (p.opbuf, 0)

/-! ## The comparator chain (R315) -/

/-- A distance as an ordered value; `none` for a NaN. -/
def chainKey (f v : Nat) : Option Int := if f = 9 then some (sext v 32) else if (decodeFloat fmt32 v).isNan then none else some (valueKey fmt32 v)

/-- The best column so far: its index and value. -/
def chainStep (x : MatBlock) (f : Nat) (best : Nat × Nat) (ix v : Nat) (tieWins : Bool) : Nat × Nat :=
  match chainKey f v with
  | none => best
  | some k =>
    if best.1 = 0xFFFFFFFF then (ix, v)
    else
      match chainKey f best.2 with
      | none => (ix, v)
      | some b => if (if x.sense then decide (b < k) else decide (k < b)) || (k == b && tieWins) then (ix, v) else best

/-- The index entry of row `i` (R315, R317). -/
def chainRow (buf : Bytes) (d ixr : BitVec 128) (x : MatBlock) (i : Nat) : Nat × Nat :=
  let f := resvFmt d
  let best := (List.range x.n).foldl (fun best j =>
    chainStep x f best (x.cbase + j) (buf.read (resvBase d + 4 * accIndex x i j) 4) x.tie) (0xFFFFFFFF, 0x7FC00000)
  if x.merge then
    let e := resvBase ixr + 8 * (x.ioff + i)
    let px := buf.read e 4
    if px = 0xFFFFFFFF then best else chainStep x f best px (buf.read (e + 4) 4) (!x.tie)
  else best

/-- The chain drains every row. -/
def chainRun (p : Panel) (x : MatBlock) (bad : List Nat) : MatRun :=
  let d := p.record x.dh
  let ixr := p.record x.ih
  (List.range x.m).foldl (fun (r : MatRun) i =>
    let b := chainRow r.1 d ixr x i
    r.put bad (resvBase ixr + 8 * (x.ioff + i)) 8 (b.1 + 2 ^ 32 * b.2)) (p.opbuf, 0)

/-! ## Centroids (R318, R319) -/

/-- MCACC. -/
def accumulateRows (p : Panel) (x : MatBlock) (bad : List Nat) : MatRun :=
  let a : MatSide := ⟨p.record x.ah, x.aoff, x.m, x.k⟩
  let sums := resvBase (p.record x.dh)
  let counts := resvBase (p.record x.bh)
  let entries := resvBase (p.record x.ih)
  let clear := (List.range x.n).foldl (fun (r : MatRun) c =>
    ((List.range x.k).foldl (fun (r : MatRun) k => r.put bad (sums + 4 * sumIndex x c k) 4 0) r).put bad
      (counts + 4 * (x.boff + c)) 4 0) (p.opbuf, 0)
  (List.range x.m).foldl (fun (r : MatRun) i =>
    let ix := r.1.read (entries + 8 * (x.ioff + i)) 4
    if ix = 0xFFFFFFFF ∨ ix < x.cbase ∨ x.cbase + x.n ≤ ix then r
    else
      let c := ix - x.cbase
      let r1 := (List.range x.k).foldl (fun (r : MatRun) k =>
        let at_ := sums + 4 * sumIndex x c k
        let e := a.index i k
        let v := blockNum (resvFmt a.r) (elemBits (regionByte r.1 a.r) (resvFmt a.r) e) (regionScale r.1 a.r e)
          (regionSide r.1 a.r (resvXoff a.r) (e / 32))
        let n := accumulateFloat 1 x.sat (r.1.read at_ 4) (some v)
        MatRun.put (r.1, r.2 ||| n.2) bad at_ 4 n.1) r
      let at_ := counts + 4 * (x.boff + c)
      let n := sext (r1.1.read at_ 4) 32 + 1
      if 2 ^ 31 ≤ n then (r1.1, r1.2 ||| flagSATINT) else r1.put bad at_ 4 (wrap n 32)) (if x.acc then (p.opbuf, 0) else clear)

/-- A centroid element of MCFIN: the sum divided by a positive count. -/
def centroid (g : Fmt) (sum n : Nat) : FRes :=
  match decodeFloat fmt32 sum with
  | .nan _ => (g.nan, 0)
  | .inf neg => (g.inf neg, 0)
  | .zero neg => (g.zero neg, 0)
  | .fin neg m e =>
    let r := if 0 ≤ e then roundRatio g rneCfg true neg (m * 2 ^ e.toNat) n else roundRatio g rneCfg true neg m (2 ^ (-e).toNat * n)
    (r.1, if r.2 &&& flagOF != 0 then flagSATNARROW else 0)

/-- MCFIN. -/
def finishCentroids (p : Panel) (x : MatBlock) (bad : List Nat) : MatRun :=
  let ar := p.record x.ah
  let g := (fmtFloat (resvFmt ar)).getD fmt32
  let w := fmtBits (resvFmt ar) / 8
  let r := (List.range x.n).foldl (fun (r : MatRun) c =>
    let n := sext (r.1.read (resvBase (p.record x.bh) + 4 * (x.boff + c)) 4) 32
    if n ≤ 0 then r
    else (List.range x.k).foldl (fun (r : MatRun) k =>
      let v := centroid g (r.1.read (resvBase (p.record x.dh) + 4 * sumIndex x c k) 4) n.toNat
      MatRun.put (r.1, r.2 ||| v.2) bad (resvBase ar + w * (x.aoff + c * x.k + k)) w v.1) r) (p.opbuf, 0)
  (List.range (x.n / 8)).foldl (fun (r : MatRun) b =>
    let v := (List.range 8).foldl (fun v i =>
      if sext (p.opbuf.read (resvBase (p.record x.bh) + 4 * (x.boff + 8 * b + i)) 4) 32 ≤ 0 then v + 2 ^ i else v) 0
    r.put bad (resvBase (p.record x.ih) + 8 * x.ioff + b) 1 v) r

/-! ## Completion (R300, R304, R314) -/

/-- What step `t` of an operation does. (log entry 36: DEDUCED) -/
def MatOp.run (o : MatOp) (p : Panel) (bad : List Nat) (t : Nat) : MatRun :=
  match o.kind with
  | .mma => matTile p o.blk bad t
  | .mdist => if t < o.blk.m / 64 * (o.blk.n / 64) then matTile p o.blk bad t else chainRun p o.blk bad
  | .mcacc => accumulateRows p o.blk bad
  | .mcfin => finishCentroids p o.blk bad

/-- The elements that step `tile` of an operation writes whose data poisoned bytes feed, and the others (R309). -/
def State.matFeeds (s : State) (p : Panel) (o : MatOp) (tile : Nat) : List Bits × List Bits :=
  let marks := (s.bad.filter fun x => x.region == .opbuf p.id).map fun x => x.addr
  if marks.isEmpty then ([], [])
  else
    let fs := stepFeeds o.kind p o.blk tile
    ((fs.filter fun x => x.2.any (Bits.meets · marks)).map (·.1), (fs.filter fun x => !x.2.any (Bits.meets · marks)).map (·.1))

/-- A panel of an operation stops for poisoned bytes it has read, and the error is counted when reading has found it (R309, R481). -/
def State.matPoison (s : State) (o : MatOp) (dead bad : List Nat) : State :=
  let s1 := if bad.isEmpty then s else s.onDie (dieOf o.core) fun d => { d with uncorr := (d.uncorr + 1) % 2 ^ 64 }
  if dead.isEmpty && bad.isEmpty then s1
  else s1.poisonStop o.panel o.skein 0 (BitVec.allOnes 64)

/-- MATRIX_TILE_COMPLETE (R300, R302, R304, R309, R314): the running operation of a core makes its next step, number
`tile`; the counts of the step's tiles fall, and after the last one the operation arrives. `bad` are the operand-buffer
addresses of the elements that bytes found uncorrectable as they are read would feed. -/
def execMatrixTileComplete (core tile : Nat) (bad : List Nat) (s : State) : Out :=
  match (s.queueOf core).head? with
  | none => .next s
  | some o =>
    match s.panel? o.panel with
    | none => .next { s with mats := s.mats.filter fun x => x.id != o.id }
    | some p =>
      let steps := stepTiles o.kind p o.blk
      if !o.started ∨ tile ≠ o.done then .next s
      else
        let fs := s.matFeeds p o tile
        let dead := fs.1.map (·.1)
        let r := o.run p (bad ++ dead) tile
        let s1 := (fs.2.foldl (fun (s : State) x => s.heal (.opbuf p.id) x.1 x.2) (s.onPanel p.id fun q =>
          ((steps.getD tile []).foldl (fun (q : Panel) t => q.onTile t (· - 1)) { q with opbuf := r.1 }).onSkein o.skein fun k =>
            { k with fpflags := k.fpflags ||| (r.2 &&& fpflagsMask) })).matPoison o dead bad
        if tile + 1 < steps.length then
          .next { s1 with mats := s1.mats.map fun x => if x.id = o.id then { x with done := tile + 1 } else x }
        else .next ({ s1 with mats := s1.mats.filter fun x => x.id != o.id }.arriveRef o.obj false 0)

/-! ## Fragments and waits (R305, R307, R308) -/

/-- The binding word of FBIND. -/
def fbindFails (p : Panel) (h w : Nat) (z : Slot) : Option (Cause × Dword) :=
  let u := bits w 13 8
  let r := p.record h
  let n := 4096 * accBytes (resvFmt r)
  if 2 ^ 14 ≤ w ∨ bits w 7 7 ≠ 0 ∨ 47 < u then some (.illopnd, saTval z)
  else if !resvValid r then some (.perm, spaceTval 4 h 0)
  else if !([1, 2, 9].contains (resvFmt r)) ∨ resvLayout r ≠ 0 ∨ resvCmp r ≠ 0 then some (.illopnd, saTval z)
  else if resvLen r < n * (u + 1) then some (.perm, spaceTval 4 h (n * u))
  else none

/-- A fragment slot is bound or, with `none`, unbound. -/
def Skein.bindFrag (k : Skein) (n : Nat) (f : Option Frag) : Skein :=
  let rest := k.frags.filter fun x => x.1 != n
  { k with frags := match f with
      | none => rest
      | some x => rest.filter (fun y => decide (y.1 < n)) ++ (n, x) :: rest.filter (fun y => decide (n < y.1)) }

/-- FBIND (R305). -/
def execFbind (z : Slot) (m : FbindMod) (s : State) : Out :=
  runSlot { slot := z, hi := slotHigh (encode (.fbind z m)), form := { a := .scalarOrLit }, once := true } s fun fr alive s =>
    if (fr.active z alive).isEmpty then .done s [] [] []
    else
      let w := (fr.read32 z (fr.leader z) z.sa).toNat
      match fbindFails fr.p m.handle.val w z with
      | some (c, v) => .done s [] [] (fr.allTrap c v)
      | none => .done (s.onPanel fr.p.id fun p => p.onSkein fr.kx fun k =>
          k.bindFrag m.slotN.val (some ⟨m.handle.val, bits w 13 8, bits w 6 0⟩)) [] [] []

/-- FBIND.UNB (R305). -/
def execFbindUnb (z : Slot) (n : Fin 8) (s : State) : Out :=
  runSlot { slot := z, hi := slotHigh (encode (.fbindUnb z n)), form := {}, once := true } s fun fr alive s =>
    if (fr.active z alive).isEmpty then .done s [] [] []
    else .done (s.onPanel fr.p.id fun p => p.onSkein fr.kx fun k => k.bindFrag n.val none) [] [] []

/-- MWAIT in its three forms (R308): it holds the skein until the condition, then acquires at panel scope. -/
def runMwait (i : Instr) (z : Slot) (holds : State → Frame → Bool) (s : State) : Out :=
  runSlot { slot := z, hi := slotHigh (encode i), form := {}, once := true } s fun fr alive s =>
    if (fr.active z alive).isEmpty then .done s [] [] []
    else if holds s fr then .done (s.acquire fr.p.core fr.p.fn .panel) [] [] []
    else .wait s

/-- MWAIT of one tile. -/
def execMwait (z : Slot) (h : Fin 16) (s : State) : Out :=
  runMwait (.mwait z h) z (fun _ fr => fr.p.tileCount h.val z.lit.toNat == 0) s
/-- MWAIT.H. -/
def execMwaitH (z : Slot) (h : Fin 16) (s : State) : Out :=
  runMwait (.mwaitH z h) z (fun _ fr => (List.range 48).all fun u => fr.p.tileCount h.val u == 0) s
/-- MWAIT.ALL. -/
def execMwaitAll (z : Slot) (s : State) : Out :=
  runMwait (.mwaitAll z) z (fun s fr => !s.mats.any fun o => o.panel == fr.p.id && o.skein == fr.kx) s

/-- Some engine operation of the panel names a handle (R228). -/
def State.handleBusy (s : State) (panel h : Nat) : Bool :=
  (s.mats.any fun o => o.panel == panel && (blockHandles o.kind o.blk).contains h)
    || s.copyOps.any fun o => o.panel == panel && o.handles.contains h

/-- A handle's record, bindings and tile counts are cleared (R228, R307). -/
def Panel.freeHandle (p : Panel) (h : Nat) : Panel :=
  { p with
    resv := cellSet 0 p.resv h 0
    tiles := p.tiles.filter fun t => t.1 / 48 != h
    skeins := p.skeins.map fun k => { k with frags := k.frags.filter fun f => f.2.handle != h } }

/-- OBREL (R228, R307). -/
def execObrel (m : Mem) (s : State) : Out :=
  runSlot { slot := m.slot, hi := slotHigh (encode (.obrel m)), form := {}, once := true } s fun fr alive s =>
    let h := m.slot.lit.toNat
    if (fr.active m.slot alive).isEmpty then .done s [] [] []
    else if s.handleBusy fr.p.id h then .wait s
    else .done (s.onPanel fr.p.id fun p => if resvValid (p.record h) then p.freeHandle h else p) [] [] []

end Sys2Proof.Machine
end

