-- ==== Sys2Proof/Machine/Rays.lean ====
section
/-!
DEFINITION. Sys2Proof/Machine/Rays.lean: traversal state records and threads, TRACE, TRESUME, TWAIT, REPACK
(spec/19_geometry_and_rays.md R337 to R349, R488).
-/
namespace Sys2Proof.Machine

/-! ## Exact numbers -/

/-- A rational number or an infinity. -/
inductive Ext where
  | ninf
  | fin (q : Rat)
  | pinf
deriving DecidableEq, Repr

/-- The order of extended numbers. -/
def Ext.le : Ext → Ext → Bool
  | .ninf, _ => true
  | _, .pinf => true
  | .fin a, .fin b => decide (a ≤ b)
  | _, _ => false

/-- The larger of two. -/
def Ext.max (a b : Ext) : Ext := if a.le b then b else a
/-- The smaller of two. -/
def Ext.min (a b : Ext) : Ext := if a.le b then a else b

/-- `m · 2^e` as a rational. -/
def scaledRat (m e : Int) : Rat := if 0 ≤ e then mkRat (m * 2 ^ e.toNat) 1 else mkRat m (2 ^ (-e).toNat)

/-- The exact value of FP32 bits; `none` for a NaN. -/
def extOf (w : Word) : Option Ext :=
  match decodeFloat fmt32 w.toNat with
  | .nan _ => none
  | .inf neg => some (if neg then .ninf else .pinf)
  | .zero _ => some (.fin 0)
  | .fin neg m e => some (.fin (scaledRat (if neg then -(m : Int) else m) e))

/-- The exact value of finite FP32 bits. -/
def ratOf (w : Word) : Option Rat :=
  match extOf w with
  | some (.fin q) => some q
  | _ => none

/-- A number rounded into FP32. -/
def roundExt (rm : Rnd) : Ext → Word
  | .ninf => BitVec.ofNat 32 (fmt32.inf true)
  | .pinf => BitVec.ofNat 32 (fmt32.inf false)
  | .fin q =>
    if q = 0 then 0
    else BitVec.ofNat 32 (roundRatio fmt32 { rm := rm, ftz := false } false (decide (q < 0)) q.num.natAbs q.den).1

/-! ## Records (R340, R341) -/

/-- A traversal state record. -/
structure RayRec where
  org : List Word
  tmin : Word
  dir : List Word
  tmax : Word
  next : Nat
  hit : Nat
  hitu : Word
  hitv : Word
  stk : Nat
  ctl : Nat
deriving DecidableEq, Repr

/-- A record's fields. -/
def parseRay (b : List Byte) : RayRec :=
  let f (off n : Nat) : Nat := leNat ((b.drop off).take n)
  let word (off : Nat) : Word := BitVec.ofNat 32 (f off 4)
  { org := [word 0, word 4, word 8], tmin := word 12, dir := [word 16, word 20, word 24], tmax := word 28, next := f 32 8
    hit := f 40 8, hitu := word 48, hitv := word 52, stk := f 56 4, ctl := f 60 4 }

/-- A record's bytes. -/
def RayRec.bytes (r : RayRec) : List Byte :=
  (r.org ++ [r.tmin] ++ r.dir ++ [r.tmax]).flatMap (fun w => leBytes w.toNat 4) ++ leBytes r.next 8 ++ leBytes r.hit 8
    ++ leBytes r.hitu.toNat 4 ++ leBytes r.hitv.toNat 4 ++ leBytes r.stk 4 ++ leBytes r.ctl 4

/-- STATUS. -/
def RayRec.status (r : RayRec) : Nat := r.ctl % 8
/-- A bit of CTL: 3 FAULT, 4 TERM, 5 CULLB, 6 OPAQ, 7 DONE, 8 RPTD, 9 OVF. -/
def RayRec.flag (r : RayRec) (b : Nat) : Bool := r.ctl.testBit b
/-- STATUS takes a value. -/
def RayRec.setStatus (r : RayRec) (v : Nat) : RayRec := { r with ctl := r.ctl / 8 * 8 + v }
/-- A bit of CTL takes a value. -/
def RayRec.setFlag (r : RayRec) (b : Nat) (v : Bool) : RayRec :=
  { r with ctl := if r.ctl.testBit b = v then r.ctl else if v then r.ctl + 2 ^ b else r.ctl - 2 ^ b }
/-- SP. -/
def RayRec.sp (r : RayRec) : Nat := bits r.stk 22 16
/-- SP takes a value. -/
def RayRec.setSp (r : RayRec) (v : Nat) : RayRec := { r with stk := r.stk - 2 ^ 16 * r.sp + 2 ^ 16 * v }
/-- The stack's capacity in entries. -/
def RayRec.cap (r : RayRec) : Nat := bits r.stk 29 24 + 1
/-- The stack's first byte. -/
def RayRec.base (r : RayRec) : Nat := 8 * bits r.stk 14 0
/-- A reserved bit is set (R340, R346). -/
def RayRec.reserved (r : RayRec) : Bool :=
  bits r.ctl 31 10 != 0 || bits r.stk 31 30 != 0 || bits r.stk 23 23 != 0 || bits r.stk 15 15 != 0

/-- The child type of a step word. -/
def stepType (w : Nat) : Nat := bits w 58 57
/-- The address of a step word. -/
def stepAddr (w : Nat) : Nat := w % 2 ^ 57
/-- A step word. -/
def stepWord (type addr : Nat) : Nat := type * 2 ^ 57 + addr % 2 ^ 57

/-- The record with a handle in a panel's scratchpad. -/
def Panel.ray (p : Panel) (h : Nat) : RayRec := parseRay (p.scratch.list (64 * h) 64)
/-- A record takes a value. -/
def State.setRay (s : State) (panel h : Nat) (r : RayRec) : State :=
  (s.onPanel panel fun p => { p with scratch := p.scratch.put (64 * h) r.bytes }).heal (.scratch panel) (64 * h) 64

/-- The ray finishes MISS without a fetch (R343). -/
def RayRec.dead (r : RayRec) : Bool :=
  (r.org ++ r.dir).any (fun w => (ratOf w).isNone) || (extOf r.tmin).isNone || (extOf r.tmax).isNone
    || r.dir.all fun w => ratOf w == some 0

/-- `finish` of R344. -/
def RayRec.finish (r : RayRec) : RayRec := r.setStatus (if r.hit = 0 then 2 else 3)
/-- `commit` of R344. -/
def RayRec.commit (r : RayRec) (t u v : Word) : RayRec := { r with tmax := t, hit := r.next, hitu := u, hitv := v }

/-- The FP32 order of two words; false with a NaN. -/
def wordLe (a b : Word) : Bool :=
  match extOf a, extOf b with
  | some x, some y => x.le y
  | _, _ => false
/-- The strict FP32 order of two words; false with a NaN. -/
def wordLt (a b : Word) : Bool :=
  match extOf a, extOf b with
  | some x, some y => !y.le x
  | _, _ => false

/-! ## Tests (R337 to R339) -/

/-- One axis of the box test: the near and far parameters, or a miss. -/
def axisTest (lo hi o d : Rat) : Option (Ext × Ext) :=
  if d ≠ 0 then
    let a := (lo - o) / d
    let b := (hi - o) / d
    some (if a ≤ b then (.fin a, .fin b) else (.fin b, .fin a))
  else if lo ≤ o ∧ o ≤ hi then some (.ninf, .pinf)
  else none

/-- The exact entry of child `i` of a box node, when the ray hits it (R337, R339). -/
def childEntry (r : RayRec) (b : List Byte) (i : Nat) : Option Ext :=
  let f (off n : Nat) : Nat := leNat ((b.drop off).take n)
  if bits (f 15 1) (2 * i + 1) (2 * i) = 0 then none
  else
    let one (a : Nat) : Option (Ext × Ext) :=
      let lo := f (16 + 6 * i + a) 1
      let hi := f (19 + 6 * i + a) 1
      match ratOf (BitVec.ofNat 32 (f (4 * a) 4)), ratOf (r.org.getD a 0), ratOf (r.dir.getD a 0) with
      | some og, some o, some d =>
        if hi < lo then none
        else
          let e := sext (f (12 + a) 1) 8
          axisTest (og + scaledRat lo e) (og + scaledRat hi e) o d
      | _, _, _ => none
    match one 0, one 1, one 2, extOf r.tmin, extOf r.tmax with
    | some x, some y, some z, some tmin, some tmax =>
      let entry := (x.1.max y.1).max z.1
      let exit := (x.2.min y.2).min z.2
      if entry.le exit && tmin.le exit && entry.le tmax then some entry else none
    | _, _, _, _, _ => none

/-- The step word of child `i`. -/
def childWord (b : List Byte) (i : Nat) : Nat :=
  let f (off n : Nat) : Nat := leNat ((b.drop off).take n)
  stepWord (bits (f 15 1) (2 * i + 1) (2 * i)) (f 40 8 % 2 ^ 57 + 16 * f (48 + 4 * i) 4)

/-- A hit child put at its place: ascending entry, ties by slot. -/
def insertChild (c : Ext × Nat) : List (Ext × Nat) → List (Ext × Nat)
  | [] => [c]
  | x :: xs => if !(x.1.le c.1) || (c.1.le x.1 && decide (c.2 < x.2)) then c :: x :: xs else x :: insertChild c xs

/-- H of R344: the children hit, in the order they are visited. -/
def boxHits (r : RayRec) (b : List Byte) : List (Ext × Nat) :=
  ((List.range 4).filterMap fun i => (childEntry r b i).map fun e => (e, i)).foldr insertChild []

/-- A vector of three. -/
abbrev Vec := Rat × Rat × Rat
/-- The difference of two vectors. -/
def vsub (a b : Vec) : Vec := (a.1 - b.1, a.2.1 - b.2.1, a.2.2 - b.2.2)
/-- The scalar product. -/
def vdot (a b : Vec) : Rat := a.1 * b.1 + a.2.1 * b.2.1 + a.2.2 * b.2.2
/-- The vector product. -/
def vcross (a b : Vec) : Vec := (a.2.1 * b.2.2 - a.2.2 * b.2.1, a.2.2 * b.1 - a.1 * b.2.2, a.1 * b.2.1 - a.2.1 * b.1)

/-- A finite vector. -/
def vecOf (ws : List Word) : Option Vec :=
  match ratOf (ws.getD 0 0), ratOf (ws.getD 1 0), ratOf (ws.getD 2 0) with
  | some x, some y, some z => some (x, y, z)
  | _, _, _ => none

/-- The candidate a triangle record gives: `t_r`, `u` and `v` rounded (R339). -/
def triangleHit (r : RayRec) (b : List Byte) : Option (Word × Word × Word) :=
  let word (i : Nat) : Word := BitVec.ofNat 32 (leNat ((b.drop (4 * i)).take 4))
  match vecOf [word 0, word 1, word 2], vecOf [word 3, word 4, word 5], vecOf [word 6, word 7, word 8], vecOf r.org, vecOf r.dir with
  | some v0, some v1, some v2, some o, some d =>
    let e1 := vsub v1 v0
    let e2 := vsub v2 v0
    let n := vcross e1 e2
    let det := vdot d n
    if det = 0 ∨ (r.flag 5 ∧ 0 < det) then none
    else
      let w := vsub o v0
      let u := vdot d (vcross w e2) / det
      let v := vdot d (vcross e1 w) / det
      let t := roundExt .rne (.fin (-(vdot w n) / det))
      if 0 ≤ u ∧ 0 ≤ v ∧ u + v ≤ 1 ∧ wordLe r.tmin t ∧ wordLt t r.tmax then
        some (t, roundExt .rne (.fin u), roundExt .rne (.fin v))
      else none
  | _, _, _, _, _ => none

/-! ## The thread (R344, R347, R488) -/

/-- NEXT after words of type 0 are dropped and the stack popped; `none` finishes. `fuel` bounds the pops. -/
def RayRec.settle (r : RayRec) (scratch : Bytes) : Nat → Option RayRec
  | 0 => none
  | fuel + 1 =>
    if stepType r.next ≠ 0 then some r
    else if r.sp = 0 then none
    else ({ (r.setSp (r.sp - 1)) with next := scratch.read (r.base + 8 * (r.sp - 1)) 8 }).settle scratch fuel

/-- How a thread's step ends. -/
inductive RayEnd where
  /-- The thread goes on; the child it fetches next has this entry. -/
  | on (r : RayRec) (scratch : Bytes) (lead : Option (Option (Int × Nat)))
  /-- It stops: finished, or stopped by a fault. -/
  | stop (r : RayRec)
  /-- It stops with a candidate whose values it keeps: t, u, v and whether its record is the run's last. -/
  | suspend (r : RayRec) (keep : List Word)

/-- The byte of the first stack position that could not be written (R346), when some push of `n` entries overflows (R341). -/
def RayRec.overflowAt (r : RayRec) (limit n : Nat) : Option Nat :=
  ((List.range n).map fun i => r.sp + i).findSome? fun k =>
    if r.cap ≤ k then some (r.base + 8 * r.cap) else if limit < r.base + 8 * k + 8 then some (r.base + 8 * k) else none

/-- An entry as the thread keeps it. -/
def Ext.lead : Ext → Option (Int × Nat)
  | .fin q => some (q.num, q.den)
  | _ => none

/-- The entry a procedural suspension uses (R488). -/
def leadExt (l : Option (Option (Int × Nat))) : Ext :=
  match l with
  | some (some x) => .fin (mkRat x.1 x.2)
  | _ => .ninf

/-- A box node. -/
def boxStep (r : RayRec) (limit : Nat) (scratch : Bytes) (b : List Byte) : RayEnd :=
  match boxHits r b with
  | [] => .on { r with next := 0 } scratch none
  | h :: rest =>
    match r.overflowAt limit rest.length with
    | some _ => .stop ((r.setFlag 3 true).setFlag 9 true)
    | none =>
      let s1 := rest.reverse.zipIdx.foldl (fun (m : Bytes) (x : (Ext × Nat) × Nat) =>
        m.write (r.base + 8 * (r.sp + x.2)) 8 (childWord b x.1.2)) scratch
      .on { (r.setSp (r.sp + rest.length)) with next := childWord b h.2 } s1 (some h.1.lead)

/-- The record after the candidate, or 0 after LAST. -/
def afterRecord (w : Nat) (last : Bool) : Nat :=
  if last then 0 else stepWord (stepType w) (stepAddr w + if stepType w = 2 then 48 else 16)

/-- A bit of a record's flags: 0 OPAQUE, 1 LAST. -/
def recordFlag (b : List Byte) (off bit : Nat) : Bool := (leNat ((b.drop off).take 4)).testBit bit

/-- A triangle record; one that crosses a 4 KiB boundary is never hit (R338). -/
def triangleStep (r : RayRec) (scratch : Bytes) (b : List Byte) : RayEnd :=
  let last := recordFlag b 44 1
  let on (r : RayRec) : RayEnd := .on { r with next := afterRecord r.next last } scratch none
  if 4096 < stepAddr r.next % 4096 + 48 then on r
  else
    match triangleHit r b with
    | none => on r
    | some (t, u, v) =>
      if recordFlag b 44 0 || r.flag 6 then
        let r1 := r.commit t u v
        if r.flag 4 then .stop r1.finish else on r1
      else .suspend (r.setStatus 5) [t, u, v, if last then 1 else 0]

/-- A procedural record (R344, R488). -/
def procStep (r : RayRec) (lead : Option (Option (Int × Nat))) (b : List Byte) : RayEnd :=
  let tmin := (extOf r.tmin).getD .ninf
  .suspend (r.setStatus 4) [roundExt .rdn ((leadExt lead).max tmin), 0, 0, if recordFlag b 8 1 then 1 else 0]

/-- What a thread reads before its fetch is marked: record `h`, and the stack's entries from `sp` on, which it pops (R344, R479). -/
def State.raySick (s : State) (p : Panel) (h sp : Nat) : Bool :=
  let r := p.ray h
  s.poisoned (.scratch p.id) (64 * h) 64 || s.poisoned (.scratch p.id) (r.base + 8 * sp) (8 * (r.sp - sp))

/-- What POISON names when one of `n` bytes that a thread fetches at an address is marked (R54, R479). -/
def State.fetchSick (s : State) (p : Panel) (mode : Mode) (a n : Nat) : Option Dword :=
  if s.bad.isEmpty then none
  else ((List.range n).find? fun i => s.siteBad p mode .global (a + i)).map fun i => sitePoison .global (a + i)

/-- Bytes a thread fetches at a step word. -/
def fetchSize (type : Nat) : Nat := if type = 1 then 64 else if type = 2 then 48 else 16

/-- The threads of a panel's record. -/
def State.rayOf (s : State) (panel h : Nat) : Option Ray := s.rays.find? fun t => t.panel == panel && t.record == h
/-- A thread is gone. -/
def State.dropRay (s : State) (panel h : Nat) : State :=
  { s with rays := s.rays.filter fun t => !(t.panel == panel && t.record == h) }
/-- The values a suspended record keeps. -/
def Panel.cand (p : Panel) (h : Nat) : Option (List Word) := (p.cands.find? fun c => c.1 == h).map fun c => c.2
/-- A record's kept values change. -/
def Panel.setCand (p : Panel) (h : Nat) (v : Option (List Word)) : Panel :=
  let rest := p.cands.filter fun c => c.1 != h
  { p with cands := match v with
      | none => rest
      | some x => (h, x) :: rest }

/-- The byte of a record's flags: triangle records have them at 44, procedural ones at 8 (R338). -/
def flagsAt (type : Nat) : Nat := if type = 2 then 44 else 8

/-- What a thread makes of the bytes it fetched at NEXT; one that resumes behind a candidate passes its record by (R345). -/
def Ray.act (t : Ray) (r : RayRec) (limit : Nat) (scratch : Bytes) (fetched : List Byte) : RayEnd :=
  if t.skip then .on { r with next := afterRecord r.next (recordFlag fetched (flagsAt (stepType r.next)) 1) } scratch none
  else match stepType r.next with
    | 1 => boxStep r limit scratch fetched
    | 2 => triangleStep r scratch fetched
    | _ => procStep r t.lead fetched

/-- A thread has read poisoned data: it ends, its record as it stands, and its panel stops (R479). -/
def State.sickRay (s : State) (t : Ray) (v : Dword) : State := (s.dropRay t.panel t.record).poisonHalt t.panel t.skein (laneBit t.lane) v

/-- TRAVERSAL_FETCH (R344, R347): the thread of record `n` of panel `p` makes its next fetch and acts on it. Its fetch's walk need not wait
for the core's stores (R418, R453); a thread of a panel that is being saved has stopped (R429). -/
def execTraversalFetch (p n : Nat) (s : State) : Out :=
  match s.panel? p, s.rayOf p n with
  | some q, some t =>
    if q.saving.isSome then .next s
    else if s.raySick q n ((((q.ray n).settle q.scratch 130).map RayRec.sp).getD 0) then .next (s.sickRay t (BitVec.allOnes 64))
    else match (q.ray n).settle q.scratch 130 with
    | none => .next ((s.setRay p n { (q.ray n).setSp 0 with next := 0 }.finish).dropRay p n)
    | some r =>
      let s0 := s.flushCore t.core
      match s0.engBytes q t.mode .global (stepAddr r.next) (fetchSize (stepType r.next)) with
      | .error .unbacked => .fault .unbacked
      | .error .declined => .next (s.dropRay p n)
      | .error (.miss va k) => .next (s.engMiss q t.mode va k)
      | .error (.fault _) =>
        .next (((s.setRay p n (((r.setFlag 3 true).setFlag 8 false).setFlag 9 false)).dropRay p n).endWalks p none)
      | .ok b =>
        let s1 := s0.endWalks p none
        match s0.fetchSick q t.mode (stepAddr r.next) (fetchSize (stepType r.next)) with
        | some v => .next (s1.sickRay t v)
        | none => match t.act r q.kernel.scratch q.scratch b with
        | .on r1 m1 lead =>
          let s2 := (s1.onPanel p fun q => { q with scratch := m1 }).heal (.scratch p) (r.base + 8 * r.sp) (8 * (r1.sp - r.sp))
          .next { s2.setRay p n r1 with rays := s1.rays.map fun x =>
            if x.panel = p ∧ x.record = n then { x with lead := lead, skip := false } else x }
        | .stop r1 => .next ((s1.setRay p n r1).dropRay p n)
        | .suspend r1 keep =>
          let next := BitVec.ofNat 64 r1.next
          .next (((s1.setRay p n r1).dropRay p n).onPanel p fun q => q.setCand n (some (keep ++ [loWord next, hiWord next])))
  | _, _ => .next s

/-! ## TRACE, TRESUME, TWAIT (R342 to R347) -/

/-- The record's checks that every form makes: alignment, then the declared scratchpad (R343, R345, R346). -/
def recordTrap (p : Panel) (off : Nat) : Option (Cause × Dword) :=
  if off % 64 != 0 then some (.align, spaceTval 1 0 off)
  else if p.kernel.scratch < off + 64 then some (.perm, spaceTval 1 0 (max off p.kernel.scratch))
  else none

/-- What one lane of a traversal instruction does. -/
inductive LaneEnd where
  | go (s : State)
  | trap (s : State) (c : Cause) (v : Dword)
  | hold (s : State)

/-- Maximum trace depth (R69, R378). -/
def Panel.traceDepth (p : Panel) : Nat := bits p.kernel.traps.toNat 8 4
/-- Trace payload registers (R69, R378). -/
def Panel.tracePayload (p : Panel) : Nat := bits p.kernel.traps.toNat 15 9

/-- A thread starts at a record; `skip` has it pass by the record at NEXT first (R345). -/
def State.startRay (s : State) (p : Panel) (k l : Nat) (mode : Mode) (h : Nat) (skip : Bool) : State :=
  { s with rays := s.rays.filter (fun t => !(t.panel == p.id && t.record == h)) ++ [⟨p.id, k, l, p.core, mode, h, none, skip⟩] }

/-- A lane's trace depth takes a value. -/
def State.setDepth (s : State) (panel k l v : Nat) : State :=
  s.onPanel panel fun p => p.onSkein k fun q => q.onLane l fun a => { a with tdepth := v }

/-- A record that a lane reads is marked: the lane stops the panel (R479). -/
def State.sickRecord (s : State) (panel h : Nat) : Bool := s.poisoned (.scratch panel) (64 * h) 64

/-- TRACE for one lane (R343). -/
def State.traceLane (s : State) (fr : Frame) (z : Slot) (l : Nat) : LaneEnd :=
  let off := (fr.read32 z l z.sa).toNat
  match s.panel? fr.p.id with
  | none => .go s
  | some p =>
    match recordTrap p off with
    | some (c, v) => .trap s c v
    | none =>
      let h := off / 64
      let r := p.ray h
      if s.sickRecord p.id h then .trap s .poison (BitVec.allOnes 64)
      else if p.kernel.scratch < r.base + 8 * r.cap then .trap s .perm (spaceTval 1 0 (max r.base p.kernel.scratch))
      else if r.status ≠ 0 ∨ r.flag 3 ∨ r.flag 8 ∨ r.flag 9 ∨ r.reserved ∨ r.sp ≠ 0 then .trap s .illopnd (saTval z)
      else if p.traceDepth ≤ (fr.k.lane l).tdepth then .trap s .tdepth (BitVec.ofNat 64 (fr.k.lane l).tdepth)
      else
        let s1 := s.setDepth p.id fr.kx l ((fr.k.lane l).tdepth + 1)
        if r.dead then .go (s1.setRay p.id h ((r.setStatus 2).setFlag 7 false))
        else .go ((s1.setRay p.id h ((r.setStatus 1).setFlag 7 false)).startRay p fr.kx l fr.mode h false)

/-- Every active lane acts in ascending order; the state, the traps and the held lanes. -/
def runLanes (fr : Frame) (on : List Nat) (f : State → Nat → LaneEnd) (s : State) : State × List Trap × List Nat :=
  on.foldl (fun acc l =>
    match f acc.1 l with
    | .go s => (s, acc.2.1, acc.2.2)
    | .trap s c v => (s, acc.2.1 ++ [fr.trapAt l c v], acc.2.2)
    | .hold s => (s, acc.2.1, acc.2.2 ++ [l])) (s, [], [])

/-- TRACE (R342, R343). -/
def execTrace (z : Slot) (pcnt : Fin 128) (s : State) : Out :=
  runSlot
    { slot := z, hi := slotHigh (encode (.trace z pcnt))
      form := { a := .noFrag, b := if pcnt = 0 then .unused else .named pcnt.val }
      code := fun fr => if fr.p.tracePayload < pcnt.val then some (sbTval z) else none } s fun fr alive s =>
    let r := runLanes fr (fr.active z alive) (fun s l => s.traceLane fr z l) s
    .checks fr r.1 r.2.1

/-- What TRESUME makes of the record: the record, and whether the thread finishes (R345). (log entry 32: DESIGN CHOICE) -/
def resumeRecord (mode : Nat) (r : RayRec) (t u v : Word) : RayRec × Bool :=
  let commits := wordLe r.tmin t && wordLt t r.tmax
  match mode with
  | 0 => (r, false)
  | 1 => (if wordLt t r.tmax then { r with tmax := t } else r, false)
  | 2 => if commits then (r.commit t u v, r.flag 4) else (r, false)
  | 3 => (if commits then r.commit t u v else r, true)
  | _ => (r, true)

/-- LAST of the record at NEXT, when the engine has kept it since it suspended there (R345). -/
def keptLast (k : List Word) (next : Nat) : Option Bool :=
  if (pairOf (k.getD 4 0) (k.getD 5 0)).toNat = next then some (k.getD 3 0 == 1) else none

/-- TRESUME for one lane (R345). The thread that goes on fetches the record at NEXT for its LAST where the engine has not kept it. -/
def State.resumeLane (s : State) (fr : Frame) (z : Slot) (mode : Nat) (l : Nat) : LaneEnd :=
  let off := (fr.read32 z l z.sa).toNat
  match s.panel? fr.p.id with
  | none => .go s
  | some p =>
    match recordTrap p off with
    | some (c, v) => .trap s c v
    | none =>
      let h := off / 64
      let r := p.ray h
      if s.sickRecord p.id h then .trap s .poison (BitVec.allOnes 64)
      else if (r.status ≠ 4 ∧ r.status ≠ 5) ∨ r.flag 3 then .trap s .illopnd (saTval z)
      else
        let ws := fr.readWords z l z.sb 3
        let x := resumeRecord mode r (ws.getD 0 0) (ws.getD 1 0) (ws.getD 2 0)
        let s1 := s.onPanel p.id fun q => q.setCand h none
        if x.2 then .go (s1.setRay p.id h x.1.finish)
        else
          let go (next : Nat) (skip : Bool) : LaneEnd :=
            .go ((s1.setRay p.id h { x.1.setStatus 1 with next := next }).startRay p fr.kx l fr.mode h skip)
          match (p.cand h).bind fun k => keptLast k r.next with
          | some last => go (afterRecord r.next last) false
          | none => go r.next (decide (2 ≤ stepType r.next))

/-- TRESUME in a mode. -/
def runTresume (i : Instr) (z : Slot) (mode : Nat) (s : State) : Out :=
  runSlot
    { slot := z, hi := slotHigh (encode i)
      form := { a := .noFrag, b := if mode = 0 ∨ mode = 4 then .unused else .vregs 3 } } s fun fr alive s =>
    let r := runLanes fr (fr.active z alive) (fun s l => s.resumeLane fr z mode l) s
    .checks fr r.1 r.2.1

/-- TRESUME.CONT. -/
def execTresumeCont (z : Slot) (s : State) : Out := runTresume (.tresumeCont z) z 0 s
/-- TRESUME.SHORT. -/
def execTresumeShort (z : Slot) (s : State) : Out := runTresume (.tresumeShort z) z 1 s
/-- TRESUME.COMMIT. -/
def execTresumeCommit (z : Slot) (s : State) : Out := runTresume (.tresumeCommit z) z 2 s
/-- TRESUME.END. -/
def execTresumeEnd (z : Slot) (s : State) : Out := runTresume (.tresumeEnd z) z 3 s
/-- TRESUME.ABORT. -/
def execTresumeAbort (z : Slot) (s : State) : Out := runTresume (.tresumeAbort z) z 4 s

/-- The four words TWAIT writes (R346). Values no suspension kept are free. -/
def waitWords (s : State) (p : Panel) (h : Nat) (r : RayRec) : List Word :=
  let kept := (p.cand h).getD ((List.range 3).map fun i => BitVec.ofNat 32 (Config.freeBits (s.free + i)))
  match r.status with
  | 2 => [2, r.tmax, 0, 0]
  | 3 => [3, r.tmax, r.hitu, r.hitv]
  | 4 => [4, kept.getD 0 0, 0, 0]
  | _ => [5, kept.getD 0 0, kept.getD 1 0, kept.getD 2 0]

/-- The tval of a stack overflow (R346): the node at NEXT stands, so the pushes it would make are worked out again from
what the record says; the first position past the capacity or past the scratchpad is named. -/
def overflowTval (p : Panel) (r : RayRec) : Dword :=
  spaceTval 1 0 ((r.overflowAt p.kernel.scratch 4).getD (r.base + 8 * r.cap))

/-- TWAIT for one lane, at issue and again when the record changes (R346). `sa` is the tval that names SA. -/
def State.waitLane (s : State) (panel k l : Nat) (h : Nat) (dst : Option Nat) (sa : Dword) : LaneEnd :=
  match s.panel? panel with
  | none => .hold s
  | some p =>
    let r := p.ray h
    let lane := ((p.skein? k).map fun q => q.lane l).getD .absent
    if s.sickRecord panel h then .trap s .poison (BitVec.allOnes 64)
    else if r.status = 0 ∨ r.reserved ∨ 6 ≤ r.status then .trap s .illopnd sa
    else if r.flag 3 && !r.flag 8 then
      let s1 := s.setRay panel h (r.setFlag 8 true)
      if r.flag 9 then .trap s1 .perm (overflowTval p r) else .trap s1 .tftrav (BitVec.ofNat 64 (stepAddr r.next))
    else if r.flag 3 then
      .hold ((s.setRay panel h (((r.setFlag 3 false).setFlag 8 false).setFlag 9 false)).startRay p k l lane.mode h false)
    else if r.status = 1 then .hold s
    else
      let done := decide (r.status ≤ 3) && !r.flag 7
      let s1 := if done then (s.setRay panel h (r.setFlag 7 true)).setDepth panel k l (lane.tdepth - 1) else s
      let ws := match dst with
        | none => []
        | some d => ((List.range 4).map fun i => Target.v l (d + i)).zip (waitWords s p h r)
      let w : VarWrite := { VarWrite.blank with targets := ws.map (fun x => x.1), vals := ws }
      .go { (if ws.isEmpty then s1 else s1.onPanel panel fun q => q.onSkein k fun q => q.addOut w) with free := s.free + 3 }

/-- TWAIT (R346). -/
def execTwait (z : Slot) (s : State) : Out :=
  runSlot { slot := z, hi := slotHigh (encode (.twait z)), form := { dst := .vregs 4 4 true, a := .noFrag } } s fun fr alive s =>
    let dst := match z.dst with
      | .v n => some n.val
      | _ => none
    let r := runLanes fr (fr.active z alive) (fun s l =>
      let off := (fr.read32 z l z.sa).toNat
      match recordTrap fr.p off with
      | some (c, v) => .trap s c v
      | none => s.waitLane fr.p.id fr.kx l (off / 64) dst (saTval z)) s
    .checks fr (r.1.onPanel fr.p.id fun p => p.onSkein fr.kx fun k => k.onLanes r.2.2 fun l a =>
      { a with held := some (.twait ((fr.read32 z l z.sa).toNat / 64) dst (saTval z) fr.pc) }) r.2.1

/-! ## REPACK (R348, R349) -/

/-- Some outstanding variable-latency write has a lane as its target. -/
def VarWrite.ofLane (w : VarWrite) (l : Nat) : Bool :=
  w.targets.any fun t => match t with
    | .v m _ | .tSup m _ | .tHyp m _ | .k _ m => m == l
    | _ => false

/-- REPACK (R348): each lane of the issue set waits for its writes, then arrives, a release at panel scope, and is held. -/
def execRepack (z : Slot) (s : State) : Out :=
  runSlot
    { slot := z, hi := slotHigh (encode (.repack z)), form := { a := .noFrag }, illop := fun fr => fr.mode != .user
      waits := fun fr => fr.lanes.any fun l => fr.k.outs.any fun w => w.ofLane l } s fun fr alive s =>
    if s.rmwFlying fr.p.id fr.kx then .wait s
    else .done (s.onPanel fr.p.id fun p => p.onSkein fr.kx fun k => k.onLanes alive fun l a =>
      { a with held := some (.repack (fr.read32 z l z.sa) fr.pc) }) [] [] []

/-- The key and PC of a lane held at REPACK. -/
def Lane.repackAt (a : Lane) : Option (Word × Dword) :=
  match a.held with
  | some (.repack key at_) => some (key, at_)
  | _ => none

/-- A live lane in the order of R348. -/
structure Packed where
  key : Nat
  skein : Nat
  ix : Nat
  lane : Lane
  masks : List Bool

/-- The order of L. -/
def insertPacked (a : Packed) : List Packed → List Packed
  | [] => [a]
  | x :: xs =>
    if a.key < x.key ∨ (a.key = x.key ∧ (a.skein < x.skein ∨ (a.skein = x.skein ∧ a.ix < x.ix))) then a :: x :: xs
    else x :: insertPacked a xs

/-- The live lanes of a panel in the order of L. -/
def Panel.packed (p : Panel) : List Packed :=
  (p.skeins.flatMap fun k => (k.lanes.zipIdx.filter fun (x : Lane × Nat) => !x.1.exited).map fun (x : Lane × Nat) =>
    (⟨((x.1.repackAt.map fun (r : Word × Dword) => r.1).getD 0).toNat, k.ix, x.2, x.1, (List.range 8).map fun r => k.maskBit r x.2⟩ : Packed)).foldr
      insertPacked []

/-- Every live lane of the panel is held at a REPACK with one PC, and every result has come. -/
def Panel.mayRepack (p : Panel) : Bool :=
  let ls := p.skeins.flatMap fun k => k.lanes.filter fun a => !a.exited
  match ls.map Lane.repackAt with
  | some (_, pc) :: rest => rest.all (fun (x : Option (Word × Dword)) => x.any fun y => y.2 == pc) && p.skeins.all (fun k => k.results.isEmpty && k.outs.isEmpty)
      && p.halt.isNone
  | _ => false

/-- A slot after the repack: the moved lane's registers in the slot's lane (R349). (log entry 33: DEDUCED) -/
def Lane.repacked (slot : Lane) (from_ : Option (Packed × Bool)) (wake : Nat) : Lane :=
  match from_ with
  | none => { slot with exited := true, held := none }
  | some (m, moved) =>
    let next := nextPc ((m.lane.repackAt.map fun (r : Word × Dword) => r.2).getD m.lane.pc)
    let a : Lane := { slot with
      v := m.lane.v, tSup := m.lane.tSup, tHyp := m.lane.tHyp, origin := m.lane.origin, tdepth := m.lane.tdepth
      exited := false, held := none, park := none, yielding := false, mode := .user, pc := next, needTgt := false, wake := wake }
    if moved then { a with qUser := blankBank 16, qSup := blankBank 8, qHyp := blankBank 8 } else a

/-- The panel after its repack (R348, R349): every skein of the panel takes part, one that has retired too. -/
def Panel.repack (p : Panel) (cycle : Nat) : Panel :=
  let order := p.packed
  let at_ (k l : Nat) : Option (Packed × Bool) :=
    (order[32 * k + l]?).map fun m => (m, !(m.skein == k && m.ix == l))
  { p with skeins := p.skeins.map fun sk =>
      let bitsOf (r : Nat) : Word := laneMask ((List.range 32).filter fun l => (at_ sk.ix l).any fun m => m.1.masks.getD r false)
      { sk with
        lanes := sk.lanes.zipIdx.map fun (x : Lane × Nat) => x.1.repacked (at_ sk.ix x.2) (cycle + 1)
        retired := sk.retired && !((List.range 32).any fun l => (at_ sk.ix l).isSome)
        k := (List.range 8).foldl (fun (m : Regs) r => if r = 0 then m else m.set r (bitsOf r)) [] } }

/-- REPACK_EXECUTE (R348). -/
def execRepackExecute (p : Nat) (s : State) : Out :=
  match s.panel? p with
  | some q => if q.mayRepack then .next (s.setPanel (q.repack (s.cycle q.core))) else .next s
  | none => .next s

end Sys2Proof.Machine
end

