-- ==== Sys2Proof/Machine/Geometry.lean ====
section
/-!
DEFINITION. Sys2Proof/Machine/Geometry.lean: SNAP, EDGE, TRICLS, and what RAST submits
(spec/19_geometry_and_rays.md R326 to R336).
-/
namespace Sys2Proof.Machine

/-! ## Coordinates (R327 to R330) -/

/-- A per-lane variable-latency result written to DST when it lands (R21, R22, R327). -/
def runLaneLate (i : Instr) (z : Slot) (form : Form) (words : Nat) (f : Frame → Nat → Dword) (s : State) : Out :=
  runSlot { slot := z, hi := slotHigh (encode i), form := form } s fun fr alive s =>
    let ws := (fr.active z alive).flatMap fun l =>
      (fr.dstTargets l z.dst words).zip [loWord (f fr l), hiWord (f fr l)]
    .done (s.addWrite fr { VarWrite.blank with targets := ws.map (fun w => w.1), vals := ws }) [] [] []

/-- The integer of a coordinate word, when it is valid (R327). -/
def coord? (w : Word) : Option Int :=
  let v := sext w.toNat 32
  if -2 ^ 23 ≤ v ∧ v ≤ 2 ^ 23 - 1 then some v else none

/-- The marker of an invalid coordinate. -/
def badCoord : Nat := 0x80000000

/-- `z / 2^k` rounded to the nearest integer, ties to even. -/
def rneShift (z : Int) (k : Nat) : Int :=
  let r := (roundAt { rm := .rne, ftz := false } (decide (z < 0)) z.natAbs (2 ^ k) 0).1
  if z < 0 then -(r : Int) else r

/-- SNAP's value (R328). -/
def snapValue (a : Nat) (o : Int) : Nat :=
  let out (n : Int) : Nat := if -2 ^ 23 ≤ n ∧ n ≤ 2 ^ 23 - 1 then wrap n 32 else badCoord
  match decodeFloat fmt32 a with
  | .nan _ | .inf _ => badCoord
  | .zero _ => out (-o * 256)
  | .fin neg m e =>
    let v : Int := if neg then -(m : Int) else m
    if 0 ≤ e then out ((v * 2 ^ e.toNat - o) * 256)
    else out (rneShift ((v - o * 2 ^ (-e).toNat) * 256) (-e).toNat)

/-- The form of SNAP. (log entry 25: DEDUCED) -/
def formSnap : Form := { dst := .vregs 1 1 false, a := .noMask, b := .scalarOrLit }

/-- SNAP on an axis: the origin is the 16 bits of b from bit `at_`. -/
def runSnap (i : Instr) (z : Slot) (at_ : Nat) (s : State) : Out :=
  runLaneLate i z formSnap 1 (fun fr l =>
    BitVec.ofNat 64 (snapValue (fr.read32 z l z.sa).toNat (sext ((fr.read32 z l z.sb).toNat / 2 ^ at_) 16))) s

/-- SNAP.X (R328). -/
def execSnapX (z : Slot) (s : State) : Out := runSnap (.snapX z) z 0 s
/-- SNAP.Y (R328). -/
def execSnapY (z : Slot) (s : State) : Out := runSnap (.snapY z) z 16 s

/-- A point of two valid coordinates. -/
def point? (x : Dword) : Option (Int × Int) :=
  match coord? (loWord x), coord? (hiWord x) with
  | some a, some b => some (a, b)
  | _, _ => none

/-- The unbiased edge value from `a` to `b` at `p` (R329). -/
def edgeAt (a b p : Int × Int) : Int := (b.1 - a.1) * (p.2 - a.2) - (b.2 - a.2) * (p.1 - a.1)

/-- The edge is top or left. -/
def topLeft (a b : Int × Int) : Bool := decide (b.2 < a.2) || (b.2 == a.2 && decide (a.1 < b.1))

/-- The biased edge value (R329). -/
def edgeBiased (a b p : Int × Int) : Int := if topLeft a b then edgeAt a b p else edgeAt a b p - 1

/-- EDGE (R329). -/
def execEdge (z : Slot) (s : State) : Out :=
  runLaneLate (.edge z) z { dst := .vregs 2 2 false, a := .vqPair, b := .vqPair, c := .vqPair } 2 (fun fr l =>
    match point? (fr.read z l z.sa true false), point? (fr.read z l z.sb true false), point? (fr.read z l z.sc true false) with
    | some a, some b, some p => BitVec.ofNat 64 (wrap (edgeBiased a b p) 64)
    | _, _, _ => BitVec.ofNat 64 (2 ^ 63)) s

/-- Pixels a triangle spans on an axis (R330). -/
def extent (a b c : Int) : Nat := ((max a (max b c)).fdiv 256 - (min a (min b c)).fdiv 256 + 1).toNat

/-- The classification word of TRICLS (R330). -/
def triClass (cullb : Bool) (t : Nat) (v0 v1 v2 : Dword) : Nat :=
  match point? v0, point? v1, point? v2 with
  | some a, some b, some c =>
    let area := edgeAt a b c
    if area = 0 ∨ (area < 0 ∧ cullb) then 0
    else
      let w := extent a.1 b.1 c.1
      let h := extent a.2 b.2 c.2
      (if w ≤ t ∧ h ≤ t then 1 else 2) + (if area < 0 then 4 else 0) + 256 * min w 255 + 65536 * min h 255
  | _, _, _ => 0

/-- TRICLS (R330). -/
def execTricls (z : Slot) (cullb : Bool) (s : State) : Out :=
  runLaneLate (.tricls z cullb) z { dst := .vregs 1 1 false, a := .vqPair, b := .vqPair, c := .vqPair } 1 (fun fr l =>
    BitVec.ofNat 64 (triClass cullb z.lit.toNat (fr.read z l z.sa true false) (fr.read z l z.sb true false)
      (fr.read z l z.sc true false))) s

/-! ## RAST (R331, R332) -/

/-- A descriptor's fields as a submission of a lane. -/
def parseDescriptor (fr : Frame) (b : List Byte) (o : ObjRef) : RastSub :=
  let f (off n : Nat) : Nat := leNat ((b.drop off).take n)
  let word (off : Nat) : Word := BitVec.ofNat 32 (f off 4)
  let g := f 58 1
  { id := 0, panel := fr.p.id, skein := fr.kx, core := fr.p.core, fn := fr.p.fn, handle := fr.p.handle, node := fr.p.node
    mode := fr.mode, verts := (List.range 6).map fun i => word (4 * i), depths := (List.range 3).map fun i => word (24 + 4 * i)
    value := word 36, target := BitVec.ofNat 64 (f 40 8), pitch := f 48 2, tw := f 50 1, th := f 51 1, draw := f 52 2
    group := f 54 2, prim := f 56 2, blend := g % 4, closes := g.testBit 2, lastOfDraw := g.testBit 3, notri := g.testBit 4
    obj := o, accepted := false, arrival := none, late := false, flushed := false, next := 0, fault := none }

/-- Every field is legal under R332. -/
def descriptorOk (b : List Byte) : Bool :=
  let f (off n : Nat) : Nat := leNat ((b.drop off).take n)
  let g := f 58 1
  let cmpl := bits g 6 5
  g % 4 != 3 && (!g.testBit 3 || g.testBit 2) && (cmpl == 1 || cmpl == 2) && !g.testBit 7 && f 59 1 == 0
    && decide (f 40 8 < 2 ^ 57) && f 40 8 % (if g % 4 = 0 then 8 else 4) == 0 && decide (f 50 1 + 1 ≤ f 48 2)

/-- The checks of one lane's descriptor, in order (R331). -/
def State.rastCheck (s : State) (fr : Frame) (z : Slot) (l : Nat) : Except (Cause × Dword) RastSub := do
  let off := (fr.read32 z l z.sa).toNat
  failIf (off % 64 != 0) .align (spaceTval 1 0 off)
  failIf (decide (fr.p.kernel.scratch < off + 64)) .perm (spaceTval 1 0 (max off fr.p.kernel.scratch))
  s.sickCheck fr.p off
  let b := (s.seen fr.p).scratch.list off 64
  failIf (!descriptorOk b) .illopnd (saTval z)
  let cmpl := bits (leNat ((b.drop 58).take 1)) 6 5
  let o ← s.objRef fr (if cmpl = 1 then .panel else .cluster) (BitVec.ofNat 32 (leNat ((b.drop 60).take 4)))
  pure (parseDescriptor fr b o)

/-- Triangles a cluster's rasteriser holds (R331). -/
def State.rastPending (s : State) (cluster : Nat) : Nat :=
  (s.rastSubs.filter fun o => clusterOf o.core == cluster && o.accepted && !o.notri).length

/-- Waiting submissions enter their rasterisers as far as the limit lets them, in order of issue (R331). -/
def State.rastAccept (s : State) : State :=
  ((s.rastSubs.filter fun o => !o.accepted).foldl (fun s o =>
    if s.rastPending (clusterOf o.core) < 1024 then
      { s with rastSubs := s.rastSubs.map fun x => if x.id = o.id then { x with accepted := true } else x }
    else s) s)

/-- RAST (R331). An event whose descriptors are more than the rasteriser has room for submits them all at its issue, and holds its skein until
the last has been taken up. (log entry 30: DEDUCED) -/
def execRast (z : Slot) (s : State) : Out :=
  runSlot
    { slot := z, hi := slotHigh (encode (.rast z)), form := { a := .noFrag }
      waits := fun fr => decide (1024 ≤ s.rastPending (clusterOf fr.p.core)) && !(fr.active z fr.lanes).isEmpty } s fun fr alive s =>
    let rs := (fr.active z alive).map fun l => (l, s.rastCheck fr z l)
    let s1 := rs.foldl (fun (s : State) x => match x.2 with
      | .ok o => let (id, s1) := s.fresh; { s1 with rastSubs := s1.rastSubs ++ [{ o with id := id }] }
      | .error _ => s) s
    .checks fr s1.tookRecords.rastAccept (rs.filterMap fun x => match x.2 with
      | .error (c, v) => some (fr.trapAt x.1 c v)
      | .ok _ => none)

/-! ## Coverage and depth (R333) -/

/-- The vertices and depths as the rasteriser uses them: V1 and V2 exchanged when the area is negative; `none` covers
nothing. -/
def RastSub.setup (o : RastSub) : Option (List (Int × Int) × List Word × Nat) :=
  let v (i : Nat) : Option (Int × Int) :=
    match coord? (o.verts.getD (2 * i) 0), coord? (o.verts.getD (2 * i + 1) 0) with
    | some x, some y => some (x, y)
    | _, _ => none
  match v 0, v 1, v 2 with
  | some a, some b, some c =>
    let area := edgeAt a b c
    let z (i : Nat) : Word := o.depths.getD i 0
    if area = 0 ∨ o.notri then none
    else if area < 0 then some ([a, c, b], [z 0, z 2, z 1], area.natAbs)
    else some ([a, b, c], [z 0, z 1, z 2], area.natAbs)
  | _, _, _ => none

/-- A pixel's sample point (R329). -/
def samplePoint (x y : Nat) : Int × Int := (256 * x + 128, 256 * y + 128)

/-- The FP32 depth of a covered pixel from its unbiased edge values; `none` discards the fragment. -/
def rastDepth (e12 e20 e01 : Int) (zs : List Word) (area : Nat) : Option Nat :=
  let ds := zs.map fun z => decodeFloat fmt32 z.toNat
  if ds.any fun d => match d with
      | .nan _ | .inf _ => true
      | _ => false then none
  else
    let e := leastExp ds
    let n := [e12, e20, e01].zip ds |>.foldl (fun acc x => acc + x.1 * inUnits e x.2.dyadic) 0
    if n = 0 then some 0
    else
      let c : RoundCfg := { rm := .rne, ftz := false }
      let r := (if 0 ≤ e then roundRatio fmt32 c false (decide (n < 0)) (n.natAbs * 2 ^ e.toNat) area
        else roundRatio fmt32 c false (decide (n < 0)) n.natAbs (area * 2 ^ (-e).toNat)).1
      if r = 2 ^ 31 then some 0 else if 2 ^ 31 < r ∨ 0x3F800000 < r then none else some r

/-- The fragment of pixel number `n` of a submission's tile: its depth (R333). -/
def RastSub.fragment (o : RastSub) (n : Nat) : Option Nat :=
  match o.setup with
  | some ([a, b, c], zs, area) =>
    let p := samplePoint (n % (o.tw + 1)) (n / (o.tw + 1))
    if 0 ≤ edgeBiased a b p ∧ 0 ≤ edgeBiased b c p ∧ 0 ≤ edgeBiased c a p then
      rastDepth (edgeAt b c p) (edgeAt c a p) (edgeAt a b p) zs area
    else none
  | _ => none

/-- The next pixel of a submission that has a fragment. -/
def RastSub.nextPixel (o : RastSub) : Option Nat :=
  ((List.range ((o.tw + 1) * (o.th + 1))).drop o.next).find? fun n => (o.fragment n).isSome

/-- The address of a pixel's word (R334). -/
def RastSub.pixelAddr (o : RastSub) (n : Nat) : Nat :=
  o.target.toNat + (if o.blend = 0 then 8 else 4) * (n / (o.tw + 1) * o.pitch + n % (o.tw + 1))

/-- A fragment's read-modify-write at the home L2 (R334); what does not depend on the old value carries no marker (R479). (log entry 37:
DEDUCED) -/
def State.applyFragment (s : State) (o : RastSub) (n pa : Nat) : State :=
  let w := if o.blend = 0 then 8 else 4
  let old := s.mem.read pa w
  let new := match o.blend with
    | 0 => min old ((o.fragment n).getD 0 * 2 ^ 32 + o.value.toNat)
    | 1 => (fAdd fmt32 { rm := .rne, ftz := false } old o.value.toNat).1
    | _ => o.value.toNat
  let s1 := if o.blend ≤ 1 then { s with mem := s.mem.write pa w new } else s.setMem (s.mem.write pa w new) pa w
  (s1.dropCopy o.core (sectorOf pa)).dropCopy (diePlace (dieOf o.core)) (sectorOf pa)

/-! ## Blend order (R335) -/

/-- A key comes before another in lexicographic order. -/
def keyLt (a b : Nat × Nat) : Bool := decide (a.1 < b.1) || (a.1 == b.1 && decide (a.2 < b.2))

/-- The key of a submission. -/
def RastSub.key (o : RastSub) : Nat × Nat := (o.draw, o.group)

/-- The ordering state belongs to the submission's cluster and node instance. (log entry 31: DEDUCED) -/
def RastSub.under (o : RastSub) (r : RastOrder) : Bool :=
  r.cluster == clusterOf o.core && r.fn == o.fn && r.handle == o.handle && r.node == o.node

/-- The ordering state of a submission. -/
def State.orderOf (s : State) (o : RastSub) : RastOrder :=
  (s.rastOrders.find? o.under).getD ⟨clusterOf o.core, o.fn, o.handle, o.node, 0, 0, []⟩

/-- An ordering state takes a value. -/
def State.setOrder (s : State) (r : RastOrder) : State :=
  { s with rastOrders := r :: s.rastOrders.filter fun x =>
      !(x.cluster == r.cluster && x.fn == r.fn && x.handle == r.handle && x.node == r.node) }

/-- A submission takes part in the blend order. -/
def RastSub.ordered (o : RastSub) : Bool := o.blend != 0 && !o.notri && !o.late

/-- One buffered submission is applied before another of its group: ascending PRIM, then order of arrival. -/
def RastSub.ahead (a b : RastSub) : Bool :=
  decide (a.prim < b.prim) || (a.prim == b.prim && decide (a.arrival.getD 0 < b.arrival.getD 0))

/-- The fragments of a submission may be applied now. -/
def State.rastMay (s : State) (o : RastSub) : Bool :=
  if o.arrival.isNone then false
  else if !o.ordered then true
  else
    let r := s.orderOf o
    let mates := s.rastSubs.filter fun x =>
      x.id != o.id && x.ordered && x.arrival.isSome && x.flushed == o.flushed && x.under r
    if o.flushed then !mates.any fun x => keyLt x.key o.key || (x.key == o.key && x.ahead o)
    else o.key == (r.draw, r.group) && r.closed.any (fun c => (c.1, c.2.1) == o.key)
      && !mates.any fun x => x.key == o.key && x.ahead o

/-- A submission that the order holds back: it does not keep its skein from retiring or its panel from being saved (R335,
R429). -/
def State.rastBuffered (s : State) (o : RastSub) : Bool := o.arrival.isSome && !s.rastMay o

/-- The submission is over: its fragments are applied, and it arrives (R336). -/
def State.rastDone (s : State) (o : RastSub) : State :=
  ({ s with rastSubs := s.rastSubs.filter fun x => x.id != o.id }.arriveRef o.obj o.fault.isSome (o.fault.getD 0)).rastAccept

/-- A closed current group that is empty ends, and the state goes on to the next (R335). -/
def RastOrder.next (r : RastOrder) (subs : List RastSub) : RastOrder :=
  match r.closed.find? fun c => c.1 == r.draw && c.2.1 == r.group with
  | none => r
  | some c =>
    if subs.any fun o => o.under r && o.ordered && !o.flushed && o.arrival.isSome && o.key == (r.draw, r.group) then r
    else
      { r with
        draw := if c.2.2 then r.draw + 1 else r.draw
        group := if c.2.2 then 0 else r.group + 1
        closed := r.closed.filter fun x => x != c }

/-- Submissions with nothing left to apply end, and groups go on, until nothing changes. -/
def State.rastSettle (s : State) : Nat → State
  | 0 => s
  | fuel + 1 =>
    let s1 : State := { s with rastOrders := s.rastOrders.map fun r => r.next s.rastSubs }
    match s1.rastSubs.find? fun o => s1.rastMay o && o.nextPixel.isNone with
    | some o => (s1.rastDone o).rastSettle fuel
    | none => if s1.rastOrders = s.rastOrders then s1 else s1.rastSettle fuel

/-- Enough rounds for every submission and every closed group. -/
def State.rastFuel (s : State) : Nat := s.rastSubs.length + (s.rastOrders.map fun r => r.closed.length + 1).sum + 1

/-- RAST_SUBMISSION_ARRIVE (R335, R336): submission `n` reaches the rasteriser of cluster `c`. (log entry 30: DEDUCED) -/
def execRastSubmissionArrive (c n : Nat) (s : State) : Out :=
  match s.rastSubs.find? fun o => o.id == n && clusterOf o.core == c && o.accepted && o.arrival.isNone with
  | none => .next s
  | some o =>
    let r := s.orderOf o
    let below := !o.flushed && keyLt o.key (r.draw, r.group)
    let (at_, s1) := s.fresh
    let o1 : RastSub := { o with arrival := some at_, late := below }
    let s2 : State := { s1 with rastSubs := s1.rastSubs.map fun x => if x.id = n then o1 else x }
    let s3 := s2.setOrder (if o.closes ∧ !below ∧ !o.flushed then { r with closed := (o.draw, o.group, o.lastOfDraw) :: r.closed } else r)
    .next (s3.rastSettle s3.rastFuel)

/-- The last panel of a node instance has retired: its groups are applied whether closed or not, and its ordering state ends: what a
later panel under the same number submits starts at (0, 0) again (R335). -/
def State.rastFlush (s : State) (fn handle node : Nat) : State :=
  let s1 : State := { s with
    rastSubs := s.rastSubs.map fun o => if o.fn = fn ∧ o.handle = handle ∧ o.node = node then { o with flushed := true } else o
    rastOrders := s.rastOrders.filter fun r => !(r.fn == fn && r.handle == handle && r.node == node) }
  s1.rastSettle s1.rastFuel

/-- Some submission of a node instance is not applied yet. -/
def State.rastOpen (s : State) (fn node : Nat) : Bool := s.rastSubs.any fun o => o.fn == fn && o.node == node

end Sys2Proof.Machine
end

