-- ==== Sys2Proof/Machine/Busy.lean ====
section
/-!
DEFINITION. Sys2Proof/Machine/Busy.lean: what the part still has to do for a skein and a panel (R94, R429).
-/
namespace Sys2Proof.Machine

/-- Some access, write-back, invalidation or engine operation of the skein is outstanding (R94). Blend groups that the order holds back
are the rasteriser's (R335, R429). -/
def State.skeinBusy (s : State) (panel skein : Nat) : Bool :=
  s.inflight.any (fun a => a.panel == panel && a.skein == skein) || s.stepsLeft panel skein ||
    s.writeBacks.any (fun a => a.panel == panel && a.skein == skein) ||
    s.swWalks.any (fun a => a.panel == panel && a.skein == skein) ||
    s.copyOps.any (fun a => a.panel == panel && a.skein == skein) ||
    s.xfms.any (fun a => a.panel == panel && a.skein == skein) ||
    s.mats.any (fun a => a.panel == panel && a.skein == skein) ||
    s.rays.any (fun a => a.panel == panel && a.skein == skein) ||
    s.colls.any (fun a => a.panel == panel && a.skein == skein) ||
    s.rastSubs.any fun a => a.panel == panel && a.skein == skein && !s.rastBuffered a

/-- Some work that a save or a halt waits for is outstanding for the panel (R387, R429): everything but its traversal threads, which
stop, its collectives, which go on, and buffered blend groups. -/
def State.panelBusy (s : State) (p : Panel) : Bool :=
  p.skeins.any (fun k => !k.outs.isEmpty || !k.results.isEmpty) ||
    s.inflight.any (fun a => a.panel == p.id) || s.atoms.any (fun a => a.panel == p.id) || s.writeBacks.any (fun a => a.panel == p.id) ||
    s.swWalks.any (fun a => a.panel == p.id) || s.copyOps.any (fun a => a.panel == p.id) || s.xfms.any (fun a => a.panel == p.id) ||
    s.mats.any (fun a => a.panel == p.id) || s.rastSubs.any fun a => a.panel == p.id && !s.rastBuffered a

end Sys2Proof.Machine
end

