-- ==== Sys2Proof/Machine/Sha3.lean ====
section
/-!
DEFINITION. Sys2Proof/Machine/Sha3.lean: SHA3-256, which the spec names for kernel build identifiers (R69), image
measurements (R171) and firmware (R472, R474). The function is the public standard's.
-/
namespace Sys2Proof.Machine

/-- The 25 words of the permutation's state, x + 5 y. -/
abbrev Sponge := List (BitVec 64)

/-- A word of the state. -/
def Sponge.word (a : Sponge) (x y : Nat) : BitVec 64 := List.getD a (x % 5 + 5 * (y % 5)) 0

/-- A state from a function of x and y. -/
def spongeOf (f : Nat → Nat → BitVec 64) : Sponge := (List.range 25).map fun i => f (i % 5) (i / 5)

/-- The column parities' mixing. -/
def theta (a : Sponge) : Sponge :=
  let c := (List.range 5).map fun x => a.word x 0 ^^^ a.word x 1 ^^^ a.word x 2 ^^^ a.word x 3 ^^^ a.word x 4
  let d := (List.range 5).map fun x => List.getD c ((x + 4) % 5) 0 ^^^ (List.getD c ((x + 1) % 5) 0).rotateLeft 1
  spongeOf fun x y => a.word x y ^^^ List.getD d x 0

/-- The rotation amounts, x + 5 y. -/
def rhoOffsets : List Nat :=
  [0, 1, 62, 28, 27, 36, 44, 6, 55, 20, 3, 10, 43, 25, 39, 41, 45, 15, 21, 8, 18, 2, 61, 56, 14]

/-- Rotations and transposition. -/
def rhoPi (a : Sponge) : Sponge :=
  spongeOf fun x y => (a.word (x + 3 * y) x).rotateLeft (List.getD rhoOffsets ((x + 3 * y) % 5 + 5 * x) 0)

/-- The nonlinear step along rows. -/
def chi (a : Sponge) : Sponge := spongeOf fun x y => a.word x y ^^^ (~~~(a.word (x + 1) y) &&& a.word (x + 2) y)

/-- The round constants. -/
def roundConstants : List (BitVec 64) :=
  [0x0000000000000001, 0x0000000000008082, 0x800000000000808A, 0x8000000080008000, 0x000000000000808B,
   0x0000000080000001, 0x8000000080008081, 0x8000000000008009, 0x000000000000008A, 0x0000000000000088,
   0x0000000080008009, 0x000000008000000A] ++
  [0x000000008000808B, 0x800000000000008B, 0x8000000000008089, 0x8000000000008003, 0x8000000000008002,
   0x8000000000000080, 0x000000000000800A, 0x800000008000000A, 0x8000000080008081, 0x8000000000008080,
   0x0000000080000001, 0x8000000080008008]

/-- The permutation. -/
def keccak (a : Sponge) : Sponge :=
  roundConstants.foldl (fun a rc =>
    match chi (rhoPi (theta a)) with
    | w :: ws => (w ^^^ rc) :: ws
    | [] => []) a

/-- Eight bytes as a word, lowest first. -/
def wordOfBytes (bs : List Byte) : BitVec 64 := BitVec.ofNat 64 (bs.foldr (fun b n => b.toNat + 256 * n) 0)

/-- A block of 136 bytes is absorbed. -/
def absorb (a : Sponge) (block : List Byte) : Sponge :=
  keccak ((List.range 25).map fun i => List.getD a i 0 ^^^ (if i < 17 then wordOfBytes ((block.drop (8 * i)).take 8) else 0))

/-- Whole blocks are absorbed; `fuel` bounds their number. -/
def absorbAll (a : Sponge) (m : List Byte) : Nat → Sponge
  | 0 => a
  | fuel + 1 => if m.isEmpty then a else absorbAll (absorb a (m.take 136)) (m.drop 136) fuel

/-- The padded message: 0x06, zeros, and the last byte's top bit. -/
def shaPad (m : List Byte) : List Byte :=
  let z := 135 - m.length % 136
  if z = 0 then m ++ [0x86] else m ++ 0x06 :: List.replicate (z - 1) 0 ++ [0x80]

/-- SHA3-256: 32 bytes. -/
def sha3 (m : List Byte) : List Byte :=
  let p := shaPad m
  let a := absorbAll (List.replicate 25 0) p (p.length / 136 + 1)
  (List.range 32).map fun i => (List.getD a (i / 8) 0 >>> (8 * (i % 8))).setWidth 8

end Sys2Proof.Machine
end

