-- ==== Sys2Proof/Machine/System.lean ====
section
/-!
DEFINITION. Sys2Proof/Machine/System.lean: SYSCALL, HCALL, TRET, BKPT, SRD, SWR, TEVT and the system registers
(spec/23_system_instructions.md R396 to R407), freeze and debug requests (spec/22_modes_and_traps.md R393 to R395).
-/
namespace Sys2Proof.Machine

/-! ## Traps and return (R403, R404) -/

/-- SYSCALL, HCALL and BKPT: each active lane takes the cause with tval LIT and this return PC. (log entry 13: DEDUCED) -/
def runCall (i : Instr) (z : Slot) (c : Cause) (ret : Frame → Dword) (s : State) : Out :=
  runSlot { slot := z, hi := slotHigh (encode i), form := {} } s fun fr alive s =>
    .done s [] [] ((fr.active z alive).map fun l => ⟨l, c, z.lit.setWidth 64, ret fr, false⟩)

/-- SYSCALL: the return PC is `next_pc`. -/
def execSyscall (z : Slot) (s : State) : Out := runCall (.syscall z) z .syscall (fun fr => fr.next) s
/-- HCALL: the return PC is `next_pc`. -/
def execHcall (z : Slot) (s : State) : Out := runCall (.hcall z) z .hcall (fun fr => fr.next) s
/-- BKPT: the return PC is the instruction itself. -/
def execBkpt (z : Slot) (s : State) : Out := runCall (.bkpt z) z .bkpt (fun fr => fr.pc) s

/-- A lane's return (R385), and what it comes back to after a CTXLOAD (R405). -/
def Panel.returned (p : Panel) (a : Lane) (at_ : Dword) (cycle : Nat) : Lane := (a.trapReturn at_).comeBack p.gen cycle

/-- TRET (R385, R404). -/
def execTret (z : Slot) (s : State) : Out :=
  runSlot { slot := z, hi := slotHigh (encode (.tret z)), form := {}, need := .supervisor } s fun fr alive s =>
    let on := fr.active z alive
    .done (s.onPanel fr.p.id fun p => p.onSkein fr.kx fun k => k.onLanes on fun _ a => p.returned a fr.pc fr.cycle)
      (on.map fun l => (l, ((fr.k.lane l).trapReturn fr.pc).pc, fr.pc)) [] []

/-! ## System registers (R396 to R398) -/

/-- core.info (R398). -/
def coreInfo (core : Nat) : Nat := 2 ^ 16 + dieOf core * 2 ^ 8 + clusterOf core % 8 * 32 + coreIx core

/-- The value of a lane register (R396, R398). -/
def Lane.sysRead (a : Lane) (n : Nat) : Dword :=
  match n with
  | 0x000 => BitVec.ofNat 64 a.mode.code
  | 0x001 => BitVec.ofNat 64 a.tdepth
  | 0x002 => a.origin.setWidth 64
  | 0x004 => a.saveS.epc
  | 0x006 => a.saveS.tval
  | 0x008 => a.saveS.cause.setWidth 64
  | 0x009 => a.saveS.status.setWidth 64
  | 0x00C => a.saveH.epc
  | 0x00E => a.saveH.tval
  | 0x010 => a.saveH.cause.setWidth 64
  | 0x011 => a.saveH.status.setWidth 64
  | _ => a.pc

/-- The value of a skein register. -/
def Skein.sysRead (k : Skein) (n : Nat) : Dword :=
  match n with
  | 0x100 => k.fpmode.setWidth 64
  | 0x101 => k.fpflags.setWidth 64
  | 0x102 => BitVec.ofNat 64 k.ply
  | _ => k.step.setWidth 64

/-- The value of a panel register. -/
def Panel.sysRead (p : Panel) (n : Nat) : Dword :=
  match n with
  | 0x200 => if p.preq then 1 else 0
  | 0x201 => BitVec.ofNat 64 p.deadline
  | 0x204 => BitVec.ofNat 64 (bits p.skid.toNat 31 0)
  | 0x205 => BitVec.ofNat 64 (bits p.skid.toNat 63 32)
  | 0x206 => BitVec.ofNat 64 (bits p.skid.toNat 95 64)
  | 0x210 => p.dbgreq.setWidth 64
  | 0x211 => p.dbgstat.setWidth 64
  | _ => p.dbgdata

/-- The value of a function register; `num` is the function's number. -/
def Func.sysRead (f : Func) (num n : Nat) : Dword :=
  match n with
  | 0x400 => BitVec.ofNat 64 (f.heapVa * 2 ^ 32 + num)
  | 0x402 => BitVec.ofNat 64 (f.bandT * 2 ^ 16 + f.bandHigh * 256 + f.bandLow)
  | 0x403 => f.scopes.setWidth 64
  | 0x404 => f.fault
  | 0x406 => f.tbuf
  | 0x408 => f.twr.setWidth 64
  | 0x409 => f.trd.setWidth 64
  | 0x40A => f.tdrop.setWidth 64
  | 0x40B => f.fdrop.setWidth 64
  | m => (f.grants.get (m - 0x440)).setWidth 64

/-- The scope of a register number. -/
def regScope (n : Nat) : RegScope := ((regRow n).map fun r => r.scope).getD .lane
/-- A register is 64 bits wide. -/
def regWide (n : Nat) : Bool := ((regRow n).map fun r => r.wide).getD false

/-- What SRD of register `n` by lane `l` reads (R397, R400). -/
def State.sysRead (s : State) (fr : Frame) (l n : Nat) : Dword :=
  match regScope n with
  | .lane => (fr.k.lane l).sysRead n
  | .skein => fr.k.sysRead n
  | .panel => fr.p.sysRead n
  | .core => if n = 0x300 then BitVec.ofNat 64 (coreInfo fr.p.core) else BitVec.ofNat 64 fr.cycle
  | .function => (s.func fr.p.fn).sysRead fr.p.fn n

/-- The destination form of SRD (R400). -/
def srdDst (n : Nat) : DstKind := if regWide n then .late64 else .late false

/-- SRD acts once: an s or x register, or 0xFF (R400). -/
def srdOnce (z : Slot) : Bool := dstOfSkein z.dst || z.dst == .none

/-- The outstanding write of SRD: per lane, or once through the leader. -/
def srdWrite (fr : Frame) (z : Slot) (n : Nat) (on : List Nat) (v : Nat → Dword) : VarWrite :=
  let ws := (if srdOnce z then (if on.isEmpty then [] else [fr.leader z]) else on).flatMap fun l =>
    (fr.dstTargets l z.dst (if regWide n then 2 else 1)).zip [loWord (v l), hiWord (v l)]
  { VarWrite.blank with targets := ws.map (fun w => w.1), vals := ws }

/-- An engine operation of a skein that can set a flag is not complete (R33). -/
def State.enginesFlag (s : State) (panel skein : Nat) : Bool :=
  s.xfms.any (fun o => o.panel == panel && o.skein == skein) || s.mats.any fun o => o.panel == panel && o.skein == skein

/-- A read of skein.fpflags waits for what can still set a flag (R33): results and landings, and engine operations of the
skein. -/
def State.flagsPending (s : State) (fr : Frame) : Bool := !fr.k.flagsSettled || s.enginesFlag fr.p.id fr.kx

/-- SRD (R400). -/
def execSrd (z : Slot) (s : State) : Out :=
  let n := z.regNumber
  runSlot
    { slot := z, hi := slotHigh (encode (.srd z)), form := { dst := srdDst n }, once := srdOnce z
      need := ((regRow n).map fun r => r.read).getD .never
      waits := fun fr => n == 0x101 && s.flagsPending fr && !(fr.active z fr.lanes).isEmpty } s
    fun fr alive s => .done (s.addWrite fr (srdWrite fr z n (fr.active z alive) fun l => s.sysRead fr l n)) [] [] []

/-- The element that SB names is no lane, as its served read says (R400, R401, R483): the tval of ILLOPND. -/
def Frame.elemBad (fr : Frame) (z : Slot) : Option Dword :=
  if fr.someActive z && fr.served .scalar z z.sb && decide (32 ≤ (fr.read32 z (fr.leader z) z.sb).toNat) then
    some (sbTval z)
  else none

/-- SRD with ELEM (R400): the element of the lane that SB names. -/
def execSrdElem (z : Slot) (s : State) : Out :=
  runSlot
    { slot := z, hi := slotHigh (encode (.srdElem z)), form := { dst := .late64, b := .scalar }, once := srdOnce z
      need := .supervisor, judge := fun fr => fr.elemBad z } s
    fun fr alive s =>
      let on := fr.active z alive
      if on.isEmpty then .done s [] [] []
      else
        let e := (fr.read32 z (fr.leader z) z.sb).toNat
        .done (s.addWrite fr (srdWrite fr z 0x020 on fun _ => (fr.k.lane e).pc)) [] [] []

/-! ## Writes (R401) -/

/-- A save set with one register written (R379). -/
def SaveSet.write (v : SaveSet) (hyp : Bool) (n : Nat) (a : Dword) : SaveSet :=
  match n with
  | 0 => { v with epc := a }
  | 1 => { v with tval := a }
  | 2 => { v with cause := a.setWidth 32 &&& 0x2FF }
  | _ =>
    if hyp then
      let pm := if a.toNat % 4 = 3 then v.status.toNat % 4 else a.toNat % 4
      { v with status := BitVec.ofNat 32 (pm + (if a.getLsbD 2 then 4 else 0) + (if v.status.getLsbD 3 then 8 else 0)) }
    else { v with status := a.setWidth 32 &&& 3 }

/-- A lane register is written; a vpc write is a PC change made by the instruction at `by_` (R386). -/
def Lane.sysWrite (l : Lane) (n : Nat) (a : Dword) : Lane :=
  match n with
  | 0x001 => { l with tdepth := a.toNat % 32 }
  | 0x004 => { l with saveS := l.saveS.write false 0 a }
  | 0x006 => { l with saveS := l.saveS.write false 1 a }
  | 0x008 => { l with saveS := l.saveS.write false 2 a }
  | 0x009 => { l with saveS := l.saveS.write false 3 a }
  | 0x00C => { l with saveH := l.saveH.write true 0 a }
  | 0x00E => { l with saveH := l.saveH.write true 1 a }
  | 0x010 => { l with saveH := l.saveH.write true 2 a }
  | 0x011 => { l with saveH := l.saveH.write true 3 a }
  | _ => l

/-- The entries of a trace buffer (R401). -/
def traceEntries (tbuf : Dword) : Nat := 256 * 2 ^ (tbuf.toNat % 16)

/-- The datum is illegal for the register (R401). -/
def sysIllegal (f : Func) (n : Nat) (a : Dword) : Bool :=
  let x := a.toNat
  match n with
  | 0x102 => !([2, 4, 8, 16, 32].contains (x % 64))
  | 0x201 => x % 2 ^ 24 == 0
  | 0x402 => decide (bits x 13 8 < bits x 5 0) || decide (47 < bits x 13 8) || decide (47 < bits x 5 0)
  | 0x409 => decide (traceEntries f.tbuf ≤ x % 2 ^ 32)
  | _ => false

/-- A level moved into a band (R422). -/
def intoBand (low high level : Nat) : Nat := max low (min high level)

/-- A function register is written: reserved and read-only fields keep (R397, R398). -/
def Func.sysWrite (f : Func) (n : Nat) (a : Dword) : Func :=
  let x := a.toNat
  match n with
  | 0x400 => { f with heapVa := bits x 56 32 }
  | 0x402 => { f with bandT := bits x 31 16, bandHigh := bits x 13 8, bandLow := bits x 5 0 }
  | 0x403 => { f with scopes := a.setWidth 32 &&& 3 }
  | 0x404 => { f with fault := BitVec.ofNat 64 (bits x 56 12 * 4096) }
  | 0x406 => { f with tbuf := BitVec.ofNat 64 (bits x 56 12 * 4096 + x % 16) }
  | 0x409 => { f with trd := a.setWidth 32 }
  | m => if 0x440 ≤ m then { f with grants := f.grants.set (m - 0x440) (a.setWidth 32) } else f

/-- A debug request completes (R394). -/
def Panel.dbgDone (p : Panel) (status : Nat) : Panel := { p with dbg := none, dbgstat := BitVec.ofNat 32 status }

/-- OP of panel.dbgreq. -/
def dbgOp (w : Word) : Nat := bits w.toNat 31 30
/-- SKEIN of panel.dbgreq. -/
def dbgSkein (w : Word) : Nat := bits w.toNat 29 25
/-- LANE of panel.dbgreq. -/
def dbgLane (w : Word) : Nat := bits w.toNat 24 20
/-- CLASS of panel.dbgreq. -/
def dbgClass (w : Word) : Nat := bits w.toNat 19 16
/-- INDEX of panel.dbgreq. -/
def dbgIndex (w : Word) : Nat := bits w.toNat 11 0

/-- A register that is written once is written (R401, R406, R422). (log entry 12: DEDUCED) -/
def State.sysWrite (s : State) (fr : Frame) (n : Nat) (a : Dword) : State :=
  match n with
  | 0x102 => s.onPanel fr.p.id fun p => p.onSkein fr.kx fun k => { k with ply := a.toNat % 64 }
  | 0x103 => s.onPanel fr.p.id fun p => p.onSkein fr.kx fun k => { k with step := a.setWidth 32 &&& 3 }
  | 0x201 => s.onPanel fr.p.id fun p => { p with deadline := a.toNat % 2 ^ 24 }
  | 0x210 => s.onPanel fr.p.id fun p =>
      let w := a.setWidth 32 &&& 0xFFFF0FFF
      let p1 : Panel := { p with dbgreq := w, dbg := some (fr.kx, false) }
      if dbgOp w = 3 ∨ 12 ≤ dbgClass w then p1.dbgDone 3 else p1
  | 0x212 => s.onPanel fr.p.id fun p => { p with dbgdata := a }
  | _ =>
    let s1 := s.onFunc fr.p.fn fun f => f.sysWrite n a
    if n = 0x402 then
      { s1 with pool := s1.pool.map fun e =>
          if e.fn = fr.p.fn then { e with level := intoBand (bits a.toNat 5 0) (bits a.toNat 13 8) e.level } else e }
    else s1

/-- The datum form of SWR (R401). -/
def swrSrc (n : Nat) : SrcKind := if regWide n then .pairNoLit else .noLit

/-- The gate of SWR on register `n`. -/
def swrGate (i : Instr) (z : Slot) (n : Nat) (once : Bool) : Gate where
  slot := z
  hi := slotHigh (encode i)
  form := { a := swrSrc n }
  need := ((regRow n).map fun r => r.write).getD .never
  once := once

/-- The datum is illegal for the register, as its served read says (R401, R483): the tval of ILLOPND. -/
def State.swrBad (s : State) (fr : Frame) (z : Slot) (n : Nat) : Option Dword :=
  if fr.someActive z && fr.served (swrSrc n) z z.sa && sysIllegal (s.func fr.p.fn) n (fr.read z (fr.leader z) z.sa (regWide n) false) then some (saTval z)
  else none

/-- SWR of a lane register, or of a register written once through the leader (R401). A second debug request waits for the
first. -/
def execSwr (z : Slot) (s : State) : Out :=
  let n := z.regNumber
  let lanes := regScope n == .lane
  runSlot { swrGate (.swr z) z n (!lanes) with judge := fun fr => if lanes then none else s.swrBad fr z n } s fun fr alive s =>
    let on := fr.active z alive
    if on.isEmpty then .done s [] [] []
    else if lanes then
      .done (s.onPanel fr.p.id fun p => p.onSkein fr.kx fun k =>
        k.onLanes on fun l a => a.sysWrite n (fr.read z l z.sa (regWide n) false)) [] [] []
    else
      let a := fr.read z (fr.leader z) z.sa (regWide n) false
      if n = 0x210 ∧ fr.p.dbg.isSome then .wait s
      else .done (s.sysWrite fr n a) [] [] []

/-- SWR of skein.fpmode (R32, R401). -/
def execSwrFpmode (z : Slot) (s : State) : Out :=
  runSlot (swrGate (.swrFpmode z) z 0x100 true) s fun fr alive s =>
    if (fr.active z alive).isEmpty then .done s [] [] []
    else .done (s.onPanel fr.p.id fun p => p.onSkein fr.kx fun k =>
      { k with fpmode := fr.read32 z (fr.leader z) z.sa &&& fpmodeMask }) [] [] []

/-- SWR of skein.fpflags (R402). -/
def execSwrFpflags (z : Slot) (s : State) : Out :=
  runSlot (swrGate (.swrFpflags z) z 0x101 true) s fun fr alive s =>
    if (fr.active z alive).isEmpty then .done s [] [] []
    else .done (s.onPanel fr.p.id fun p => p.onSkein fr.kx fun k =>
      { k with fpflags := fr.read32 z (fr.leader z) z.sa &&& fpflagsMask }) [] [] []

/-- SWR of vpc: each active lane transfers to its own value (R386, R401). -/
def execSwrVpc (z : Slot) (s : State) : Out :=
  runSlot (swrGate (.swrVpc z) z 0x020 false) s fun fr alive s =>
    .done s ((fr.active z alive).map fun l => (l, fr.read z l z.sa true false, fr.pc)) [] []

/-- SWR of one element of vpc: ignored for an exited lane and for a lane in a higher mode (R386, R401). -/
def execSwrElemVpc (z : Slot) (s : State) : Out :=
  runSlot { swrGate (.swrElemVpc z) z 0x020 true with form := { a := .pairNoLit, b := .scalar }, judge := fun fr => fr.elemBad z } s fun fr alive s =>
    if (fr.active z alive).isEmpty then .done s [] [] []
    else
      let e := (fr.read32 z (fr.leader z) z.sb).toNat
      let a := fr.read z (fr.leader z) z.sa true false
      let t := fr.k.lane e
      if t.exited || decide (fr.mode.code < t.mode.code) then .done s [] [] []
      else if fr.lanes.contains e then .done s [(e, a, fr.pc)] [] []
      else .done (s.onPanel fr.p.id fun p => p.onSkein fr.kx fun k => k.onLane e fun l => l.jump a fr.pc) [] [] []

/-- panel.preq of a panel is written (R427): setting it starts the deadline timer, clearing it stops the timer. (log entry 14: DEDUCED) -/
def Panel.setPreq (p : Panel) (time : Nat) (b : Bool) : Panel :=
  if b then { p with preq := true, timer := if p.preq then p.timer else some (time + 1500 * p.deadline) }
  else { p with preq := false, timer := none }

/-- panel.preq of a panel and of every member of its gang (R426). -/
def State.setPreq (s : State) (p : Panel) (b : Bool) : State :=
  let ids := match p.gang with
    | none => [p.id]
    | some g => p.id :: g.members
  { s with panels := s.panels.map fun q => if ids.contains q.id then q.setPreq s.time b else q }

/-- SWR of panel.preq (R401, R426, R427). -/
def execSwrPanelPreq (z : Slot) (s : State) : Out :=
  runSlot (swrGate (.swrPanelPreq z) z 0x200 true) s fun fr alive s =>
    if (fr.active z alive).isEmpty then .done s [] [] []
    else .done (s.setPreq fr.p ((fr.read32 z (fr.leader z) z.sa).getLsbD 0)) [] [] []

/-! ## Trace events (R407, R440) -/

/-- The physical address of one byte of a function as the graph engine and the trace hardware reach it, and the page it is reached through:
both stages, supervisor mode, tables as they stand (R407, R423, R486). -/
def State.funcLook (s : State) (fn die va : Nat) (kind : AccessKind) : Option (Nat × PageMark) :=
  if va / 2 ^ 57 != 0 then none
  else if (s.func fn).inHeap va then (if s.heapOk fn kind va then some (heapPhys va, ⟨false, false, (0, 0)⟩) else none)
  else
    match (s.walkNow fn die false (BitVec.ofNat 64 va) kind .supervisor).2 with
    | .page p => some (p.at va, ⟨!p.w, false, (p.base, p.size)⟩)
    | .stop _ => none

/-- The physical address alone. -/
def State.funcPhys (s : State) (fn die va : Nat) (kind : AccessKind) : Option Nat := (s.funcLook fn die va kind).map fun x => x.1

/-- Where a function's next trace entry goes; `none` when it is dropped. -/
def State.traceSlot (s : State) (fn die : Nat) : Option (Nat × PageMark) :=
  let f := s.func fn
  let n := traceEntries f.tbuf
  let base := bits f.tbuf.toNat 56 12 * 4096
  if base = 0 ∨ (f.twr.toNat + 2 ^ 32 - f.trd.toNat) % n = n - 1 then none
  else s.funcLook fn die (base + 16 * f.twr.toNat) .write

/-- The trace write index advances, or the event is counted as dropped. -/
def Func.traced (f : Func) (written : Bool) : Func :=
  if written then { f with twr := BitVec.ofNat 32 ((f.twr.toNat + 1) % traceEntries f.tbuf) } else { f with tdrop := f.tdrop + 1 }

/-- A 16-byte trace entry: time, id, two bytes and a word. -/
def traceEntry (cycle id b10 b11 w : Nat) : Nat :=
  cycle % 2 ^ 64 + id % 2 ^ 16 * 2 ^ 64 + b10 * 2 ^ 80 + b11 * 2 ^ 88 + w % 2 ^ 32 * 2 ^ 96

/-- A hardware trace event `id` of a function, when its TMASK enables it (R441). -/
def State.hwTrace (s : State) (fn core id skein node : Nat) : State :=
  if !(s.func fn).tmask.testBit (id - 1) then s
  else
    match s.traceSlot fn (dieOf core) with
    | none => s.onFunc fn fun f => f.traced false
    | some (pa, _) =>
      let e := traceEntry (s.cycle core) id (skein % 32 + 128) (coreIx core + clusterOf core % 8 * 32) node
      (s.setMem (s.mem.write pa 16 e) pa 16).onFunc fn fun f => f.traced true

/-- TEVT (R407). Its store goes through the page that its address was translated through (R418). -/
def execTevt (z : Slot) (s : State) : Out :=
  runSlot { slot := z, hi := slotHigh (encode (.tevt z)), form := { a := .noLit }, once := true } s fun fr alive s =>
    if (fr.active z alive).isEmpty then .done s [] [] []
    else
      let l := fr.leader z
      match s.traceSlot fr.p.fn (dieOf fr.p.core) with
      | none => .done (s.onFunc fr.p.fn fun f => f.traced false) [] [] []
      | some (pa, mark) =>
        let f := s.func fr.p.fn
        let va := BitVec.ofNat 64 (bits f.tbuf.toNat 56 12 * 4096 + 16 * f.twr.toNat)
        let e := traceEntry fr.cycle z.lit.toNat (fr.k.ix % 32 + fr.mode.code * 32) l (fr.read32 z l z.sa).toNat
        let s1 := s.writeReach fr false 16 e (.phys va pa mark)
        .done (s1.onFunc fr.p.fn fun f => f.traced true) [] [] []

/-! ## Freeze (R393) and debug requests (R394, R395, R406) -/

/-- Skein `kx` is frozen (R393). -/
def Panel.frozen (p : Panel) (kx : Nat) : Bool :=
  !((p.skein? kx).any Skein.stepped) &&
    (List.range p.skeins.length).any fun j => j != kx && (p.skein? j).any Skein.freezes

/-- What a debug request names (R394, R398). -/
inductive DbgTarget where
  | reg (t : Target)
  | cell (m : Mode) (age : Nat)
  | pc
  | skeinReg (n : Nat)
  | range
deriving DecidableEq, Repr

/-- The target of a request on a panel. -/
def dbgTarget (p : Panel) (w : Word) : DbgTarget :=
  let i := dbgIndex w
  let l := dbgLane w
  let reg (ok : Bool) (t : Target) : DbgTarget := if ok then .reg t else .range
  match dbgClass w with
  | 0 => reg (decide (i < p.kernel.vregs)) (.v l i)
  | 1 => if i < 16 then .cell .user i else .range
  | 2 => if i < 8 then .cell .supervisor i else .range
  | 3 => if i < 8 then .cell .hypervisor i else .range
  | 4 => reg (decide (i < 8)) (.tSup l i)
  | 5 => reg (decide (i < 8)) (.tHyp l i)
  | 6 => reg (decide (i < 8)) (.xSup i)
  | 7 => reg (decide (i < 8)) (.xHyp i)
  | 8 => reg (decide (i < 8)) (.k i l)
  | 9 => reg (decide (i < p.kernel.sregs)) (.s i)
  | 10 => .pc
  | 11 => if 0x100 ≤ i ∧ i ≤ 0x103 then .skeinReg i else .range
  | _ => .range

/-- A mask register is read and written whole by class 8 (R394). -/
def dbgMask (w : Word) : Bool := dbgClass w == 8

/-- The bits of a mask register as targets. -/
def maskTargets (i : Nat) : List Target := (List.range 32).map fun l => .k i l

/-- The registers a request's target covers. -/
def dbgCovers (w : Word) (t : Target) : List Target := if dbgMask w then maskTargets (dbgIndex w) else [t]

/-- The value of a target, and whether a newer write of it is outstanding; `eng` says that an engine operation of the skein can still
set a flag. -/
def dbgValue (eng : Bool) (k : Skein) (w : Word) (t : DbgTarget) : Dword × Bool :=
  match t with
  | .reg t =>
    (if dbgMask w then (k.mask (dbgIndex w)).setWidth 64 else (k.readTarget t).setWidth 64,
      (dbgCovers w t).any fun t => k.outstanding t || k.pendingReg t)
  | .cell m i => ((((k.lane (dbgLane w)).bank m).getD i ⟨0, 0⟩).val.setWidth 64, k.pendingCell (dbgLane w) m i)
  | .pc => ((k.lane (dbgLane w)).pc, false)
  | .skeinReg n => (k.sysRead n, n == 0x101 && (eng || !k.flagsSettled))
  | .range => (0, false)

/-- A WRITE is refused as BUSY (R394): skein.fpflags also while something issued earlier can set a flag (R395). -/
def dbgBusy (eng : Bool) (k : Skein) (w : Word) (t : DbgTarget) : Bool :=
  match t with
  | .reg t => (dbgCovers w t).any k.outstanding
  | .cell m i => k.pendingCell (dbgLane w) m i
  | .skeinReg n => n == 0x101 && (eng || !k.flagsSettled)
  | _ => false

/-- A WRITE's effect on the target skein (R394, R395). A written PC makes the skein's next selection anew. -/
def dbgStore (k : Skein) (w : Word) (t : DbgTarget) (v : Dword) : Skein :=
  match t with
  | .reg t =>
    if dbgMask w then k.writeNow ((List.range 32).map fun l => (.k (dbgIndex w) l, if v.getLsbD l then 1 else 0))
    else k.writeNow [(t, loWord v)]
  | .cell m i => k.onLane (dbgLane w) fun a => a.setBank m ((a.bank m).modify i fun c => { c with val := loWord v })
  | .pc => { k with sel := none }.onLane (dbgLane w) fun a => if a.exited then a else a.jump v 0xFFFFFFFFFFFFFFFE
  | .skeinReg 0x100 => { k with fpmode := loWord v &&& fpmodeMask }
  | .skeinReg 0x101 => { k with fpflags := loWord v &&& fpflagsMask }
  | .skeinReg 0x102 => { k with ply := v.toNat % 64 }
  | .skeinReg _ => { k with step := loWord v &&& 3 }
  | .range => k

/-- The target skein of a request, when it is frozen: below the skein count, not the writer's own (R406). -/
def dbgFrozen (p : Panel) (writer : Nat) (w : Word) : Option Skein :=
  if dbgSkein w = writer ∨ !p.frozen (dbgSkein w) then none else p.skein? (dbgSkein w)

/-- The panel with a request of an operation open that is not draining, and its writer. -/
def State.dbgOpen (s : State) (p op : Nat) : Option (Panel × Nat) :=
  match s.panel? p with
  | some q => match q.dbg with
    | some (w, false) => if dbgOp q.dbgreq = op then some (q, w) else none
    | _ => none
  | none => none

/-- DBG_READ (R394). -/
def execDbgRead (p : Nat) (s : State) : Out :=
  match s.dbgOpen p 0 with
  | none => .next s
  | some (q, w) =>
    match dbgFrozen q w q.dbgreq with
    | none => .next (s.setPanel (q.dbgDone 2))
    | some k =>
      match dbgTarget q q.dbgreq with
      | .range => .next (s.setPanel (q.dbgDone 3))
      | t =>
        let r := dbgValue (s.enginesFlag p k.ix) k q.dbgreq t
        .next (s.setPanel ({ q with dbgdata := r.1 }.dbgDone (if r.2 then 1 else 0)))

/-- DBG_WRITE (R394, R395). A ply width that R398 does not allow is out of range (log entry 11: DESIGN CHOICE). -/
def execDbgWrite (p : Nat) (s : State) : Out :=
  match s.dbgOpen p 1 with
  | none => .next s
  | some (q, w) =>
    match dbgFrozen q w q.dbgreq with
    | none => .next (s.setPanel (q.dbgDone 2))
    | some k =>
      match dbgTarget q q.dbgreq with
      | .range => .next (s.setPanel (q.dbgDone 3))
      | t =>
        if t == .skeinReg 0x102 && sysIllegal Func.blank 0x102 q.dbgdata then .next (s.setPanel (q.dbgDone 3))
        else if dbgBusy (s.enginesFlag p k.ix) k q.dbgreq t then .next (s.setPanel (q.dbgDone 1))
        else .next (s.setPanel ((q.onSkein (dbgSkein q.dbgreq) fun k => { dbgStore k q.dbgreq t q.dbgdata with reads := none }).dbgDone 0))

/-- DBG_DRAIN (R394): the request starts to wait, or completes with NOTFROZEN. -/
def execDbgDrain (p : Nat) (s : State) : Out :=
  match s.dbgOpen p 2 with
  | none => .next s
  | some (q, w) =>
    match dbgFrozen q w q.dbgreq with
    | none => .next (s.setPanel (q.dbgDone 2))
    | some _ => .next (s.setPanel { q with dbg := some (w, true) })

/-- DBG_DRAIN_COMPLETE (R394): the target skein has nothing outstanding. -/
def execDbgDrainComplete (p : Nat) (s : State) : Out :=
  match s.panel? p with
  | none => .next s
  | some q =>
    match q.dbg, q.skein? (dbgSkein q.dbgreq) with
    | some (_, true), some k => if k.outs.isEmpty && k.results.isEmpty && !s.enginesFlag p k.ix then .next (s.setPanel (q.dbgDone 0)) else .next s
    | _, _ => .next s

end Sys2Proof.Machine
end

