-- ==== Sys2Proof/Machine/Images.lean ====
section
/-!
DEFINITION. Sys2Proof/Machine/Images.lean: kernel headers (R69, R143), pattern images and their registration
(spec/09_work_scheduling.md R170 to R177, R187, R486, R487), and what fits an empty core (R184).
-/
namespace Sys2Proof.Machine

/-! ## Reading a function's memory (R486) -/

/-- Bytes of a function's memory from an address; `none` on any translation fault. -/
def State.funcBytes (s : State) (fn va : Nat) : Nat → Option (List Byte)
  | 0 => some []
  | n + 1 =>
    match s.funcPhys fn 0 va .read, s.funcBytes fn (va + 1) n with
    | some pa, some bs => some (s.mem.get pa :: bs)
    | _, _ => none

/-- Every page that a range touches translates for a supervisor read; `fuel` bounds the pages (R168). -/
def State.mapped (s : State) (fn va n : Nat) : Nat → Bool
  | 0 => n == 0
  | fuel + 1 =>
    if n = 0 then true
    else
      match s.funcPhys fn 0 va .read with
      | none => false
      | some _ =>
        let step := 4096 - va % 4096
        s.mapped fn (va + step) (n - step) fuel

/-- A little-endian field of some bytes. -/
def field (bs : List Byte) (off n : Nat) : Nat := leNat ((bs.drop off).take n)

/-! ## Kernel headers (R69) -/

/-- The header in 64 bytes that lie at an address, and its handler flag; `none` when a field is not legal; a code
size of 0 is a multiple of 64. (log entry 74: DEDUCED) -/
def parseHeader (addr : Nat) (b : List Byte) : Option (Header × Bool) :=
  let h : Header :=
    { addr := BitVec.ofNat 64 addr, vregs := field b 8 1, sregs := field b 9 1, skeins := field b 10 1, gang := field b 11 1
      scratch := field b 12 4, opbuf := field b 16 4, barriers := BitVec.ofNat 32 (field b 20 2)
      roles := BitVec.ofNat 32 (field b 22 2), traps := BitVec.ofNat 32 (field b 24 4), energy := field b 28 1
      pipes := field b 29 1, constOff := BitVec.ofNat 64 (field b 32 8), constBytes := field b 40 4
      codeBytes := field b 44 4, build := BitVec.ofNat 64 (field b 48 8) }
  let handler := field b 6 2 == 1
  if field b 0 4 = 0x484B5250 ∧ field b 4 2 = 1 ∧ field b 6 2 < 2
    ∧ 8 ≤ h.vregs ∧ h.vregs ≤ 128 ∧ h.vregs % 8 = 0 ∧ 8 ≤ h.sregs ∧ h.sregs ≤ 64 ∧ h.sregs % 8 = 0
    ∧ 1 ≤ h.skeins ∧ h.skeins ≤ 32 ∧ 1 ≤ h.gang ∧ h.gang ≤ 24
    ∧ h.scratch % 128 = 0 ∧ h.scratch ≤ 262144 ∧ h.opbuf % 1024 = 0 ∧ h.opbuf ≤ 393216
    ∧ field b 22 2 < 128 ∧ (field b 22 2 = 0) = handler
    ∧ bits (field b 24 4) 3 1 = 0 ∧ bits (field b 24 4) 31 21 = 0 ∧ h.energy < 8
    ∧ h.pipes ≤ 8 ∧ (h.pipes = 0 ∨ 2 ≤ h.gang) ∧ field b 30 2 = 0 ∧ h.constBytes ≤ 65536 ∧ h.codeBytes % 64 = 0
    ∧ field b 56 8 = 0 ∧ (handler → h.gang = 1 ∧ h.skeins = 1) then some (h, handler)
  else none

/-- Why a kernel image is refused: a translation fault, or a check. -/
inductive BadImage where
  | fault | check
deriving DecidableEq, Repr

/-- The kernel image whose entry PC is given: its header, its handler flag and its measurement; the build identifier is
checked (R69, R171). (log entry 24: DEDUCED) (log entry 85: DESIGN CHOICE) -/
def State.readKernel (s : State) (fn : Nat) (entry : Dword) : Except BadImage (Header × Bool × List Byte) :=
  let e := entry.toNat
  if e % 64 ≠ 0 ∨ e < 64 then .error .check
  else
    match s.funcBytes fn (e - 64) 64 with
    | none => .error .fault
    | some b =>
      match parseHeader (e - 64) b with
      | none => .error .check
      | some (h, handler) =>
        match s.funcBytes fn e h.codeBytes, s.funcBytes fn (h.addr + h.constOff).toNat h.constBytes with
        | some code, some consts =>
          let sum := sha3 (code ++ consts)
          if h.build.toNat = leNat (sum.take 8) then .ok (h, handler, sum) else .error .check
        | _, _ => .error .fault

/-! ## Cores (R185, R438) -/

/-- What the graph engine keeps for a core. -/
def State.coreNote (s : State) (core : Nat) : CoreNote := cellGet ⟨false, none, 0, none⟩ s.cores core
/-- The state with a core's note changed. -/
def State.setCoreNote (s : State) (core : Nat) (n : CoreNote) : State := { s with cores := cellSet ⟨false, none, 0, none⟩ s.cores core n }

/-- The cores of a cluster in service. -/
def State.coresOf (s : State) (cluster : Nat) : List Nat :=
  ((List.range 24).map fun i => cluster * 24 + i).filter fun c => !(s.coreNote c).out

/-! ## What a panel needs (R184) -/

/-- Register granules of one skein. -/
def Header.granules (h : Header) : Nat := h.vregs / 8
/-- Scratchpad KiB reserved. -/
def Header.scratchKib (h : Header) : Nat := (h.scratch + 1023) / 1024
/-- Operand-buffer KiB reserved. -/
def Header.opbufKib (h : Header) : Nat := h.opbuf / 1024
/-- Barrier units reserved. -/
def Header.barrierUnits (h : Header) : Nat := ((List.range 16).filter fun i => h.barriers.getLsbD i).length
/-- needs(e) of R183: the total register granules of a panel. -/
def Header.totalGranules (h : Header) : Nat := h.granules * h.skeins
/-- The ring bytes of a pipe (R187). -/
def PipeDesc.bytes (p : PipeDesc) : Nat := 4 * 2 ^ p.esz * 2 ^ p.dep
/-- The ring bytes that a gang member of a rank is home to. -/
def homeBytes (ps : List PipeDesc) (rank : Nat) : Nat := ((ps.filter fun p => p.home == rank).map PipeDesc.bytes).sum

/-- The panel fits an empty core with its rings (R184). -/
def Header.fitsEmpty (h : Header) (rings : Nat) : Bool :=
  decide (h.skeins ≤ 4 * min 16 (64 / h.granules)) && decide (h.scratchKib + (rings + 1023) / 1024 ≤ 256) && decide (h.opbufKib ≤ 384)

/-! ## Pattern images (R173 to R177) -/

/-- A pattern header's fields: nodes, regions, serial, argument bytes and supervisor entry. -/
structure PatHead where
  nodes : Nat
  regions : Nat
  serial : Bool
  argBytes : Nat
  image : Dword

/-- The pattern header, when every field is legal (R173). -/
def parsePatHead (b : List Byte) : Option PatHead :=
  let n := field b 6 2
  let a := field b 12 4
  if field b 0 4 = 0x4E544150 ∧ field b 4 2 = 1 ∧ 1 ≤ n ∧ n ≤ 256 ∧ field b 8 2 ≤ 1024 ∧ field b 10 2 < 2
    ∧ a % 64 = 0 ∧ 128 ≤ a ∧ a ≤ 65536 ∧ field b 24 40 = 0 then
    some ⟨n, field b 8 2, field b 10 2 == 1, a, BitVec.ofNat 64 (field b 16 8)⟩
  else none

/-- The pipe descriptor of 16 bits. -/
def pipeDesc (w : Nat) : PipeDesc := ⟨bits w 15 11, bits w 10 8, bits w 7 4⟩

/-- A node record's fields (R174). -/
def parseNode (b : List Byte) : Node :=
  let kind := field b 0 1
  { kind := kind, level := field b 1 1, body := field b 2 2, panels := field b 4 4, first := BitVec.ofNat 64 (field b 8 8)
    second := BitVec.ofNat 64 (field b 16 8), third := BitVec.ofNat 64 (field b 24 8), grain := field b 32 4
    buffer := field b 36 1, domain := field b 37 1, subq := field b 38 1
    arms := if kind = 6 then (List.range (field b 39 1)).map fun i => field b (44 + i) 1 else []
    members := (List.range 3).map fun i => field b (40 + i) 1
    pipes := if kind = 2 then ((List.range 8).map fun i => pipeDesc (field b (44 + 2 * i) 2)).filter fun p => p.dep != 0 else []
    argOff := field b 60 4, kernels := [] }

/-- The node is a control node. -/
def Node.control (n : Node) : Bool := n.kind == 4 || n.kind == 5 || n.kind == 6

/-- G of a gang node. -/
def Node.size (n : Node) : Nat := n.members.sum

/-- Fields that no check but code 0x01 names are legal, and unused fields are zero (R170, R174). (log entry 89: DESIGN CHOICE) -/
def nodeFieldsOk (b : List Byte) (n : Node) (argBytes : Nat) : Bool :=
  let zero (off len : Nat) : Bool := field b off len == 0
  let argOk := n.argOff % 64 == 0 && decide (64 ≤ n.argOff) && decide (n.argOff + 64 ≤ argBytes)
  zero 43 1 &&
  match n.kind with
  | 0 => zero 2 2 && decide (1 ≤ n.panels) && decide (n.panels ≤ 2 ^ 24) && zero 16 27 && zero 44 16 && argOk
  | 1 => zero 2 2 && decide (1 ≤ n.panels) && decide (n.panels ≤ 255) && decide (n.second.toNat < n.third.toNat)
      && decide (1 ≤ n.grain) && decide (n.grain ≤ 2 ^ 31) && decide (n.panels ≤ n.buffer) && zero 37 6 && zero 44 16 && argOk
  | 2 => zero 2 2 && n.panels == 1 && zero 32 8 && decide (2 ≤ n.size) && decide (n.size ≤ 24)
      && (n.third != 0 || n.members.getD 2 0 == 0) && argOk
  | 3 => zero 2 2 && decide (1 ≤ n.panels) && decide (n.panels ≤ 255) && n.second.toNat % 64 == 0 && zero 24 13
      && decide (n.subq ≤ 1) && zero 39 4 && zero 44 16 && n.argOff == 0
  | 4 => zero 4 4 && zero 16 20 && zero 37 6 && zero 44 16 && n.argOff == 0
  | 5 => zero 4 4 && zero 16 8 && zero 32 4 && zero 37 6 && zero 44 16 && n.argOff == 0
  | 6 => zero 4 4 && zero 16 20 && zero 37 2 && zero 40 3 && zero 52 8 && n.argOff == 0
  | _ => false

/-- The entries of the kernels a node names, with the role bit and gang size each needs (R174). -/
def nodeKernels (n : Node) : List (Dword × Nat × Nat) :=
  match n.kind with
  | 0 => [(n.first, 0, 1)]
  | 1 => [(n.first, 1, 1)]
  | 2 => [(n.first, 2, n.size), (n.second, 3, n.size)] ++ if n.third = 0 then [] else [(n.third, 4, n.size)]
  | 3 => [(n.first, 5 + n.subq, 1)]
  | _ => []

/-- The pipe table of a gang node is legal for its kernels (R187); nonzero bits [3:0] of a used descriptor make it illegal.
(log entry 83: DEDUCED) -/
def pipesOk (b : List Byte) (n : Node) (kernels : List Header) : Bool :=
  let raw := (List.range 8).map fun i => field b (44 + 2 * i) 2
  let used := raw.takeWhile fun w => w != 0
  (raw.drop used.length).all (· == 0) && kernels.all (fun h => h.pipes == used.length) &&
    used.all fun w => let p := pipeDesc w
      decide (p.home < n.size) && decide (p.esz ≤ 5) && decide (5 ≤ p.dep) && decide (p.dep ≤ 10) && w % 16 == 0

/-- The rank of the first member of each kernel of a gang, and the kernel of a rank (R144, R174). -/
def Node.kernelOf (n : Node) (rank : Nat) : Option Header :=
  let a := n.members.getD 0 0
  let b := n.members.getD 1 0
  n.kernels[if rank < a then 0 else if rank < a + b then 1 else 2]?

/-- Every panel of the node fits an empty core; a gang fits an empty cluster of the partition (R184, code 0x03), whose cores in service
are as many as it needs (R438). -/
def State.nodeFits (s : State) (clusters : Word) (n : Node) : Bool :=
  if n.kind = 2 then
    ((List.range 32).any fun c => clusters.getLsbD c && decide (n.size ≤ (s.coresOf c).length)) && (List.range n.size).all fun r => (n.kernelOf r).any fun h => h.fitsEmpty (homeBytes n.pipes r)
  else n.kernels.all fun h => h.fitsEmpty 0

/-- Switch arm lengths past the arm count are zero (R174: an unused field). -/
def armsTailOk (b : List Byte) (n : Node) : Bool := n.kind != 6 || field b (44 + n.arms.length) (8 - n.arms.length) == 0

/-- One node of an image (R487 step 4): its fields, level, kernels, pipes and bound. -/
def State.readNode (s : State) (fn argBytes : Nat) (b : List Byte) : Except Nat Node :=
  let n := parseNode b
  let f := s.func fn
  if !nodeFieldsOk b n argBytes ∨ !armsTailOk b n then .error 1
  else if n.level < f.bandLow ∨ f.bandHigh < n.level then .error 6
  else
    let read : Except Nat (List Header) := (nodeKernels n).foldl (fun acc x =>
      match acc with
      | .error e => .error e
      | .ok hs =>
        match s.readKernel fn x.1 with
        | .error .fault => .error 9
        | .error .check => .error 2
        | .ok (h, handler, _) =>
          if !handler && h.roles.getLsbD x.2.1 && h.gang == x.2.2 && (h.gang == 1 || decide (16 ≤ h.sregs)) then .ok (hs ++ [h])
          else .error 2) (.ok [])
    match read with
    | .error e => .error e
    | .ok hs =>
      let n1 : Node := { n with kernels := hs }
      if n.kind = 2 ∧ !pipesOk b n hs then .error 7
      else if !s.nodeFits f.clusters n1 then .error 3
      else .ok n1

/-- A region a node reads or writes (R175, R176): its node, buffer, bytes and whether it writes. -/
structure Region where
  node : Nat
  buffer : Nat
  off : Nat
  len : Nat
  writes : Bool
deriving DecidableEq, Repr

/-- One region record (R175); `none` is code 0x05. -/
def State.readRegion (s : State) (fn : Nat) (nodes : List Node) (b : List Byte) : Option Region :=
  let r : Region := ⟨field b 18 2, field b 16 1, field b 0 8, field b 8 8, field b 17 1 / 2 == 1⟩
  let kindOk := (nodes[r.node]?).any fun n => decide (n.kind ≤ 2)
  if 1 ≤ r.len ∧ r.len ≤ 2 ^ 48 ∧ (r.buffer ≤ 63 ∨ r.buffer = 255) ∧ 1 ≤ field b 17 1 ∧ field b 17 1 ≤ 3 ∧ field b 20 12 = 0
    ∧ kindOk ∧ (r.buffer ≤ 63 ∨ s.mapped fn r.off r.len (r.len / 4096 + 2)) then some r
  else none

/-- Body bounds, arms, loop limits, control words, nesting, and no trigger in a body (R174, R177). -/
def controlOk (nodes : List Node) : Bool :=
  nodes.zipIdx.all fun (x : Node × Nat) =>
    let n := x.1
    let i := x.2
    !n.control ||
      (decide (1 ≤ n.body) && decide (i + n.body < nodes.length) && (decide (n.buffer ≤ 63) || n.buffer == 255)
        && (n.kind != 5 || (decide (1 ≤ n.third.toNat) && decide (n.third.toNat ≤ 2 ^ 32)))
        && (n.kind != 6 || (decide (1 ≤ n.arms.length) && decide (n.arms.length ≤ 8) && n.arms.sum == n.body))
        && nodes.zipIdx.all fun (y : Node × Nat) =>
          !(decide (i < y.2) && decide (y.2 ≤ i + n.body)) ||
            (y.1.kind != 3 && (!y.1.control || decide (y.2 + y.1.body ≤ i + n.body))))

/-- The regions of every node, the control words' implied reads among them (R175). -/
def allRegions (nodes : List Node) (rs : List Region) : List Region :=
  rs ++ (nodes.zipIdx.filter fun (x : Node × Nat) => x.1.control).map fun (x : Node × Nat) =>
    ⟨x.2, x.1.buffer, x.1.first.toNat, 4, false⟩

/-- Two regions make an edge (R176). -/
def regionsClash (a b : Region) : Bool := a.buffer == b.buffer && (a.writes || b.writes) && overlap a.off a.len b.off b.len

/-- The derived edges (R176). -/
def deriveEdges (n : Nat) (rs : List Region) : List (Nat × Nat) :=
  (List.range n).flatMap fun j => ((List.range j).filter fun i =>
    rs.any fun a => a.node == i && rs.any fun b => b.node == j && regionsClash a b).map fun i => (i, j)

/-- The lowest handle that is not registered (R170). -/
def Func.freeHandle (f : Func) : Nat :=
  ((List.range 1024).find? fun h => !(f.patterns.any fun p => p.handle == h)).getD 1024

/-- Registration of the image at an address: the first failure in the order of R487, or the pattern. -/
def State.readPattern (s : State) (fn addr : Nat) : Except Nat Pattern :=
  if 1024 ≤ (s.func fn).patterns.length then .error 8
  else
    match s.funcBytes fn addr 64 with
    | none => .error 9
    | some hb =>
      match parsePatHead hb with
      | none => .error 1
      | some h =>
        match s.readKernel fn h.image with
        | .error .fault => .error 9
        | .error .check => .error 4
        | .ok (image, handler, sum) =>
          if !handler then .error 4
          else
            let nodes : Except Nat (List Node) := (List.range h.nodes).foldl (fun acc i =>
              match acc with
              | .error e => .error e
              | .ok ns =>
                match s.funcBytes fn (addr + 64 + 64 * i) 64 with
                | none => .error 9
                | some b =>
                  match s.readNode fn h.argBytes b with
                  | .error e => .error e
                  | .ok n => .ok (ns ++ [n])) (.ok [])
            match nodes with
            | .error e => .error e
            | .ok ns =>
              let regions : Except Nat (List Region) := (List.range h.regions).foldl (fun acc i =>
                match acc with
                | .error e => .error e
                | .ok rs =>
                  match s.funcBytes fn (addr + 64 + 64 * h.nodes + 32 * i) 32 with
                  | none => .error 9
                  | some b =>
                    match s.readRegion fn ns b with
                    | none => .error 5
                    | some r => .ok (rs ++ [r])) (.ok [])
              match regions with
              | .error e => .error e
              | .ok rs =>
                let edges := deriveEdges ns.length (allRegions ns rs)
                if !controlOk ns ∨ 4096 < edges.length then .error 7
                else .ok ⟨(s.func fn).freeHandle, addr, h.serial, h.argBytes, image, sum, ns, edges, []⟩

/-! ## The doorbell's registration registers (R166, R169 to R172) -/

/-- The function answers its doorbell: it is active, and the part has booted. -/
def State.answers (s : State) (fn : Nat) : Bool := s.boot == 2 && (s.func fn).st == .active

/-- A PATSTAT value. -/
def patstatOf (code handle : Nat) : Dword := BitVec.ofNat 64 (code * 2 ^ 16 + handle % 2 ^ 16)

/-- PATREG (R170): registration starts, unless one is running. (log entry 49: DEDUCED) -/
def execPatreg (q : HostReq) (w : Dword) (s : State) : Out :=
  let fn := q.fn
  if q.root && s.answers fn && (s.func fn).registering.isNone then
    .next ({ s with code := [] }.onFunc fn fun f => { f with registering := some (BitVec.ofNat 64 (w.toNat / 64 * 64)), patstat := 1#64 <<< 63 })
  else .next s

/-- REGISTRATION_COMPLETE (R170, R171, R487). -/
def execRegistrationComplete (fn : Nat) (s : State) : Out :=
  match (s.func fn).registering with
  | none => .next s
  | some a =>
    match s.readPattern fn a.toNat with
    | .error c => .next (s.onFunc fn fun f => { f with registering := none, patstat := patstatOf c 0 })
    | .ok p => .next (s.onFunc fn fun f =>
        { f with registering := none, patterns := f.patterns ++ [p], patstat := patstatOf 0 p.handle })

/-- A trigger node of the pattern has a resident panel (R172). -/
def State.triggerLive (s : State) (fn handle : Nat) : Bool :=
  s.panels.any fun p => p.fn == fn && p.handle == handle && decide (p.node < 2 ^ 16)

/-- PATUNREG (R172): the pattern's trigger nodes are disarmed with it, and their saved panels go. (log entry 75: DEDUCED) -/
def execPatunreg (q : HostReq) (w : Dword) (s : State) : Out :=
  let fn := q.fn
  let h := w.toNat % 2 ^ 16
  let f := s.func fn
  let answer (code : Nat) (s : State) : State := s.onFunc fn fun f => { f with patstat := patstatOf code h }
  if !(q.root && s.answers fn && f.registering.isNone) then .next s
  else if !f.patterns.any fun p => p.handle == h then .next (answer 0x0B s)
  else if f.launches.any (fun l => l.handle == h) || s.triggerLive fn h then .next (s.onFunc fn fun f => { f with patstat := patstatOf 0x0A 0 })
  else
    let s1 := s.onFunc fn fun f =>
      { f with patterns := f.patterns.filter fun p => p.handle != h, saved := f.saved.filter fun x => x.handle != h }
    .next (answer 0 { s1 with pool := s1.pool.filter fun e => !(e.fn == fn && e.handle == h) })

end Sys2Proof.Machine
end

