-- ==== Sys2Proof/Machine/AluCore.lean ====
section
/-!
DEFINITION. Sys2Proof/Machine/AluCore.lean: what every instruction with the ALU layout shares: reading its operands,
the value a lane with a false predicate pushes (R22), vector and scalar forms (R24, R137), variable latency (R21).
-/
namespace Sys2Proof.Machine

/-- A kind of 32 or 64 bits by the width of the type. -/
def anyOf (t : Ty) : SrcKind := if t.width = 64 then .wide else .any
/-- A fixed-latency destination by the width of the result; 64-bit results take no mask register (R107). -/
def fixedOf (t : Ty) : DstKind := if t.width = 64 then .fixed64 else .fixed true
/-- The latency of a latency-4 instruction of R25: 6 on 64-bit types. -/
def lat4 (t : Ty) : Nat := if t.width = 64 then 6 else 4

/-- The raw bits of the three operands as one lane reads them. -/
structure Opnds where
  a : Dword
  b : Dword
  c : Dword
deriving DecidableEq, Repr

/-- The three operands of a form (R27, R37, R38). -/
def Frame.opnds (fr : Frame) (x : Alu) (f : Form) (l : Nat) : Opnds where
  a := fr.read x.slot l x.slot.sa (f.a.words == 2) x.ty.signed
  b := fr.read x.slot l x.slot.sb (f.b.words == 2) x.ty.signed
  c := fr.read x.slot l x.slot.sc (f.c.words == 2) x.ty.signed

/-- What a lane with a false predicate pushes: SA's bits at their operand width `wa` (R22). -/
def Frame.passValue (fr : Frame) (x : Alu) (f : Form) (wa l : Nat) : Dword :=
  BitVec.ofNat 64 ((fr.opnds x f l).a.toNat % 2 ^ wa)

/-- How an ALU instruction computes: for a frame, the active lanes and one lane, the result bits and the flags. -/
abbrev AluFn := Frame → List Nat → Nat → Dword × Word

/-- The results of a vector or scalar form over the active lanes (R24, R137). -/
def aluVals (x : Alu) (f : AluFn) (fr : Frame) (on : List Nat) : List (Nat × Dword × Word) :=
  if x.sf then on.map fun l => (l, f fr on (fr.leader x.slot)) else on.map fun l => (l, f fr on l)

/-- The plan of a fixed-latency instruction: `wide` results, SA operands of `wa` bits. -/
def aluPlan (x : Alu) (form : Form) (lat : Nat) (wide float raises : Bool) (wa : Nat) (f : AluFn)
    (fr : Frame) (alive : List Nat) : Plan where
  lat := lat
  wide := wide
  once := x.sf
  dst := x.slot.dst
  vals := aluVals x f fr (fr.active x.slot alive)
  passes := (alive.filter fun l => !predOn x.slot fr.k l).map fun l =>
    (l, fr.passValue x form wa (if x.sf then fr.leader x.slot else l))
  float := float
  raises := raises

/-- A fixed-latency instruction as a member of an issue event. -/
def aluMember (i : Instr) (x : Alu) (form : Form) (lat : Nat) (wide float raises : Bool) (wa : Nat) (f : AluFn) : Member where
  slot := x.slot
  hi := slotHigh (encode i)
  form := form
  once := x.sf
  plan := aluPlan x form lat wide float raises wa f

/-- A value function of the operands alone that raises no flag. -/
def pureFn (x : Alu) (form : Form) (g : Opnds → Dword) : AluFn := fun fr _ l => (g (fr.opnds x form l), 0)

/-- The outstanding write of a variable-latency instruction: the targets and values of the active lanes, without those
whose result raises an enabled exception (R21, R84, R137, R484). -/
def lateWrite (x : Alu) (wide float : Bool) (en : Nat) (f : AluFn) (fr : Frame) (on : List Nat) : VarWrite :=
  let vals := aluVals x f fr on
  let pl : Plan := { wide := wide, once := x.sf, dst := x.slot.dst, vals := vals, float := float }
  let exc := pl.excTraps en fr.pc false
  let good := vals.filter fun v => !(exc.map fun t => t.lane).contains v.1
  let ws := pl.regs fr (fr.leader x.slot) good
  { seq := 0, targets := (pl.regs fr (fr.leader x.slot) vals).map fun w => w.1, vals := ws, awaits := []
    flags := orFlags (vals.map fun v => v.2.2), raises := float, hold := float && en != 0, exc := exc
    bad := [], homes := [] }

/-- What poisoned fragments leave of an outstanding write (R309): the lanes they feed and the targets that receive nothing, a register of the
skein only where the lane's value is the one it takes. -/
def fragTargets (x : Alu) (wide : Bool) (fr : Frame) (spoiled : List Nat) : List BadTarget :=
  spoiled.flatMap fun l =>
    badTargets l (if dstOfSkein x.slot.dst && l != fr.leader x.slot then [] else fr.dstTargets l x.slot.dst (if wide then 2 else 1))
      (some (BitVec.allOnes 64))

/-- The write that a variable-latency instruction of the ALU layout leaves outstanding for the active lanes: its results, with a poison
marker for each register that a poisoned fragment feeds (R309, R479). -/
def State.lateOut (s : State) (x : Alu) (wide float : Bool) (f : AluFn) (fr : Frame) (on : List Nat) : VarWrite :=
  { lateWrite x wide float (fr.p.fpEnables fr.mode) f fr on with bad := fragTargets x wide fr (s.spoiled fr x.slot x.sf false on) }

/-- A variable-latency instruction of the ALU layout (R21): its write is outstanding until it lands. -/
def runLate (i : Instr) (x : Alu) (form : Form) (wide float : Bool) (f : AluFn) (s : State) : Out :=
  runSlot { slot := x.slot, hi := slotHigh (encode i), form := form, once := x.sf } s fun fr alive s =>
    let on := fr.active x.slot alive
    if on.isEmpty then .done s [] [] []
    else
      let w := s.lateOut x wide float f fr on
      .done (s.onPanel fr.p.id fun p => p.onSkein fr.kx fun k => k.addOut w) [] (w.exc.map fun t => t.lane) []

end Sys2Proof.Machine
end

