-- ==== Sys2Proof/Machine/Integer.lean ====
section
/-!
DEFINITION. Sys2Proof/Machine/Integer.lean: opcodes 0x20 to 0x41 (spec/05_integer_and_control.md R99 to R107).
-/
namespace Sys2Proof.Machine

/-! ## Values -/

/-- The value of integer operand bits under a type (R71). -/
def intVal (t : Ty) (x : Dword) : Int := if t.signed then sext x.toNat t.width else (zext x.toNat t.width : Nat)

/-- The least value of an integer type of `n` bits. -/
def intMin (signed : Bool) (n : Nat) : Int := if signed then -(2 : Int) ^ (n - 1) else 0
/-- The greatest value of an integer type of `n` bits. -/
def intMax (signed : Bool) (n : Nat) : Int := if signed then (2 : Int) ^ (n - 1) - 1 else (2 : Int) ^ n - 1

/-- An integer result from the exact value: wrapped, or clamped under SAT (R72). -/
def intResult (signed : Bool) (n : Nat) (sat : Bool) (x : Int) : Dword :=
  let y := if sat then max (intMin signed n) (min x (intMax signed n)) else x
  BitVec.ofNat 64 (wrap y n)

/-- The result of an instruction of R100 at its own type. -/
def intOut (x : Alu) (v : Int) : Dword := intResult x.ty.signed x.ty.width x.sat v

/-- A truth value as a result (R100, R115). -/
def boolOut (b : Bool) : Dword := if b then 1 else 0

/-- Quotient and remainder of R101 on `n`-bit operands. -/
def idivQuot (t : Ty) (a b : Dword) : Dword :=
  let n := t.width
  if zext b.toNat n = 0 then BitVec.ofNat 64 (2 ^ n - 1)
  else intResult t.signed n false ((intVal t a).tdiv (intVal t b))

/-- The remainder of R101. -/
def idivRem (t : Ty) (a b : Dword) : Dword :=
  let n := t.width
  if zext b.toNat n = 0 then BitVec.ofNat 64 (zext a.toNat n)
  else intResult t.signed n false ((intVal t a).tmod (intVal t b))

/-- Truth of an ICMP relation (R100). -/
def icmpHolds (sub : Fin 8) (a b : Int) : Bool :=
  match sub.val with
  | 0 => a == b
  | 1 => a != b
  | 2 => decide (a < b)
  | 3 => decide (a ≤ b)
  | 4 => decide (a > b)
  | _ => decide (a ≥ b)

/-- The number of ones among the low `n` bits. -/
def countOnes (x : Nat) : Nat → Nat
  | 0 => 0
  | n + 1 => countOnes x n + (if x.testBit n then 1 else 0)

/-- The number of leading zeros of an `n`-bit value (R103). -/
def leadingZeros (x : Nat) : Nat → Nat
  | 0 => 0
  | n + 1 => if x.testBit n then 0 else leadingZeros x n + 1

/-- The bits of an `n`-bit value in reverse order. -/
def reverseBits (x : Nat) : Nat → Nat
  | 0 => 0
  | n + 1 => reverseBits (x / 2) n + (x % 2) * 2 ^ n

/-- The number of trailing zeros of an `n`-bit value; `n` when it is zero (R103). -/
def trailingZeros (x n : Nat) : Nat := leadingZeros (reverseBits x n) n

/-- SHL (R103). -/
def shlValue (n a b : Nat) : Nat := if b < n then a * 2 ^ b % 2 ^ n else 0
/-- SHR (R103). -/
def shrValue (n a b : Nat) : Nat := if b < n then a / 2 ^ b else 0
/-- SAR (R103). -/
def sarValue (n a b : Nat) : Nat := wrap (sext a n / (2 : Int) ^ min b (n - 1)) n
/-- ROL (R103). -/
def rolValue (n a b : Nat) : Nat := (a * 2 ^ (b % n) + a / 2 ^ (n - b % n)) % 2 ^ n

/-- The position and effective length of a field control word (R104). -/
def fieldOf (n w : Nat) : Nat × Nat :=
  let p := min (bits w 7 0) n
  (p, min (bits w 15 8) (n - p))

/-- BFX (R104). -/
def bfxValue (n a w : Nat) (signed : Bool) : Nat :=
  let pe := fieldOf n w
  if pe.2 = 0 then 0
  else
    let f := a / 2 ^ pe.1 % 2 ^ pe.2
    if signed then wrap (sext f pe.2) n else f

/-- BFI (R104). -/
def bfiValue (n a b w : Nat) : Nat :=
  let pe := fieldOf n w
  if pe.2 = 0 then a
  else a - (a / 2 ^ pe.1 % 2 ^ pe.2) * 2 ^ pe.1 + b % 2 ^ pe.2 * 2 ^ pe.1

/-- One result byte of PRMT under its control byte (R105). -/
def prmtByte (ba ctl : Nat) : Nat :=
  let b := ba / 256 ^ (ctl % 8) % 256
  match ctl / 8 % 4 with
  | 0 => b
  | 1 => reverseBits b 8
  | 2 => 0
  | _ => 255

/-- PRMT (R105). -/
def prmtValue (a b c : Nat) : Nat :=
  let ba := b * 2 ^ 32 + a
  prmtByte ba (c % 256) + 256 * prmtByte ba (c / 256 % 256) + 65536 * prmtByte ba (c / 65536 % 256)
    + 16777216 * prmtByte ba (c / 16777216 % 256)

/-- IADDC (R106): the low word and the carry or borrow. -/
def iaddcValue (sub : Bool) (a b ci : Nat) : Dword :=
  if sub then
    let x : Int := (a : Int) - b - ci
    BitVec.ofNat 64 ((if x < 0 then 2 ^ 32 else 0) + wrap x 32)
  else
    let x := a + b + ci
    BitVec.ofNat 64 ((if 2 ^ 32 ≤ x then 2 ^ 32 else 0) + x % 2 ^ 32)

/-- MOV with its source modifiers (R41, R102). -/
def movValue (x : Alu) (a : Dword) : Dword :=
  let sign : Nat := match x.ty with
    | .f32 => 2 ^ 31
    | .f16x2 | .bf16x2 => 2 ^ 31 + 2 ^ 15
    | _ => 0
  let n1 := if x.aabs then a &&& ~~~(BitVec.ofNat 64 sign) else a
  if x.aneg then n1 ^^^ BitVec.ofNat 64 sign else n1

/-- LEA (R102): `b` is 32 bits, sign-extended for .i64. -/
def leaValue (x : Alu) (a b : Dword) : Dword :=
  let n := x.ty.width
  let off : Int := if x.ty = .i64 then sext b.toNat 32 else (zext b.toNat 32 : Nat)
  BitVec.ofNat 64 (wrap ((a.toNat : Int) + off * (2 : Int) ^ x.sub.val) n)

/-! ## Forms -/

/-- Two operands at the type's width. -/
def form2 (t : Ty) : Form := { dst := fixedOf t, a := anyOf t, b := anyOf t }
/-- Three operands at the type's width. -/
def form3 (t : Ty) : Form := { dst := fixedOf t, a := anyOf t, b := anyOf t, c := anyOf t }
/-- One operand at the type's width. -/
def form1 (t : Ty) : Form := { dst := fixedOf t, a := anyOf t }
/-- A shift or field form: b is always 32 bits. -/
def formShift (t : Ty) : Form := { dst := fixedOf t, a := anyOf t, b := .any }
/-- A count form: the result is 32 bits. -/
def formCount (t : Ty) : Form := { dst := .fixed true, a := anyOf t }

/-- A member whose operands and result have the type's width. -/
def intMember (i : Instr) (x : Alu) (form : Form) (lat : Nat) (g : Opnds → Dword) : Member :=
  aluMember i x form lat (x.ty.width == 64) false false x.ty.width (pureFn x form g)

/-! ## Members, one per row -/

/-- IADD (R100). -/
def memberIadd (x : Alu) : Member :=
  intMember (.iadd x) x (form2 x.ty) (lat4 x.ty) fun o => intOut x (intVal x.ty o.a + intVal x.ty o.b)
/-- ISUB (R100). -/
def memberIsub (x : Alu) : Member :=
  intMember (.isub x) x (form2 x.ty) (lat4 x.ty) fun o => intOut x (intVal x.ty o.a - intVal x.ty o.b)
/-- IMUL (R100). -/
def memberImul (x : Alu) : Member :=
  intMember (.imul x) x (form2 x.ty) 6 fun o => intOut x (intVal x.ty o.a * intVal x.ty o.b)
/-- IMULH (R100): `.su` reads b as unsigned. -/
def memberImulh (x : Alu) : Member :=
  intMember (.imulh x) x (form2 x.ty) 6 fun o =>
    let b : Int := if x.sub = 1 then (zext o.b.toNat x.ty.width : Nat) else intVal x.ty o.b
    intOut x ((intVal x.ty o.a * b) / (2 : Int) ^ x.ty.width)
/-- IMAD (R100). -/
def memberImad (x : Alu) : Member :=
  intMember (.imad x) x (form3 x.ty) 6 fun o => intOut x (intVal x.ty o.a * intVal x.ty o.b + intVal x.ty o.c)
/-- The form of IMADW: c and the result are 64 bits (R100). -/
def formImadwOps : Form := { dst := .fixed64, a := .any, b := .any, c := .wide }
/-- IMADW (R100). -/
def memberImadw (x : Alu) : Member :=
  aluMember (.imadw x) x formImadwOps 6 true false false 32 (pureFn x formImadwOps fun o =>
    let c : Int := if x.ty.signed then sext o.c.toNat 64 else (o.c.toNat : Nat)
    intResult x.ty.signed 64 x.sat (intVal x.ty o.a * intVal x.ty o.b + c))
/-- IMIN (R100). -/
def memberImin (x : Alu) : Member :=
  intMember (.imin x) x (form2 x.ty) (lat4 x.ty) fun o => intOut x (min (intVal x.ty o.a) (intVal x.ty o.b))
/-- IMAX (R100). -/
def memberImax (x : Alu) : Member :=
  intMember (.imax x) x (form2 x.ty) (lat4 x.ty) fun o => intOut x (max (intVal x.ty o.a) (intVal x.ty o.b))
/-- IABS (R100). -/
def memberIabs (x : Alu) : Member :=
  intMember (.iabs x) x (form1 x.ty) (lat4 x.ty) fun o => intOut x |intVal x.ty o.a|
/-- INEG (R100). -/
def memberIneg (x : Alu) : Member :=
  intMember (.ineg x) x (form1 x.ty) (lat4 x.ty) fun o => intOut x (-intVal x.ty o.a)
/-- The form of ICMP: the result is 32 bits (R100). -/
def formIcmpOps (t : Ty) : Form := { dst := .fixed true, a := anyOf t, b := anyOf t }
/-- ICMP (R100). -/
def memberIcmp (x : Alu) : Member :=
  aluMember (.icmp x) x (formIcmpOps x.ty) (lat4 x.ty) false false false x.ty.width (pureFn x (formIcmpOps x.ty) fun o =>
    boolOut (icmpHolds x.sub (intVal x.ty o.a) (intVal x.ty o.b)))
/-- ICLAMP (R100). -/
def memberIclamp (x : Alu) : Member :=
  intMember (.iclamp x) x (form3 x.ty) (lat4 x.ty) fun o =>
    intOut x (min (max (intVal x.ty o.a) (intVal x.ty o.b)) (intVal x.ty o.c))
/-- The form of SEL: c is 32 bits (R102). -/
def formSelOps (t : Ty) : Form := { dst := fixedOf t, a := anyOf t, b := anyOf t, c := .any }
/-- SEL (R102). -/
def memberSel (x : Alu) : Member :=
  intMember (.sel x) x (formSelOps x.ty) (lat4 x.ty) fun o => if o.c.toNat % 2 ^ 32 != 0 then o.a else o.b
/-- MOV (R102). -/
def memberMov (x : Alu) : Member := intMember (.mov x) x (form1 x.ty) (lat4 x.ty) fun o => movValue x o.a
/-- LEA (R102). -/
def memberLea (x : Alu) : Member := intMember (.lea x) x (formShift x.ty) (lat4 x.ty) fun o => leaValue x o.a o.b
/-- AND (R103). -/
def memberAnd (x : Alu) : Member := intMember (.and x) x (form2 x.ty) (lat4 x.ty) fun o => o.a &&& o.b
/-- OR (R103). -/
def memberOr (x : Alu) : Member := intMember (.or x) x (form2 x.ty) (lat4 x.ty) fun o => o.a ||| o.b
/-- XOR (R103). -/
def memberXor (x : Alu) : Member := intMember (.xor x) x (form2 x.ty) (lat4 x.ty) fun o => o.a ^^^ o.b
/-- NOT (R103). -/
def memberNot (x : Alu) : Member :=
  intMember (.not x) x (form1 x.ty) (lat4 x.ty) fun o => BitVec.ofNat 64 (2 ^ x.ty.width - 1 - zext o.a.toNat x.ty.width)
/-- ANDN (R103). -/
def memberAndn (x : Alu) : Member := intMember (.andn x) x (form2 x.ty) (lat4 x.ty) fun o => o.a &&& ~~~o.b
/-- A shift by a 32-bit amount (R103). -/
def shiftMember (i : Instr) (x : Alu) (g : Nat → Nat → Nat → Nat) : Member :=
  intMember i x (formShift x.ty) (lat4 x.ty) fun o =>
    BitVec.ofNat 64 (g x.ty.width (zext o.a.toNat x.ty.width) (zext o.b.toNat 32))
/-- SHL (R103). -/
def memberShl (x : Alu) : Member := shiftMember (.shl x) x shlValue
/-- SHR (R103). -/
def memberShr (x : Alu) : Member := shiftMember (.shr x) x shrValue
/-- SAR (R103). -/
def memberSar (x : Alu) : Member := shiftMember (.sar x) x sarValue
/-- ROL (R103). -/
def memberRol (x : Alu) : Member := shiftMember (.rol x) x rolValue
/-- A count over the type's bits (R103): the result is 32 bits. -/
def countMember (i : Instr) (x : Alu) (g : Nat → Nat → Nat) : Member :=
  aluMember i x (formCount x.ty) (lat4 x.ty) false false false x.ty.width (pureFn x (formCount x.ty) fun o =>
    BitVec.ofNat 64 (g (zext o.a.toNat x.ty.width) x.ty.width))
/-- POPC (R103). -/
def memberPopc (x : Alu) : Member := countMember (.popc x) x countOnes
/-- CLZ (R103). -/
def memberClz (x : Alu) : Member := countMember (.clz x) x leadingZeros
/-- CTZ (R103). -/
def memberCtz (x : Alu) : Member := countMember (.ctz x) x trailingZeros
/-- BREV (R103). -/
def memberBrev (x : Alu) : Member :=
  intMember (.brev x) x (form1 x.ty) (lat4 x.ty) fun o =>
    BitVec.ofNat 64 (reverseBits (zext o.a.toNat x.ty.width) x.ty.width)
/-- BFX (R104). -/
def memberBfx (x : Alu) : Member :=
  intMember (.bfx x) x (formShift x.ty) (lat4 x.ty) fun o =>
    BitVec.ofNat 64 (bfxValue x.ty.width (zext o.a.toNat x.ty.width) o.b.toNat (x.sub == 1))
/-- The form of BFI: c is the 32-bit control word (R104). -/
def formBfiOps (t : Ty) : Form := { dst := fixedOf t, a := anyOf t, b := anyOf t, c := .any }
/-- BFI (R104). -/
def memberBfi (x : Alu) : Member :=
  intMember (.bfi x) x (formBfiOps x.ty) (lat4 x.ty) fun o =>
    BitVec.ofNat 64 (bfiValue x.ty.width (zext o.a.toNat x.ty.width) (zext o.b.toNat x.ty.width) o.c.toNat)
/-- PRMT (R105). -/
def memberPrmt (x : Alu) : Member :=
  intMember (.prmt x) x (form3 x.ty) (lat4 x.ty) fun o =>
    BitVec.ofNat 64 (prmtValue (zext o.a.toNat 32) (zext o.b.toNat 32) (zext o.c.toNat 32))
/-- The form of IADDC: the result is 64 bits and no mask register is a destination (R106). -/
def formIaddcOps : Form := { dst := .fixed64, a := .any, b := .any, c := .any }
/-- IADDC (R106). -/
def memberIaddc (x : Alu) : Member :=
  aluMember (.iaddc x) x formIaddcOps 4 true false false 32 (pureFn x formIaddcOps fun o =>
    iaddcValue (x.sub == 1) (zext o.a.toNat 32) (zext o.b.toNat 32) (o.c.toNat % 2))

/-- The form of IDIV and IREM (R101): every destination a variable-latency result may have, in vector and scalar forms.
(log entry 81: DEDUCED) -/
def formDivOps (t : Ty) : Form :=
  { dst := if t.width = 64 then .late64 else .late true, a := anyOf t, b := anyOf t }

/-! ## Meanings -/

/-- IADD. -/
def execIadd (x : Alu) (s : State) : Out := runMembers [memberIadd x] s
/-- ISUB. -/
def execIsub (x : Alu) (s : State) : Out := runMembers [memberIsub x] s
/-- IMUL. -/
def execImul (x : Alu) (s : State) : Out := runMembers [memberImul x] s
/-- IMULH. -/
def execImulh (x : Alu) (s : State) : Out := runMembers [memberImulh x] s
/-- IMAD. -/
def execImad (x : Alu) (s : State) : Out := runMembers [memberImad x] s
/-- IMADW. -/
def execImadw (x : Alu) (s : State) : Out := runMembers [memberImadw x] s
/-- IDIV (R101). -/
def execIdiv (x : Alu) (s : State) : Out :=
  runLate (.idiv x) x (formDivOps x.ty) (x.ty.width == 64) false
    (pureFn x (formDivOps x.ty) fun o => idivQuot x.ty o.a o.b) s
/-- IREM (R101). -/
def execIrem (x : Alu) (s : State) : Out :=
  runLate (.irem x) x (formDivOps x.ty) (x.ty.width == 64) false
    (pureFn x (formDivOps x.ty) fun o => idivRem x.ty o.a o.b) s
/-- IMIN. -/
def execImin (x : Alu) (s : State) : Out := runMembers [memberImin x] s
/-- IMAX. -/
def execImax (x : Alu) (s : State) : Out := runMembers [memberImax x] s
/-- IABS. -/
def execIabs (x : Alu) (s : State) : Out := runMembers [memberIabs x] s
/-- INEG. -/
def execIneg (x : Alu) (s : State) : Out := runMembers [memberIneg x] s
/-- ICMP. -/
def execIcmp (x : Alu) (s : State) : Out := runMembers [memberIcmp x] s
/-- SEL. -/
def execSel (x : Alu) (s : State) : Out := runMembers [memberSel x] s
/-- MOV. -/
def execMov (x : Alu) (s : State) : Out := runMembers [memberMov x] s
/-- LEA. -/
def execLea (x : Alu) (s : State) : Out := runMembers [memberLea x] s
/-- AND. -/
def execAnd (x : Alu) (s : State) : Out := runMembers [memberAnd x] s
/-- OR. -/
def execOr (x : Alu) (s : State) : Out := runMembers [memberOr x] s
/-- XOR. -/
def execXor (x : Alu) (s : State) : Out := runMembers [memberXor x] s
/-- NOT. -/
def execNot (x : Alu) (s : State) : Out := runMembers [memberNot x] s
/-- ANDN. -/
def execAndn (x : Alu) (s : State) : Out := runMembers [memberAndn x] s
/-- SHL. -/
def execShl (x : Alu) (s : State) : Out := runMembers [memberShl x] s
/-- SHR. -/
def execShr (x : Alu) (s : State) : Out := runMembers [memberShr x] s
/-- SAR. -/
def execSar (x : Alu) (s : State) : Out := runMembers [memberSar x] s
/-- ROL. -/
def execRol (x : Alu) (s : State) : Out := runMembers [memberRol x] s
/-- POPC. -/
def execPopc (x : Alu) (s : State) : Out := runMembers [memberPopc x] s
/-- CLZ. -/
def execClz (x : Alu) (s : State) : Out := runMembers [memberClz x] s
/-- CTZ. -/
def execCtz (x : Alu) (s : State) : Out := runMembers [memberCtz x] s
/-- BREV. -/
def execBrev (x : Alu) (s : State) : Out := runMembers [memberBrev x] s
/-- BFX. -/
def execBfx (x : Alu) (s : State) : Out := runMembers [memberBfx x] s
/-- BFI. -/
def execBfi (x : Alu) (s : State) : Out := runMembers [memberBfi x] s
/-- PRMT. -/
def execPrmt (x : Alu) (s : State) : Out := runMembers [memberPrmt x] s
/-- IADDC. -/
def execIaddc (x : Alu) (s : State) : Out := runMembers [memberIaddc x] s
/-- ICLAMP. -/
def execIclamp (x : Alu) (s : State) : Out := runMembers [memberIclamp x] s

end Sys2Proof.Machine
end

