-- ==== Sys2Proof/Machine/Transcend.lean ====
section
/-!
DEFINITION. Sys2Proof/Machine/Transcend.lean: the special functions of spec/06_float_instructions.md R122 to R125. FRCP,
FDIV, FSQRT and FRSQ are rounded from exact quotients and integer square roots. FEXP2, FLOG2, FSINT and FCOST are
enclosed in fixed-point intervals, at a precision that doubles until both ends round alike (log entry 6: DEDUCED).
-/
namespace Sys2Proof.Machine

/-- The rounding of every special function: nearest even, under the captured flush (R122). -/
def specialCfg (ftz : Bool) : RoundCfg := { rm := .rne, ftz := ftz }

/-! ## Quotients and roots -/

/-- FDIV (R125). -/
def fDiv (f : Fmt) (ftz : Bool) (a b : Nat) : FRes :=
  match decodeFloat f a, decodeFloat f b with
  | .nan s, .nan t => nanRes f (s || t)
  | .nan s, _ => nanRes f s
  | _, .nan t => nanRes f t
  | .inf _, .inf _ => nanRes f true
  | .zero _, .zero _ => nanRes f true
  | .inf n, .zero m => (f.inf (n != m), 0)
  | .inf n, .fin m _ _ => (f.inf (n != m), 0)
  | .fin n _ _, .zero m => (f.inf (n != m), flagDZ)
  | .zero n, .inf m => (f.zero (n != m), 0)
  | .fin n _ _, .inf m => (f.zero (n != m), 0)
  | .zero n, .fin m _ _ => (f.zero (n != m), 0)
  | .fin n x e, .fin m y e' =>
    let g := e - e'
    roundRatio f (specialCfg ftz) false (n != m) (x * 2 ^ g.toNat) (y * 2 ^ (-g).toNat)

/-- FRCP (R123). -/
def fRcp (f : Fmt) (ftz : Bool) (a : Nat) : FRes :=
  match decodeFloat f a with
  | .nan s => nanRes f s
  | .inf n => (f.zero n, 0)
  | .zero n => (f.inf n, flagDZ)
  | .fin n x e => roundRatio f (specialCfg ftz) false n (2 ^ (-e).toNat) (x * 2 ^ e.toNat)

/-- One halving of the search for an integer square root: `lo ≤ √n < hi`. -/
def sqrtSearch (n : Nat) : Nat → Nat → Nat → Nat
  | 0, lo, _ => lo
  | fuel + 1, lo, hi =>
    let mid := (lo + hi) / 2
    if mid * mid ≤ n then sqrtSearch n fuel mid hi else sqrtSearch n fuel lo mid

/-- The integer square root. -/
def isqrt (n : Nat) : Nat := sqrtSearch n (Nat.log2 n + 3) 0 (n + 1)

/-- The square root of `n/d`, rounded: the root is enclosed to 128 bits below the point after scaling, and an inexact
root stands midway between two neighbours there, where no rounding boundary lies. -/
def rootRatio (f : Fmt) (ftz : Bool) (n d : Nat) : FRes :=
  let k := 256
  let m := n * 2 ^ (2 * k) / d
  let r := isqrt m
  if r * r * d = n * 2 ^ (2 * k) then roundRatio f (specialCfg ftz) false false r (2 ^ k)
  else roundRatio f (specialCfg ftz) false false (2 * r + 1) (2 ^ (k + 1))

/-- FSQRT (R123). -/
def fSqrt (f : Fmt) (ftz : Bool) (a : Nat) : FRes :=
  match decodeFloat f a with
  | .nan s => nanRes f s
  | .inf true => nanRes f true
  | .inf false => (f.inf false, 0)
  | .zero n => (f.zero n, 0)
  | .fin true _ _ => nanRes f true
  | .fin false x e => rootRatio f ftz (x * 2 ^ e.toNat) (2 ^ (-e).toNat)

/-- FRSQ (R123). -/
def fRsq (f : Fmt) (ftz : Bool) (a : Nat) : FRes :=
  match decodeFloat f a with
  | .nan s => nanRes f s
  | .inf true => nanRes f true
  | .inf false => (f.zero false, 0)
  | .zero n => (f.inf n, flagDZ)
  | .fin true _ _ => nanRes f true
  | .fin false x e => rootRatio f ftz (2 ^ (-e).toNat) (x * 2 ^ e.toNat)

/-! ## Fixed-point series

A value `v` at precision `p` stands for `v / 2^p`. Each operation below drops less than one unit, and every series has
fewer than `p + 2` terms, so a value is within `2^(log2 p + 6)` units of the true one: `slack`. -/

/-- The error bound of a series value, in units of the last place. -/
def slack (p : Nat) : Nat := 64 * p

/-- `Σ x^k/k!` from the `k`-th term on, for a fixed-point `x` below 2. -/
def expSeries (p x : Nat) : Nat → Nat → Nat → Nat
  | 0, _, _ => 0
  | fuel + 1, k, term => if term = 0 then 0 else term + expSeries p x fuel (k + 1) (term * x / 2 ^ p / (k + 1))

/-- `Σ (±1) x^(2j+c)/(2j+c)!` from a term on; `sq` is `x²` and `k` the index of the term. -/
def altSeries (p sq : Nat) : Nat → Nat → Nat → Int
  | 0, _, _ => 0
  | fuel + 1, k, term =>
    if term = 0 then 0 else (term : Int) - altSeries p sq fuel (k + 2) (term * sq / 2 ^ p / ((k + 1) * (k + 2)))

/-- `Σ z^(2j+1)/(2j+1)`: the inverse hyperbolic tangent of `z` below 1/2. -/
def atanhSeries (p sq : Nat) : Nat → Nat → Nat → Nat
  | 0, _, _ => 0
  | fuel + 1, k, pow => if pow = 0 then 0 else pow / k + atanhSeries p sq fuel (k + 2) (pow * sq / 2 ^ p)

/-- `Σ ± z^(2j+1)/(2j+1)` with `z = 1/m`: the inverse tangent of `1/m`. -/
def atanSeries (m : Nat) : Nat → Nat → Nat → Int
  | 0, _, _ => 0
  | fuel + 1, k, pow => if pow = 0 then 0 else ((pow / k : Nat) : Int) - atanSeries m fuel (k + 2) (pow / (m * m))

/-- ln 2 in fixed point: twice the inverse hyperbolic tangent of 1/3. -/
def ln2Fixed (p : Nat) : Nat := 2 * atanhSeries p (2 ^ p / 9) (p + 2) 1 (2 ^ p / 3)

/-- π in fixed point: 16 atan(1/5) − 4 atan(1/239). -/
def piFixed (p : Nat) : Nat :=
  (16 * atanSeries 5 (p + 2) 1 (2 ^ p / 5) - 4 * atanSeries 239 (p + 2) 1 (2 ^ p / 239)).toNat

/-- A magnitude known to lie within `slack` of `v / 2^p`, rounded at both ends; the bits when they agree. -/
def roundEnclosed (f : Fmt) (ftz neg : Bool) (p v : Nat) (shift : Int) : Option FRes :=
  let lo := v - slack p
  let hi := v + slack p
  if lo = 0 then none
  else
    let at_ (x : Nat) : FRes := roundRatio f (specialCfg ftz) false neg (x * 2 ^ shift.toNat) (2 ^ p * 2 ^ (-shift).toNat)
    let a := at_ lo
    let b := at_ hi
    if a.1 = b.1 then some (a.1, a.2 ||| b.2 ||| flagNX) else none

/-- The first precision at which an enclosure decides the rounding; the last one tried answers otherwise. -/
def refine (at_ : Nat → Option FRes) (last : FRes) : Nat → Nat → FRes
  | 0, _ => last
  | fuel + 1, p =>
    match at_ p with
    | some r => r
    | none => refine at_ last fuel (2 * p)

/-- How many precisions are tried: 640 bits to 10,240. -/
def refineFuel : Nat := 5

/-! ## FEXP2 -/

/-- `2^(n/d)` for a fraction `0 < n/d < 1`, times `2^shift`. -/
def exp2At (f : Fmt) (ftz : Bool) (n d : Nat) (shift : Int) (p : Nat) : Option FRes :=
  let x := (n * 2 ^ p / d) * ln2Fixed p / 2 ^ p
  roundEnclosed f ftz false p (expSeries p x (p + 2) 0 (2 ^ p)) shift

/-- FEXP2 (R123). An argument beyond ±1000 rounds as ±1000 does: every format overflows or vanishes long before. (log entry 6: DEDUCED) -/
def fExp2 (f : Fmt) (ftz : Bool) (a : Nat) : FRes :=
  match decodeFloat f a with
  | .nan s => nanRes f s
  | .inf true => (f.zero false, 0)
  | .inf false => (f.inf false, 0)
  | .zero _ => (f.bias * 2 ^ f.fb, 0)
  | .fin neg m e =>
    let n := m * 2 ^ e.toNat
    let d := 2 ^ (-e).toNat
    let whole : Int := if neg then -((n + d - 1) / d : Nat) else (n / d : Nat)
    let frac := if neg then (d - n % d) % d else n % d
    let w := max (-1000) (min whole 1000)
    if frac = 0 ∨ w ≠ whole then roundRatio f (specialCfg ftz) false false (2 ^ w.toNat) (2 ^ (-w).toNat)
    else refine (exp2At f ftz frac d w) (roundRatio f (specialCfg ftz) false false (2 ^ w.toNat) (2 ^ (-w).toNat))
      refineFuel 640

/-! ## FLOG2 -/

/-- `|k + log2(m / 2^g)|` for a significand `m` of `g + 1` bits that is no power of two. -/
def log2At (f : Fmt) (ftz : Bool) (m g : Nat) (k : Int) (p : Nat) : Option FRes :=
  let z := (m - 2 ^ g) * 2 ^ p / (m + 2 ^ g)
  let ln := 2 * atanhSeries p (z * z / 2 ^ p) (p + 2) 1 z
  let l := ln * 2 ^ p / ln2Fixed p
  let v : Int := k * 2 ^ p + l
  roundEnclosed f ftz (decide (v < 0)) p v.natAbs 0

/-- FLOG2 (R123): a power of two is exact. -/
def fLog2 (f : Fmt) (ftz : Bool) (a : Nat) : FRes :=
  match decodeFloat f a with
  | .nan s => nanRes f s
  | .inf true => nanRes f true
  | .inf false => (f.inf false, 0)
  | .zero _ => (f.inf true, flagDZ)
  | .fin true _ _ => nanRes f true
  | .fin false m e =>
    let g := Nat.log2 m
    let k := (g : Int) + e
    if m = 2 ^ g then (if k = 0 then (f.zero false, 0) else roundRatio f (specialCfg ftz) false (decide (k < 0)) k.natAbs 1)
    else refine (log2At f ftz m g k) (f.zero false, flagNX) refineFuel 640

/-! ## FSINT and FCOST -/

/-- sin or cos of `(n/d)·π/2` for a fraction `0 < n/d < 1`. -/
def turnAt (f : Fmt) (ftz cosine neg : Bool) (n d p : Nat) : Option FRes :=
  let x := (n * 2 ^ p / d) * piFixed p / 2 ^ (p + 1)
  let sq := x * x / 2 ^ p
  let v : Int := if cosine then altSeries p sq (p + 2) 0 (2 ^ p) else altSeries p sq (p + 2) 1 x
  roundEnclosed f ftz neg p v.toNat 0

/-- The sine of `q + n/d` quarter turns, `0 ≤ n/d < 1`; `neg` is the sign of the argument (R124). -/
def sinQuarter (f : Fmt) (ftz neg : Bool) (q n d : Nat) : FRes :=
  let one := f.bias * 2 ^ f.fb
  if n = 0 then
    match q % 4 with
    | 1 => (one + f.zero neg, 0)
    | 3 => (one + f.zero (!neg), 0)
    | _ => (f.zero neg, 0)
  else refine (turnAt f ftz (q % 2 == 1) (neg != decide (2 ≤ q % 4)) n d) (f.zero neg, flagNX) refineFuel 640

/-- FSINT (R123, R124). -/
def fSint (f : Fmt) (ftz : Bool) (a : Nat) : FRes :=
  match decodeFloat f a with
  | .nan s => nanRes f s
  | .inf _ => nanRes f true
  | .zero n => (f.zero n, 0)
  | .fin neg m e =>
    let n := 4 * (m * 2 ^ e.toNat)
    let d := 2 ^ (-e).toNat
    sinQuarter f ftz neg (n / d) (n % d) d

/-- The cosine of `q + n/d` quarter turns (R124): an exact zero is +0. -/
def cosQuarter (f : Fmt) (ftz : Bool) (q n d : Nat) : FRes :=
  let one := f.bias * 2 ^ f.fb
  if n = 0 then
    match q % 4 with
    | 0 => (one, 0)
    | 2 => (one + f.zero true, 0)
    | _ => (f.zero false, 0)
  else refine (turnAt f ftz (q % 2 == 0) (q % 4 == 1 || q % 4 == 2) n d) (f.zero false, flagNX) refineFuel 640

/-- FCOST (R123, R124): the cosine is even. -/
def fCost (f : Fmt) (ftz : Bool) (a : Nat) : FRes :=
  match decodeFloat f a with
  | .nan s => nanRes f s
  | .inf _ => nanRes f true
  | .zero _ => (f.bias * 2 ^ f.fb, 0)
  | .fin _ m e =>
    let n := 4 * (m * 2 ^ e.toNat)
    let d := 2 ^ (-e).toNat
    cosQuarter f ftz (n / d) (n % d) d

end Sys2Proof.Machine
end

