-- ==== Sys2Proof/Machine/FloatInstr.lean ====
section
/-!
DEFINITION. Sys2Proof/Machine/FloatInstr.lean: opcodes 0x60 to 0x74 (spec/06_float_instructions.md R108 to R125).
-/
namespace Sys2Proof.Machine

/-! ## Operands and forms -/

/-- Element `k` of an operand (R75, R108). -/
def floatElem (t : Ty) (x : Dword) (k : Nat) : Nat :=
  if t.packed then x.toNat / 2 ^ (16 * k) % 2 ^ 16 else x.toNat % 2 ^ t.width

/-- How a lane rounds element `k`: the override or the captured mode, the captured flush, and the random bits of SC for
a stochastic rounding (R31, R80, R111). -/
def Frame.roundCfg (fr : Frame) (x : Alu) (packed : Bool) (l k : Nat) : RoundCfg where
  rm := roundingOf x.rnd fr.k.fpmode
  ftz := ftzOf fr.k.fpmode
  rbits := if packed then 16 else 24
  rb := if x.rnd = .sto then (fr.read x.slot l x.slot.sc false false).toNat / 2 ^ (if packed then 16 * k else 0) else 0

/-- One arithmetic on elements: `g` is given the rounding and the three elements, the first two modified and flushed and
the third flushed (R111). -/
def floatFn (x : Alu) (form : Form) (g : RoundCfg → Nat → Nat → Nat → FRes) : AluFn := fun fr _ l =>
  let o := fr.opnds x form l
  let f := fmtOf x.ty
  let one (k : Nat) : FRes :=
    let c := fr.roundCfg x x.ty.packed l k
    g c (flushBits f c.ftz (modBits f x.aneg x.aabs (floatElem x.ty o.a k)))
      (flushBits f c.ftz (modBits f x.bneg x.babs (floatElem x.ty o.b k))) (flushBits f c.ftz (floatElem x.ty o.c k))
  if x.ty.packed then
    let r0 := one 0
    let r1 := one 1
    (BitVec.ofNat 64 (r0.1 + 65536 * r1.1), r0.2 ||| r1.2)
  else (BitVec.ofNat 64 (one 0).1, (one 0).2)

/-- SC of a form that takes random bits only under RND = 5 (R109). -/
def stoKind (x : Alu) : SrcKind := if x.rnd = .sto then .any else .unused

/-- The latency of R109: 6, or 8 on packed types. -/
def lat6 (t : Ty) : Nat := if t.packed then 8 else 6

/-- FADD, FSUB, FMUL. -/
def formFarithOps (x : Alu) : Form := { dst := .fixed false, a := .any, b := .any, c := stoKind x }
/-- FFMA and FDOT2. -/
def formFfmaOps : Form := { dst := .fixed false, a := .any, b := .any, c := .any }
/-- FMIN, FMAX and FSCL. -/
def formF2Ops : Form := { dst := .fixed false, a := .any, b := .any }
/-- FCMP and FCLS.TEST: a mask register is a destination (R110). -/
def formFcmpOps : Form := { dst := .fixed true, a := .any, b := .any }
/-- FCLS, FRND, FEXT. -/
def formF1Ops : Form := { dst := .fixed false, a := .any }

/-- A float member (R110, R112): its results may raise FPEXC and hold the skein (R84). -/
def floatMember (i : Instr) (x : Alu) (form : Form) (lat wa : Nat) (f : AluFn) : Member :=
  aluMember i x form lat false true true wa f

/-! ## Members -/

/-- FADD (R113). -/
def memberFadd (x : Alu) : Member :=
  floatMember (.fadd x) x (formFarithOps x) (lat6 x.ty) x.ty.width
    (floatFn x (formFarithOps x) fun c a b _ => fAdd (fmtOf x.ty) c a b)
/-- FSUB (R113). -/
def memberFsub (x : Alu) : Member :=
  floatMember (.fsub x) x (formFarithOps x) (lat6 x.ty) x.ty.width
    (floatFn x (formFarithOps x) fun c a b _ => fSub (fmtOf x.ty) c a b)
/-- FMUL (R113). -/
def memberFmul (x : Alu) : Member :=
  floatMember (.fmul x) x (formFarithOps x) (lat6 x.ty) x.ty.width
    (floatFn x (formFarithOps x) fun c a b _ => fMul (fmtOf x.ty) c a b)
/-- FFMA (R113). -/
def memberFfma (x : Alu) : Member :=
  floatMember (.ffma x) x formFfmaOps (lat6 x.ty) x.ty.width
    (floatFn x formFfmaOps fun c a b d => fFma (fmtOf x.ty) c a b d)
/-- FMIN (R114). -/
def memberFmin (x : Alu) : Member :=
  floatMember (.fmin x) x formF2Ops (lat6 x.ty) x.ty.width
    (floatFn x formF2Ops fun _ a b _ => fMinMax (fmtOf x.ty) false a b)
/-- FMAX (R114). -/
def memberFmax (x : Alu) : Member :=
  floatMember (.fmax x) x formF2Ops (lat6 x.ty) x.ty.width
    (floatFn x formF2Ops fun _ a b _ => fMinMax (fmtOf x.ty) true a b)
/-- FCMP (R115). -/
def memberFcmp (x : Alu) : Member :=
  floatMember (.fcmp x) x formFcmpOps 6 x.ty.width (floatFn x formFcmpOps fun _ a b _ => fCmp (fmtOf x.ty) x.sub.val a b)
/-- The class word of a lane's a, after modifiers and without a flush (R116). -/
def Frame.classOf (fr : Frame) (x : Alu) (form : Form) (l : Nat) : Nat :=
  classWord (fmtOf x.ty) (modBits (fmtOf x.ty) x.aneg x.aabs (floatElem x.ty (fr.opnds x form l).a 0))
/-- FCLS (R116). -/
def memberFcls (x : Alu) : Member :=
  floatMember (.fcls x) x formF1Ops 6 x.ty.width fun fr _ l => (BitVec.ofNat 64 (fr.classOf x formF1Ops l), 0)
/-- FCLS.TEST (R116). -/
def memberFclsTest (x : Alu) : Member :=
  floatMember (.fclsTest x) x formFcmpOps 6 x.ty.width fun fr _ l =>
    (boolOut ((BitVec.ofNat 10 (fr.classOf x formFcmpOps l) &&& (fr.opnds x formFcmpOps l).b.setWidth 10) != 0), 0)
/-- FRND (R117). -/
def memberFrnd (x : Alu) : Member :=
  floatMember (.frnd x) x formF1Ops (lat6 x.ty) x.ty.width (floatFn x formF1Ops fun c a _ _ => fRnd (fmtOf x.ty) c a)
/-- FSCL (R118): b is one .i32 for every element. -/
def memberFscl (x : Alu) : Member :=
  floatMember (.fscl x) x formF2Ops (lat6 x.ty) x.ty.width fun fr on l =>
    let b := sext (fr.opnds x formF2Ops l).b.toNat 32
    floatFn x formF2Ops (fun c a _ _ => fScl (fmtOf x.ty) c a b) fr on l
/-- FEXT.EXP (R119). -/
def memberFextExp (x : Alu) : Member :=
  floatMember (.fextExp x) x formF1Ops 6 x.ty.width (floatFn x formF1Ops fun _ a _ _ => fExtExp (fmtOf x.ty) a)
/-- FEXT.MANT (R119). -/
def memberFextMant (x : Alu) : Member :=
  floatMember (.fextMant x) x formF1Ops (lat6 x.ty) x.ty.width (floatFn x formF1Ops fun _ a _ _ => fExtMant (fmtOf x.ty) a)
/-- FDOT2 (R120): an FP32 result of packed a and b. -/
def memberFdot2 (x : Alu) : Member :=
  floatMember (.fdot2 x) x formFfmaOps 8 32 fun fr _ l =>
    let o := fr.opnds x formFfmaOps l
    let f := fmtOf x.ty
    let a (k : Nat) := modBits f x.aneg x.aabs (floatElem x.ty o.a k)
    let b (k : Nat) := modBits f x.bneg x.babs (floatElem x.ty o.b k)
    let r := fDot2 f (fr.roundCfg x false l 0) (a 0) (b 0) (a 1) (b 1) (o.c.toNat % 2 ^ 32)
    (BitVec.ofNat 64 r.1, r.2)

/-! ## CVT (R121) -/

/-- The source type of a CVT. -/
def cvtSrc (x : Alu) : Ty := tyOfCode x.slot.lit.toNat

/-- The operand form of a CVT. -/
def formCvtOps (x : Alu) : Form where
  dst := if x.ty.width = 64 then .fixed64 else .fixed false
  a := if (cvtSrc x).width = 64 then .wideNoLit else .fragNoLit
  b := if cvtForm (cvtSrc x) x.ty = some .pack then .fragNoLit else .unused
  c := stoKind x

/-- A float source element of a CVT after its modifiers and the FP32 flush (R79, R85). -/
def cvtPrep (f : Fmt) (ftz neg abs : Bool) (x : Nat) : Nat := flushBits f ftz (modBits f neg abs x)

/-- What a CVT delivers for one lane. -/
def cvtValue (x : Alu) (cfg : Nat → RoundCfg) (a b : Dword) : Dword × Word :=
  let st := cvtSrc x
  let sf := fmtOf st
  let df := fmtOf x.ty
  let ftz := (cfg 0).ftz
  let pa (k : Nat) := cvtPrep sf ftz x.aneg x.aabs (floatElem st a k)
  let out (r : FRes) : Dword × Word := (BitVec.ofNat 64 r.1, r.2)
  let two (r0 r1 : FRes) : Dword × Word := (BitVec.ofNat 64 (r0.1 + 65536 * r1.1), r0.2 ||| r1.2)
  match cvtForm st x.ty with
  | some .floatFloat => out (cvtFloat sf df (cfg 0) x.sat (pa 0))
  | some .pack =>
    two (cvtFloat sf df (cfg 0) x.sat (pa 0))
      (cvtFloat sf df (cfg 1) x.sat (cvtPrep sf ftz x.bneg x.babs (floatElem st b 0)))
  | some .repack => two (cvtFloat sf df (cfg 0) x.sat (pa 0)) (cvtFloat sf df (cfg 1) x.sat (pa 1))
  | some .unpack => out (cvtFloat sf df (cfg 0) x.sat (pa x.sub.val))
  | some .floatInt => out (cvtToInt sf (cfg 0) x.ty.signed x.ty.width (pa 0))
  | some .intFloat => out (cvtFromInt df (cfg 0) x.sat (intVal st a))
  | none => (0, 0)

/-- CVT (R121). -/
def memberCvt (x : Alu) : Member :=
  aluMember (.cvt x) x (formCvtOps x) 8 (x.ty.width == 64) true true (cvtSrc x).width fun fr _ l =>
    let o := fr.opnds x (formCvtOps x) l
    cvtValue x (fun k => fr.roundCfg x x.ty.packed l k) o.a o.b

/-! ## Special functions (R122) -/

/-- The form of a special function: its scalar form writes an s register or nothing (R110). -/
def formSpecialOps (x : Alu) (two : Bool) : Form :=
  { dst := if x.sf then .lateScalar else .late false, a := .noFrag, b := if two then .noFrag else .unused }

/-- A special function of one or two operands, variable latency (R21). -/
def runSpecial (i : Instr) (x : Alu) (two : Bool) (g : Fmt → Bool → Nat → Nat → FRes) (s : State) : Out :=
  runLate i x (formSpecialOps x two) false true
    (floatFn x (formSpecialOps x two) fun c a b _ => g (fmtOf x.ty) c.ftz a b) s

/-- FADD. -/
def execFadd (x : Alu) (s : State) : Out := runMembers [memberFadd x] s
/-- FSUB. -/
def execFsub (x : Alu) (s : State) : Out := runMembers [memberFsub x] s
/-- FMUL. -/
def execFmul (x : Alu) (s : State) : Out := runMembers [memberFmul x] s
/-- FFMA. -/
def execFfma (x : Alu) (s : State) : Out := runMembers [memberFfma x] s
/-- FMIN. -/
def execFmin (x : Alu) (s : State) : Out := runMembers [memberFmin x] s
/-- FMAX. -/
def execFmax (x : Alu) (s : State) : Out := runMembers [memberFmax x] s
/-- FCMP. -/
def execFcmp (x : Alu) (s : State) : Out := runMembers [memberFcmp x] s
/-- FCLS. -/
def execFcls (x : Alu) (s : State) : Out := runMembers [memberFcls x] s
/-- FCLS.TEST. -/
def execFclsTest (x : Alu) (s : State) : Out := runMembers [memberFclsTest x] s
/-- FRND. -/
def execFrnd (x : Alu) (s : State) : Out := runMembers [memberFrnd x] s
/-- FSCL. -/
def execFscl (x : Alu) (s : State) : Out := runMembers [memberFscl x] s
/-- FEXT.EXP. -/
def execFextExp (x : Alu) (s : State) : Out := runMembers [memberFextExp x] s
/-- FEXT.MANT. -/
def execFextMant (x : Alu) (s : State) : Out := runMembers [memberFextMant x] s
/-- FDOT2. -/
def execFdot2 (x : Alu) (s : State) : Out := runMembers [memberFdot2 x] s
/-- CVT. -/
def execCvt (x : Alu) (s : State) : Out := runMembers [memberCvt x] s
/-- FRCP (R123). -/
def execFrcp (x : Alu) (s : State) : Out := runSpecial (.frcp x) x false (fun f z a _ => fRcp f z a) s
/-- FRSQ (R123). -/
def execFrsq (x : Alu) (s : State) : Out := runSpecial (.frsq x) x false (fun f z a _ => fRsq f z a) s
/-- FSQRT (R123). -/
def execFsqrt (x : Alu) (s : State) : Out := runSpecial (.fsqrt x) x false (fun f z a _ => fSqrt f z a) s
/-- FDIV (R125). -/
def execFdiv (x : Alu) (s : State) : Out := runSpecial (.fdiv x) x true (fun f z a b => fDiv f z a b) s
/-- FEXP2 (R123). -/
def execFexp2 (x : Alu) (s : State) : Out := runSpecial (.fexp2 x) x false (fun f z a _ => fExp2 f z a) s
/-- FLOG2 (R123). -/
def execFlog2 (x : Alu) (s : State) : Out := runSpecial (.flog2 x) x false (fun f z a _ => fLog2 f z a) s
/-- FSINT (R124). -/
def execFsint (x : Alu) (s : State) : Out := runSpecial (.fsint x) x false (fun f z a _ => fSint f z a) s
/-- FCOST (R124). -/
def execFcost (x : Alu) (s : State) : Out := runSpecial (.fcost x) x false (fun f z a _ => fCost f z a) s

end Sys2Proof.Machine
end

