-- ==== Sys2Proof/Machine/Parallel.lean ====
section
/-!
DEFINITION. Sys2Proof/Machine/Parallel.lean: opcodes 0x90 to 0x99 (spec/08_parallel_instructions.md R150 to R164) and the
named barriers (spec/07_skeins_and_panels.md R145 to R149).
-/
namespace Sys2Proof.Machine

/-! ## Plies (R140) -/

/-- The active lanes of lane `l`'s ply, ascending. -/
def plyMates (w : Nat) (on : List Nat) (l : Nat) : List Nat := on.filter fun j => j / w == l / w

/-- The `w` bits of a mask that belong to lane `l`'s ply (R153). -/
def plyMask (w : Nat) (m : Word) (l : Nat) : Nat := m.toNat / 2 ^ (l / w * w) % 2 ^ w

/-- The lowest position from `j` on that is set in a mask of `w` bits; all ones when there is none (R153). -/
def lowestFrom (m j : Nat) : Nat → Nat
  | 0 => 0xFFFFFFFF
  | n + 1 => if m.testBit j then j else lowestFrom m (j + 1) n

/-- The highest position below `n` that is set; all ones when there is none (R153). -/
def highestBelow (m : Nat) : Nat → Nat
  | 0 => 0xFFFFFFFF
  | n + 1 => if m.testBit n then n else highestBelow m n

/-- A 32-bit result. -/
def word32 (n : Nat) : Dword := BitVec.ofNat 64 (n % 2 ^ 32)

/-! ## Mask instructions -/

/-- KOP's operands: `.not` and `.mov` have no b (R152). -/
def formKopOps (x : Alu) : Form := { dst := .fixed true, a := .any, b := if x.sub = 4 ∨ x.sub = 5 then .unused else .any }

/-- The truth value of KOP (R152). -/
def kopValue (sub : Nat) (a b : Bool) : Bool :=
  match sub with
  | 0 => a && b
  | 1 => a || b
  | 2 => a != b
  | 3 => a && !b
  | 4 => !a
  | _ => a

/-- KOP (R152). -/
def memberKop (x : Alu) : Member :=
  aluMember (.kop x) x (formKopOps x) 4 false false false 32 (pureFn x (formKopOps x) fun o =>
    boolOut (kopValue x.sub.val (o.a != 0) (o.b != 0)))

/-- KPOP and KFFS read a whole mask register (R153). -/
def formMaskOps : Form := { dst := .fixed true, a := .mask }

/-- The mask register SA names (R153). -/
def Frame.wholeMask (fr : Frame) (z : Slot) : Word :=
  match z.sa with
  | .k r => fr.k.mask r.val
  | _ => 0

/-- KPOP's count for a lane (R153). -/
def kpopValue (sub w m i : Nat) : Nat := if sub = 0 then countOnes m w else countOnes m i

/-- KFFS's position for a lane (R153). -/
def kffsValue (sub w m i : Nat) : Nat :=
  match sub with
  | 0 => lowestFrom m 0 w
  | 1 => lowestFrom m (i + 1) (w - (i + 1))
  | _ => highestBelow m w

/-- KPOP (R153). -/
def memberKpop (x : Alu) : Member :=
  aluMember (.kpop x) x formMaskOps 4 false false false 32 fun fr _ l =>
    (word32 (kpopValue x.sub.val fr.k.ply (plyMask fr.k.ply (fr.wholeMask x.slot) l) (l % fr.k.ply)), 0)

/-- KFFS (R153). -/
def memberKffs (x : Alu) : Member :=
  aluMember (.kffs x) x formMaskOps 4 false false false 32 fun fr _ l =>
    (word32 (kffsValue x.sub.val fr.k.ply (plyMask fr.k.ply (fr.wholeMask x.slot) l) (l % fr.k.ply)), 0)

/-! ## Votes, election, shuffles -/

/-- VOTE over the (position, value) pairs of a ply's active lanes (R154). -/
def voteValue (sub : Nat) (vs : List (Nat × Nat)) : Nat :=
  let set := vs.filter fun v => v.2 != 0
  match sub with
  | 0 => if vs.all fun v => v.2 != 0 then 1 else 0
  | 1 => if set.isEmpty then 0 else 1
  | 2 => if set.isEmpty then 1 else 0
  | 3 => if vs.all fun v => v.2 == (vs.headD (0, 0)).2 then 1 else 0
  | 4 => set.foldl (fun m v => m + 2 ^ v.1) 0
  | 5 => set.length
  | 6 => match set with
    | [] => 0xFFFFFFFF
    | v :: _ => v.1
  | _ => match set.getLast? with
    | none => 0xFFFFFFFF
    | some v => v.1

/-- VOTE's form. -/
def formVoteOps : Form := { dst := .fixed true, a := .any }

/-- VOTE (R154). -/
def memberVote (x : Alu) : Member :=
  { aluMember (.vote x) x formVoteOps 8 false false false 32 fun fr on l =>
      (word32 (voteValue x.sub.val ((plyMates fr.k.ply on l).map fun j =>
        (j % fr.k.ply, (fr.opnds x formVoteOps j).a.toNat % 2 ^ 32))), 0) with cross := true }

/-- ELECT (R155): it has no A operand. -/
def memberElect (x : Alu) : Member :=
  aluMember (.elect x) x { dst := .fixed true } 8 false false false 32 fun fr on l =>
    (boolOut ((plyMates fr.k.ply on l).head? == some l), 0)

/-- SHFL's form: `.mirror` has no b (R156). -/
def formShflOps (x : Alu) : Form := { dst := fixedOf x.ty, a := anyOf x.ty, b := if x.sub = 5 then .unused else .any }

/-- The source position of a lane, when it lies in the ply (R156). -/
def shflSource (sub w i b : Nat) : Option Nat :=
  let j : Int := match sub with
    | 0 => b
    | 1 => (i ^^^ b : Nat)
    | 2 => ((i + b) % w : Nat)
    | 3 => (i : Int) - b
    | 4 => ((i + b : Nat) : Int)
    | _ => (w : Int) - 1 - i
  if 0 ≤ j ∧ j < w then some j.toNat else none

/-- SHFL (R156). -/
def memberShfl (x : Alu) : Member :=
  { aluMember (.shfl x) x (formShflOps x) 8 (x.ty.width == 64) false false x.ty.width fun fr on l =>
      let w := fr.k.ply
      let own := (fr.opnds x (formShflOps x) l).a
      match shflSource x.sub.val w (l % w) ((fr.opnds x (formShflOps x) l).b.toNat % 2 ^ 32) with
      | none => (own, 0)
      | some j =>
        let src := l / w * w + j
        if on.contains src then ((fr.opnds x (formShflOps x) src).a, 0) else (own, 0) with cross := true }

/-! ## Reductions and scans (R157, R158) -/

/-- The form of PLYRED; PLYSCAN accepts no literal (R159). -/
def formPlyOps (t : Ty) (scan : Bool) : Form :=
  { dst := fixedOf t
    a := if t.width = 64 then (if scan then .wideNoLit else .wide) else if scan then .fragNoLit else .any }

/-- Combining integer or bit values exactly (R157). -/
def combineInt (sub : Nat) (x y : Int) : Int :=
  match sub with
  | 0 => x + y
  | 1 => min x y
  | 2 => max x y
  | 3 => ((x.toNat &&& y.toNat : Nat) : Int)
  | 4 => ((x.toNat ||| y.toNat : Nat) : Int)
  | _ => ((x.toNat ^^^ y.toNat : Nat) : Int)

/-- Combining float bit patterns (R157). -/
def combineFloat (f : Fmt) (sub : Nat) (c : RoundCfg) (x y : Nat) : FRes :=
  match sub with
  | 0 => fAdd f c x y
  | 1 => fMinMax f false x y
  | _ => fMinMax f true x y

/-- A value as an operation delivers it: a NaN is the canonical one, and raises NV when it is signalling (R81, R82). -/
def quieted (f : Fmt) (x : Nat) : FRes :=
  match decodeFloat f x with
  | .nan s => nanRes f s
  | _ => (x, 0)

/-- The left fold of float values with the flags of every combine (R158); a NaN that passes through no combine is quieted all the same.
(log entry 77: DEDUCED) -/
def foldFloat (f : Fmt) (sub : Nat) (c : RoundCfg) : List Nat → FRes
  | [] => (0, 0)
  | x :: xs => xs.foldl (fun acc y => let r := combineFloat f sub c acc.1 y; (r.1, acc.2 ||| r.2)) (quieted f x)

/-- The identity of an exclusive scan (R157). -/
def plyIdentity (t : Ty) (sub : Nat) : Nat :=
  if t.isFloat then
    match sub with
    | 0 => (fmtOf t).zero true
    | 1 => (fmtOf t).inf false
    | _ => (fmtOf t).inf true
  else
    match sub with
    | 1 => wrap (intMax t.signed t.width) t.width
    | 2 => wrap (intMin t.signed t.width) t.width
    | 3 => 2 ^ t.width - 1
    | _ => 0

/-- The result over a nonempty list of lane values, in ascending position (R157, R158). -/
def plyFold (x : Alu) (c : RoundCfg) (vs : List Dword) : Dword × Word :=
  if x.ty.isFloat then
    let f := fmtOf x.ty
    let r := foldFloat f x.sub.val c (vs.map fun v => flushBits f c.ftz (floatElem x.ty v 0))
    (BitVec.ofNat 64 r.1, r.2)
  else
    match vs.map (intVal x.ty) with
    | [] => (0, 0)
    | v :: rest => (intOut x (rest.foldl (combineInt x.sub.val) v), 0)

/-- PLYRED (R158). -/
def memberPlyred (x : Alu) : Member :=
  { aluMember (.plyred x) x (formPlyOps x.ty false) 12 (x.ty.width == 64) false true x.ty.width fun fr on l =>
      plyFold x (fr.roundCfg x false l 0) ((plyMates fr.k.ply on l).map fun j => (fr.opnds x (formPlyOps x.ty false) j).a) with cross := true }

/-- PLYSCAN (R158, R159): LIT[0] selects the exclusive kind. -/
def memberPlyscan (x : Alu) : Member :=
  { aluMember (.plyscan x) x (formPlyOps x.ty true) 12 (x.ty.width == 64) false true x.ty.width fun fr on l =>
      let mates := plyMates fr.k.ply on l
      let upto := if x.slot.lit = 1 then mates.filter (fun j => decide (j < l)) else mates.filter fun j => decide (j ≤ l)
      if upto.isEmpty then (BitVec.ofNat 64 (plyIdentity x.ty x.sub.val), 0)
      else plyFold x (fr.roundCfg x false l 0) (upto.map fun j => (fr.opnds x (formPlyOps x.ty true) j).a) with cross := true }

/-! ## Named barriers (R145 to R149, R161, R162) -/

/-- A panel's barrier; at panel start generation 0, unfixed, nothing arrived (R145). -/
def Panel.barrier (p : Panel) (b : Nat) : Barrier := cellGet ⟨0, none, 0⟩ p.bars b
/-- The panel with one barrier changed. -/
def Panel.setBarrier (p : Panel) (b : Nat) (x : Barrier) : Panel := { p with bars := cellSet ⟨0, none, 0⟩ p.bars b x }
/-- A skein's record of a barrier (R145). -/
def Skein.barRecord (k : Skein) (b : Nat) : BarRecord := cellGet .none k.bars b
/-- The skein with one record changed. -/
def Skein.setBarRecord (k : Skein) (b : Nat) (r : BarRecord) : Skein := { k with bars := cellSet .none k.bars b r }

/-- A release of a held lane, seen by selections from the next cycle (R131). (log entry 66: DEDUCED) -/
def Lane.release (a : Lane) (cycle : Nat) : Lane := { a with held := none, wake := cycle + 1 }

/-- The lane is held at barrier `b` for a generation before `g` (R162). -/
def Lane.heldBelow (a : Lane) (b g : Nat) : Bool :=
  match a.held with
  | some (.bar b' t) => b' == b && decide (t < g)
  | _ => false

/-- A flip of barrier `b` (R147). -/
def Panel.flipBarrier (p : Panel) (b cycle : Nat) : Panel :=
  let g := (p.barrier b).gen + 1
  let p1 := p.setBarrier b ⟨g, none, 0⟩
  { p1 with skeins := p1.skeins.map fun k =>
      let k1 : Skein := match k.barRecord b with
        | .pending _ => k.setBarRecord b .done
        | _ => k
      { k1 with lanes := k1.lanes.map fun a => if a.heldBelow b g then a.release cycle else a } }

/-- The tval of BARCOUNT (R146). -/
def barcountTval (b c : Nat) (e : Option Nat) : Dword :=
  BitVec.ofNat 64 (b % 16 + c % 2048 * 65536 + (e.getD 0) % 2048 * 2 ^ 32)

/-- `arrive` of R146 for skein `kx` with `n` lanes: the panel after it, or the tval of BARCOUNT. -/
def Panel.arrive (p : Panel) (kx b c n cycle : Nat) : Except Dword Panel :=
  let x := p.barrier b
  if n = 0 then .ok p
  else if c < 1 ∨ 32 * p.kernel.skeins < c then .error (barcountTval b c x.expect)
  else if x.expect.isSome ∧ x.expect ≠ some c then .error (barcountTval b c x.expect)
  else if c < x.arrived + n then .error (barcountTval b c x.expect)
  else
    let p1 := (p.setBarrier b ⟨x.gen, some c, x.arrived + n⟩).onSkein kx fun k => k.setBarRecord b (.pending x.gen)
    .ok (if x.arrived + n = c then p1.flipBarrier b cycle else p1)

/-- The waiting half of BAR (R148, R162) for some lanes of skein `kx`. -/
def Panel.waitBarrier (p : Panel) (kx b : Nat) (ls : List Nat) : Panel :=
  match p.skein? kx with
  | none => p
  | some k =>
    match k.barRecord b with
    | .done => p
    | .pending g => p.onSkein kx fun k => k.onLanes ls fun _ a => { a with held := some (.bar b g) }
    | .none => p.onSkein kx fun k => k.onLanes ls fun _ a => { a with held := some (.bar b (p.barrier b).gen) }

/-- The barrier a BAR names: a register's low 32 bits, or BLIT (R161). -/
def Frame.barNumber (fr : Frame) (z : Slot) : Nat :=
  if z.sa = .lit then bits z.lit.toNat 19 16 else (fr.read32 z (fr.leader z) z.sa).toNat

/-- The count a BAR carries: a register's .n32 value, or CLIT (R161). -/
def Frame.barCount (fr : Frame) (z : Slot) : Nat :=
  if z.sb = .lit then bits z.lit.toNat 10 0 else (fr.read32 z (fr.leader z) z.sb).toNat

/-- The barrier may be named: below 16 and in the kernel's bitmap (R70, R161). -/
def Panel.barAllowed (p : Panel) (b : Nat) : Bool := decide (b < 16) && p.kernel.barriers.getLsbD b

/-- The barrier a BAR names is none that the kernel declares (R70, R161): the tval of ILLOPND. -/
def Frame.barBad (fr : Frame) (z : Slot) : Option Dword := if fr.p.barAllowed (fr.barNumber z) then none else some (saTval z)

/-- BAR (R161, R162): `arv` arrives, a release at panel scope (R163), `wait` waits. (log entry 70: DEDUCED) -/
def runBar (i : Instr) (x : Alu) (arv wait : Bool) (s : State) : Out :=
  runSlot
    { slot := x.slot, hi := slotHigh (encode i), once := true
      form := { a := .scalarOrLit, b := if arv then .scalarOrLit else .unused }
      code := fun fr => if x.slot.sa = .lit then fr.barBad x.slot else none
      judge := fun fr => if fr.served .scalarOrLit x.slot x.slot.sa then fr.barBad x.slot else none } s
    fun fr alive s =>
      if alive.isEmpty then .done s [] [] []
      else
        let b := fr.barNumber x.slot
        let on := fr.active x.slot alive
        let arrived : Except Dword Panel := if arv then fr.p.arrive fr.kx b (fr.barCount x.slot) on.length fr.cycle else .ok fr.p
        match arrived with
        | .error v => .done s [] [] (on.map fun l => fr.trapAt l .barcount v)
        | .ok p =>
          if arv && !on.isEmpty && s.rmwFlying fr.p.id fr.kx then .wait s
          else .done (s.setPanel (if wait then p.waitBarrier fr.kx b on else p)) [] [] []

/-! ## Meanings -/

/-- KOP. -/
def execKop (x : Alu) (s : State) : Out := runMembers [memberKop x] s
/-- KPOP. -/
def execKpop (x : Alu) (s : State) : Out := runMembers [memberKpop x] s
/-- KFFS. -/
def execKffs (x : Alu) (s : State) : Out := runMembers [memberKffs x] s
/-- VOTE. -/
def execVote (x : Alu) (s : State) : Out := runMembers [memberVote x] s
/-- SHFL. -/
def execShfl (x : Alu) (s : State) : Out := runMembers [memberShfl x] s
/-- PLYRED. -/
def execPlyred (x : Alu) (s : State) : Out := runMembers [memberPlyred x] s
/-- PLYSCAN. -/
def execPlyscan (x : Alu) (s : State) : Out := runMembers [memberPlyscan x] s
/-- ELECT. -/
def execElect (x : Alu) (s : State) : Out := runMembers [memberElect x] s
/-- PLYSET (R160): the width holds from the next issue event when some lane is active. -/
def execPlyset (x : Alu) (s : State) : Out :=
  runSlot { slot := x.slot, hi := slotHigh (encode (.plyset x)), form := {} } s fun fr alive s =>
    if (fr.active x.slot alive).isEmpty then .done s [] [] []
    else .done (s.onPanel fr.p.id fun p => p.onSkein fr.kx fun k => { k with ply := x.slot.lit.toNat }) [] [] []
/-- BAR.ARV. -/
def execBarArv (x : Alu) (s : State) : Out := runBar (.barArv x) x true false s
/-- BAR.WAIT. -/
def execBarWait (x : Alu) (s : State) : Out := runBar (.barWait x) x false true s
/-- BAR.SYNC. -/
def execBarSync (x : Alu) (s : State) : Out := runBar (.barSync x) x true true s

end Sys2Proof.Machine
end

