-- ==== Sys2Proof/Machine/Sched.lean ====
section
/-!
DEFINITION. Sys2Proof/Machine/Sched.lean: launches, node instances and their dependences (spec/09_work_scheduling.md R167 to
R169, R177 to R179), the ready pools, picks and placement (R180 to R185), dispatch, retirement (R94), range splits (R190,
R191), aging and cooperative requests (R181, R426).
-/
namespace Sys2Proof.Machine

/-- Ticks of the model's time in a microsecond (R477). -/
def tick (us : Nat) : Nat := 1500 * us

/-! ## Lookups -/

/-- A registered pattern. -/
def Func.pattern? (f : Func) (h : Nat) : Option Pattern := f.patterns.find? fun p => p.handle == h
/-- A launch by sequence number. -/
def Func.launch? (f : Func) (seq : Nat) : Option Launch := f.launches.find? fun l => l.seq == seq
/-- The node of a node instance (R179). -/
def State.nodeOf (s : State) (fn handle node : Nat) : Option Node :=
  ((s.func fn).pattern? handle).bind fun p => p.nodes[node % 2 ^ 16]?
/-- A launch changed by sequence number. -/
def Func.onLaunch (f : Func) (seq : Nat) (g : Launch → Launch) : Func :=
  { f with launches := f.launches.map fun l => if l.seq = seq then g l else l }
/-- One node of a launch changed. -/
def Launch.onRun (l : Launch) (i : Nat) (g : NodeRun → NodeRun) : Launch := { l with runs := l.runs.modify i g }
/-- A node run that has not started. -/
def NodeRun.blank : NodeRun := ⟨.waiting, 0, 0, 0, false, false, 0⟩
/-- Node `i` of a launch. -/
def Launch.run (l : Launch) (i : Nat) : NodeRun := l.runs.getD i NodeRun.blank
/-- Some node of the launch failed (R169). -/
def Launch.failed (l : Launch) : Bool := l.runs.any fun r => r.failed
/-- The node has ended: complete or skipped (R177). -/
def NodeRun.ended (r : NodeRun) : Bool := r.phase == .complete || r.phase == .skipped
/-- A control node whose body runs (R177). -/
def NodeRun.inBody (r : NodeRun) : Bool := r.phase == .ready && !r.awaiting

/-! ## Dependences (R176 to R178) -/

/-- The control nodes whose bodies hold node `i`, outermost first. -/
def Pattern.outer (p : Pattern) (i : Nat) : List Nat :=
  (List.range i).filter fun c => (p.nodes[c]?).any fun n => n.control && decide (i ≤ c + n.body)

/-- What node `j` waits for on an edge from `i`: `i` itself, or the outermost control node around `i` but not `j`. -/
def Pattern.waitsOn (p : Pattern) (i j : Nat) : Nat :=
  ((p.outer i).find? fun c => !(p.outer j).contains c && c != j).getD i

/-- Node `j` may become ready (R178). -/
def Launch.mayStart (l : Launch) (p : Pattern) (j : Nat) : Bool :=
  (l.run j).phase == .waiting
    && ((p.outer j).getLast?).all (fun c => (l.run c).inBody)
    && p.edges.all fun e => e.2 != j || (p.outer j).contains e.1 || (l.run (p.waitsOn e.1 j)).ended

/-- The body nodes of a control node. -/
def bodyOf (i : Nat) (n : Node) : List Nat := (List.range n.body).map fun k => i + 1 + k

/-- A control node's work after its body has ended: the next reading of a loop, or its end. -/
def Launch.bodyEnded (l : Launch) (i : Nat) (n : Node) (time : Nat) : Launch :=
  l.onRun i fun r =>
    if n.kind = 5 ∧ r.iter < n.third.toNat ∧ ¬ l.failed then { r with awaiting := true }
    else { r with phase := .complete, awaiting := false, endedAt := time }

/-- One pass over the nodes: control nodes end or come round again, waiting nodes become ready. -/
def Launch.pass (l : Launch) (p : Pattern) (time : Nat) : Launch :=
  (List.range p.nodes.length).foldl (fun l i =>
    match p.nodes[i]? with
    | none => l
    | some n =>
      let r := l.run i
      if n.control ∧ r.inBody ∧ (bodyOf i n).all (fun j => (l.run j).ended) then l.bodyEnded i n time
      else if n.control ∧ r.phase = .ready ∧ r.awaiting ∧ l.failed then
        l.onRun i fun r => { r with phase := .complete, awaiting := false, endedAt := time }
      else if n.kind ≠ 3 ∧ l.mayStart p i then
        l.onRun i fun r => { r with phase := .ready, readyAt := time, awaiting := n.control }
      else l) l

/-- Passes until nothing changes; every pass that changes something ends or starts a node. -/
def Launch.settle (l : Launch) (p : Pattern) (time : Nat) : Nat → Launch
  | 0 => l
  | fuel + 1 => let l1 := l.pass p time; if l1 = l then l else l1.settle p time fuel

/-- The control word's reading takes effect (R177). -/
def Launch.decided (l : Launch) (p : Pattern) (i v time : Nat) : Launch :=
  match p.nodes[i]? with
  | none => l
  | some n =>
    let body := bodyOf i n
    let set (ph : Phase) (js : List Nat) (l : Launch) : Launch :=
      js.foldl (fun l j => l.onRun j fun r => { NodeRun.blank with phase := ph, failed := r.failed, endedAt := time }) l
    match n.kind with
    | 4 => (set (if v = 0 then .skipped else .waiting) body l).onRun i fun r => { r with awaiting := false }
    | 5 =>
      if v = 0 then
        (if (l.run i).iter = 0 then set .skipped body l else l).onRun i fun r =>
          { r with awaiting := false, phase := .complete, endedAt := time }
      else (set .waiting body l).onRun i fun r => { r with awaiting := false, iter := r.iter + 1 }
    | _ =>
      let lo := (n.arms.take v).sum
      let arm := body.filter fun j => decide (i + 1 + lo ≤ j) && decide (j < i + 1 + lo + n.arms.getD v 0)
      (set .waiting arm (set .skipped body l)).onRun i fun r => { r with awaiting := false, iter := v + 1 }

/-- A node failed (R179): the nodes that have dispatched nothing are skipped. -/
def Launch.fail (l : Launch) (i time : Nat) : Launch :=
  let l1 := l.onRun i fun r => { r with failed := true }
  { l1 with runs := l1.runs.map fun r =>
      if r.dispatched = 0 ∧ !r.ended ∧ !r.inBody then { r with phase := .skipped, endedAt := time } else r }

/-! ## The pool (R180) -/

/-- The entry with `e` first is ahead of `f` in pool order. -/
def PoolEntry.before (e f : PoolEntry) : Bool :=
  decide (f.level < e.level) || (e.level == f.level && (decide (e.readyAt < f.readyAt) || (e.readyAt == f.readyAt &&
    (decide (e.node < f.node) || (e.node == f.node && decide (e.fn < f.fn))))))

/-- An entry put at its place in pool order. (log entry 90: DESIGN CHOICE) -/
def insertEntry (e : PoolEntry) : List PoolEntry → List PoolEntry
  | [] => [e]
  | f :: fs => if e.before f then e :: f :: fs else f :: insertEntry e fs

/-- The pool in pool order. -/
def State.poolOrder (s : State) : List PoolEntry := s.pool.foldr insertEntry []

/-- The class of a node: the highest among its kernels (R180). -/
def Node.eclass (n : Node) : Nat := (n.kernels.map fun h => h.energy).foldl max 0

/-- A new entry (R180, R182); `own` is the saved panel or gang that it is for alone (R436). -/
def State.addEntry (s : State) (fn handle node left readyAt : Nat) (n : Node) (own : Option Nat) : State :=
  let (id, s1) := s.fresh
  let f := s.func fn
  { s1 with pool := s1.pool ++ [⟨id, fn, handle, node, intoBand f.bandLow f.bandHigh n.level, readyAt, left, [0, 0, 0, 0],
      s.time, n.eclass, n.kind == 3, own⟩] }

/-- An entry changed by number. -/
def State.onEntry (s : State) (id : Nat) (f : PoolEntry → PoolEntry) : State :=
  { s with pool := s.pool.map fun e => if e.id = id then f e else e }

/-- How many panels a node starts with (R174, R190). -/
def Node.firstPanels (n : Node) : Nat := if n.kind = 2 then 1 else n.panels

/-- The node instance number (R179). -/
def instanceOf (seq ix : Nat) : Nat := seq * 2 ^ 16 + ix

/-- The status word is written, vector 0 fires, and the launch is done (R169, R467). -/
def State.launchDone (s : State) (fn : Nat) (l : Launch) (failed : Bool) : State :=
  let w := l.seq + 2 ^ 63 + (if failed then 2 ^ 62 else 0)
  let s1 := match s.funcPhys fn 0 l.arg .write with
    | some pa => s.setMem (s.mem.write pa 8 w) pa 8
    | none => s
  s1.onFunc fn fun f => ({ f with launches := f.launches.filter fun m => m.seq != l.seq } : Func).fire 0

/-- A launch goes on as far as it can: nodes become ready and enter the pool, and an ended launch is done. -/
def State.advance (s : State) (fn seq : Nat) : State :=
  match (s.func fn).launch? seq with
  | none => s
  | some l =>
    match (s.func fn).pattern? l.handle with
    | none => s
    | some p =>
      let l1 := l.settle p s.time (2 * p.nodes.length + 2)
      let s1 := s.onFunc fn fun f => f.onLaunch seq fun _ => l1
      let s2 := p.nodes.zipIdx.foldl (fun s (x : Node × Nat) =>
        if (l.run x.2).phase = .waiting ∧ (l1.run x.2).phase = .ready ∧ !x.1.control then
          s.addEntry fn l.handle (instanceOf seq x.2) x.1.firstPanels (l1.run x.2).readyAt x.1 none
        else s) s1
      if l1.started && p.nodes.zipIdx.all (fun (x : Node × Nat) => x.1.kind == 3 || (l1.run x.2).ended) then
        s2.launchDone fn l1 l1.failed
      else s2

/-- A node instance is marked failed (R179, R486). -/
def State.failNode (s : State) (fn node : Nat) : State :=
  let seq := node / 2 ^ 16
  let s1 := s.onFunc fn fun f => f.onLaunch seq fun l => l.fail (node % 2 ^ 16) s.time
  let gone (e : PoolEntry) : Bool :=
    e.fn == fn && e.node / 2 ^ 16 == seq && !e.trigger &&
      (((s1.func fn).launch? seq).any fun l => (l.run (e.node % 2 ^ 16)).phase == .skipped)
  { s1 with pool := s1.pool.filter fun e => !gone e }

/-- A node instance may have lost its last panel: if it is over, it completes (R178). -/
def State.nodeMayEnd (s : State) (fn node : Nat) : State :=
  let seq := node / 2 ^ 16
  let ix := node % 2 ^ 16
  if s.panels.any (fun p => p.fn == fn && p.node == node) || (s.func fn).saved.any (fun q => q.node == node)
    || s.pool.any (fun e => e.fn == fn && e.node == node) || seq == 0 || s.rastOpen fn node then s
  else
    let s1 := s.onFunc fn fun f => f.onLaunch seq fun l => l.onRun ix fun r =>
      if r.phase = .ready then { r with phase := .complete, endedAt := s.time } else r
    s1.advance fn seq

/-! ## The launch doorbell (R167, R168) -/

/-- LAUNCH (R167, R168, R443, R470); a write by another requester than the root complex is dropped (R466). (log entry 15: DEDUCED) (log entry 88: DESIGN CHOICE) -/
def execLaunch (q : HostReq) (w : Dword) (s : State) : Out :=
  let fn := q.fn
  let f := s.func fn
  let h := w.toNat % 2 ^ 16
  let arg := w.toNat / 2 ^ 16 * 64
  let refuse (c : Nat) : Out := .next (s.onFunc fn fun f => { f with last := c, refused := min 0xFFFF (f.refused + 1) })
  if !q.root ∨ s.boot ≠ 2 ∨ f.st = .absent then .next s
  else if f.st = .killed then refuse 4
  else
    match f.pattern? h with
    | none => refuse 1
    | some p =>
      if 64 ≤ f.launches.length then refuse 2
      else if !s.mapped fn arg p.argBytes 18 then refuse 3
      else .next (s.onFunc fn fun f =>
        { f with
          launches := f.launches ++ [⟨f.nextSeq, h, arg, false, 0, []⟩]
          nextSeq := (f.nextSeq + 1) % 2 ^ 48, accepted := (f.accepted + 1) % 2 ^ 32 })

/-- The first launch that has not started may start: a serial pattern waits for its previous launch (R168, R173). -/
def Func.startable (f : Func) : Option (Launch × Pattern) :=
  match f.launches.find? fun l => !l.started with
  | none => none
  | some l =>
    match f.pattern? l.handle with
    | none => none
    | some p => if p.serial && f.launches.any (fun m => m.started && m.handle == l.handle) then none else some (l, p)

/-- LAUNCH_START (R168, R178). -/
def execLaunchStart (fn : Nat) (s : State) : Out :=
  match (s.func fn).startable with
  | none => .next s
  | some (l, p) =>
    let s1 := s.onFunc fn fun f => f.onLaunch l.seq fun l =>
      { l with started := true, startAt := s.time, runs := List.replicate p.nodes.length NodeRun.blank }
    .next (s1.advance fn l.seq)

/-- The value of a control word: its buffer's base, then the word (R175, R177, R486). -/
def State.controlWord (s : State) (fn arg : Nat) (n : Node) : Option Nat :=
  let base := if n.buffer = 255 then some 0
    else (s.funcBytes fn (arg + 64 + 8 * n.buffer) 8).map leNat
  base.bind fun b => (s.funcBytes fn ((b + n.first.toNat) % 2 ^ 64) 4).map leNat

/-- CONTROL_WORD_READ (R177, R178, R486): a fault marks the node failed. -/
def execControlWordRead (fn seq node : Nat) (s : State) : Out :=
  match (s.func fn).launch? seq with
  | none => .next s
  | some l =>
    match (s.func fn).pattern? l.handle with
    | none => .next s
    | some p =>
      match p.nodes[node]? with
      | none => .next s
      | some n =>
        if !(n.control && (l.run node).phase == .ready && (l.run node).awaiting) then .next s
        else
          match s.controlWord fn l.arg n with
          | none => .next ((s.failNode fn (instanceOf seq node)).advance fn seq)
          | some v => .next ((s.onFunc fn fun f => f.onLaunch seq fun l => l.decided p node v s.time).advance fn seq)

/-! ## What fits a core (R184, R425) -/

/-- Rounds up to whole 4 KiB pages. -/
def padPage (n : Nat) : Nat := (n + 4095) / 4096 * 4096

/-- The bytes of a context area (R432). -/
def contextBytes (h : Header) (rings threads : Nat) : Nat :=
  4096 + padPage (h.skeins * (10752 + 128 * h.vregs)) + padPage h.scratch + padPage h.opbuf + padPage rings + padPage (4 * threads)

/-- The traversal threads a panel may have: none when its kernel declares no trace depth (R69, R432). -/
def maxThreads (h : Header) : Nat := if bits h.traps.toNat 8 4 = 0 then 0 else 32 * h.skeins

/-- What dispatch reserves of the save region for a panel (R425). (log entry 17: DEDUCED) -/
def reserveBytes (h : Header) (rings : Nat) : Nat := contextBytes h rings (maxThreads h)

/-- The panels on a core. -/
def State.onCore (s : State) (core : Nat) : List Panel := s.panels.filter fun p => p.core == core

/-- Every skein of the panel has retired. -/
def Panel.over (p : Panel) : Bool := p.skeins.all fun k => k.retired

/-- The panels on a core that have not retired: a gang member that has keeps its scratchpad alone (R94, R142). -/
def State.liveOn (s : State) (core : Nat) : List Panel := (s.onCore core).filter fun p => !p.over

/-- (pipe, first granule, granules) of every skein on a core. -/
def State.granuleUse (s : State) (core : Nat) : List (Nat × Nat × Nat) :=
  (s.liveOn core).flatMap fun p => (p.skeins.zip p.granules).map fun x => (x.1.pipe, x.2, p.kernel.granules)

/-- The KiB ranges of a core's scratchpad in use. -/
def State.scratchUse (s : State) (core : Nat) : List (Nat × Nat) :=
  (s.onCore core).flatMap fun p => [(p.scratchAt, p.kernel.scratchKib), (p.ringAt, (p.ringBytes + 1023) / 1024)]

/-- The KiB ranges of a core's operand buffer in use. -/
def State.opbufUse (s : State) (core : Nat) : List (Nat × Nat) := (s.liveOn core).map fun p => (p.opbufAt, p.kernel.opbufKib)

/-- The byte ranges of a function's save region in use (R425). -/
def State.saveUse (s : State) (fn : Nat) : List (Nat × Nat) :=
  ((s.panels.filter fun p => p.fn == fn).map fun p => (p.slot, reserveBytes p.kernel p.ringBytes)) ++
    (s.func fn).saved.map fun q => (q.slot, q.bytes)

/-- A range meets none of some ranges. -/
def apart (a n : Nat) (rs : List (Nat × Nat)) : Bool := rs.all fun r => !overlap a n r.1 r.2

/-- The lengths of the free runs among `n` units. -/
def freeRuns (used : Nat → Bool) (n : Nat) : List Nat :=
  let r := (List.range n).foldl (fun (acc : List Nat × Nat) i => if used i then (acc.2 :: acc.1, 0) else (acc.1, acc.2 + 1)) ([], 0)
  r.2 :: r.1

/-- A unit lies in one of some ranges. -/
def within (rs : List (Nat × Nat)) (i : Nat) : Bool := rs.any fun r => decide (r.1 ≤ i) && decide (i < r.1 + r.2)

/-- How many skeins of `g` granules a pipe of a core still takes; `whole` asks for contiguous granules. -/
def State.pipeRoom (s : State) (core pipe g : Nat) (whole : Bool) : Nat :=
  let use := (s.granuleUse core).filter fun u => u.1 == pipe
  let runs := freeRuns (within (use.map fun u => u.2)) 64
  min (16 - use.length) (if whole then (runs.map fun r => r / g).sum else runs.sum / g)

/-- Two ranges fit free runs: `whole` asks for contiguous space. -/
def runsTake (runs : List Nat) (a b : Nat) (whole : Bool) : Bool :=
  if whole then
    (runs.any fun r => decide (a + b ≤ r)) ||
      (runs.zipIdx.any fun x => decide (a ≤ x.1) && runs.zipIdx.any fun y => x.2 != y.2 && decide (b ≤ y.1))
  else decide (a + b ≤ runs.sum)

/-- The core's barrier units in use. -/
def State.barrierUse (s : State) (core : Nat) : Nat := ((s.liveOn core).map fun p => p.kernel.barrierUnits).sum

/-- The offsets where `n` units fit below a limit, apart from what is in use: 0, or the end of a used range. -/
def gapsFor (used : List (Nat × Nat)) (limit n : Nat) : List Nat :=
  (0 :: used.map fun r => r.1 + r.2).filter fun a => decide (a + n ≤ limit) && apart a n used

/-- Some ranges fit below a limit together. -/
def packs (limit : Nat) : List Nat → List (Nat × Nat) → Bool
  | [], _ => true
  | n :: ns, used => (gapsFor used limit n).any fun a => packs limit ns ((a, n) :: used)

/-- The save region has room for the contexts of some panels together (R425); `whole` asks for contiguous space. -/
def State.saveFits (s : State) (fn : Nat) (ns : List Nat) (whole : Bool) : Bool :=
  if whole then packs (s.func fn).saveSize ns (s.saveUse fn)
  else decide (ns.sum + ((s.saveUse fn).map fun r => r.2).sum ≤ (s.func fn).saveSize)

/-- One panel with a header fits a core: `whole` asks for contiguous space (R184). -/
def State.headerFits (s : State) (core fn : Nat) (h : Header) (rings : Nat) (whole : Bool) : Bool :=
  decide (h.skeins ≤ ((List.range 4).map fun i => s.pipeRoom core i h.granules whole).sum)
    && runsTake (freeRuns (within (s.scratchUse core)) 256) h.scratchKib ((rings + 1023) / 1024) whole
    && runsTake (freeRuns (within (s.opbufUse core)) 384) h.opbufKib 0 whole
    && decide (s.barrierUse core + h.barrierUnits ≤ 128)
    && s.saveFits fn [reserveBytes h rings] whole

/-- The members of a gang as demands: a header with the ring bytes its rank is home to. -/
def Node.demands (n : Node) : List (Header × Nat) :=
  (List.range n.size).filterMap fun r => (n.kernelOf r).map fun h => (h, homeBytes n.pipes r)

/-- All sublists of a list. -/
def sublists {α : Type} : List α → List (List α)
  | [] => [[]]
  | x :: xs => let r := sublists xs; r ++ r.map fun ys => x :: ys

/-- Demands fit distinct cores of a cluster that take them: every set of distinct demands finds enough cores (Hall's condition), and the
save region has room for all. -/
def State.demandsFit (s : State) (cluster fn : Nat) (ds : List (Header × Nat)) (whole : Bool) (takes : Nat → Header → Bool) : Bool :=
  s.saveFits fn (ds.map fun d => reserveBytes d.1 d.2) whole && (sublists ds.eraseDups).all fun t =>
    decide ((ds.filter fun d => t.contains d).length ≤
      ((s.coresOf cluster).filter fun c => t.any fun d => takes c d.1 && s.headerFits c fn d.1 d.2 whole).length)

/-- The number by which a saved panel resumes: its gang's, or its own (R436, R437). -/
def SavedPanel.group (q : SavedPanel) : Nat := (q.gang.map fun (g : Gang) => g.id).getD q.id

/-- The saved panel stands in the pool entry: one that is its own, or its node's where it has none (R436). -/
def State.standsIn (s : State) (q : SavedPanel) (e : PoolEntry) : Bool :=
  q.node == e.node && q.handle == e.handle &&
    match e.own with
    | some g => q.group == g
    | none => !(s.pool.any fun f => f.fn == e.fn && f.own == some q.group)

/-- The saved panels that the next resume of an entry takes: the first one saved, with its gang by rank (R436, R437). -/
def State.resumeGroup (s : State) (e : PoolEntry) : List SavedPanel :=
  let all := (s.func e.fn).saved
  match all.find? fun q => s.standsIn q e with
  | none => []
  | some q =>
    match q.gang with
    | none => [q]
    | some g => (List.range g.members.length).filterMap fun r => all.find? fun x => x.gang.any fun (h : Gang) => h.id == g.id && h.rank == r

/-- The saved panels of a resume no longer hold their part of the save region (R425). -/
def State.withoutSaved (s : State) (fn : Nat) (qs : List SavedPanel) : State :=
  s.onFunc fn fun f => { f with saved := f.saved.filter fun q => !(qs.any fun x => x.id == q.id) }

/-- What the entry would resume or dispatch next fits a core, or a gang cores of its cluster, that take it. -/
def State.fitsTaken (s : State) (e : PoolEntry) (core : Nat) (whole : Bool) (takes : Nat → Header → Bool) : Bool :=
  match s.resumeGroup e with
  | q :: qs =>
    let s1 := s.withoutSaved e.fn (q :: qs)
    if q.gang.isSome then s1.demandsFit (clusterOf core) e.fn ((q :: qs).map fun x => (x.kernel, x.ringBytes)) whole takes
    else takes core q.kernel && s1.headerFits core e.fn q.kernel q.ringBytes whole
  | [] =>
    match s.nodeOf e.fn e.handle e.node with
    | none => false
    | some n =>
      if n.kind = 2 then n.demands.length == n.size && s.demandsFit (clusterOf core) e.fn n.demands whole takes
      else (n.kernels.head?).any fun h => takes core h && s.headerFits core e.fn h 0 whole

/-- fits_core of R184, for what the entry would resume or dispatch next. -/
def State.fitsCore (s : State) (e : PoolEntry) (core : Nat) (whole : Bool) : Bool := s.fitsTaken e core whole fun _ _ => true

/-- needs(e) of R183. (log entry 92: DESIGN CHOICE) -/
def State.needs (s : State) (e : PoolEntry) : Nat :=
  match s.nodeOf e.fn e.handle e.node with
  | none => 0
  | some n => (n.kernels.map Header.totalGranules).foldl max 0

/-- The function whose panels a cluster may run now (R185, R421); none on a die that has tripped (R478). -/
def State.clusterFn (s : State) (cluster : Nat) : Option Nat :=
  if s.tripped.contains (dieOf (24 * cluster)) then none
  else match s.clusters.find? fun x => x.1 == cluster with
  | none => none
  | some (_, r) => if r.ending then none else (r.table[r.current]?).map fun x => x.1

/-- The resident panels of a node instance; a trigger node's instance number is its index (R179). -/
def State.residents (s : State) (fn handle node : Nat) : Nat :=
  (s.panels.filter fun p => p.fn == fn && p.handle == handle && p.node == node).length

/-- A saved panel of a trigger node that is an entry of its own resumes only while fewer than the node's maximum are resident (R182). -/
def State.triggerRoom (s : State) (e : PoolEntry) : Bool :=
  !(e.trigger && e.own.isSome) || (s.nodeOf e.fn e.handle e.node).all fun n => decide (s.residents e.fn e.handle e.node < n.panels)

/-- The entry is eligible for the core (R185, R421, R438). -/
def State.eligible (s : State) (e : PoolEntry) (core : Nat) : Bool :=
  s.clusterFn (clusterOf core) == some e.fn && !(s.coreNote core).out && (s.func e.fn).st == .active && s.triggerRoom e

/-- The core is reserved for another entry, which needs more granules (R183, R185). -/
def State.reservedFrom (s : State) (e : PoolEntry) (core : Nat) : Bool :=
  (s.coreNote core).reserved.any fun r => r != e.id && s.pool.any fun f => f.id == r && decide (s.needs e < s.needs f)

/-- The core admits a panel of entry `own`, or of none: not one with fewer granules than the entry for which the core is reserved needs
(R185). -/
def State.admits (s : State) (own : Option Nat) (core : Nat) (h : Header) : Bool :=
  (s.coreNote core).reserved.all fun r => own == some r || !(s.pool.any fun f => f.id == r && decide (h.totalGranules < s.needs f))

/-- The entry's next panel or gang fits the core, and cores that admit it (R184, R185). -/
def State.fitsNow (s : State) (e : PoolEntry) (core : Nat) (whole : Bool) : Bool := s.fitsTaken e core whole (s.admits (some e.id))

/-- pick of R183 over the entries in pool order: the entry chosen and those it passed. -/
def State.pickFrom (s : State) (core kappa : Nat) : List PoolEntry → List Nat → Option (PoolEntry × List Nat)
  | [], _ => none
  | e :: es, passed =>
    if !s.eligible e core || s.reservedFrom e core || !s.fitsNow e core true then s.pickFrom core kappa es passed
    else if kappa < e.eclass then
      (if e.skips.getD (dieOf core) 0 = 8 then none else s.pickFrom core kappa es (passed ++ [e.id]))
    else some (e, passed)

/-- pick(die, core) of R183. -/
def State.pick (s : State) (core : Nat) : Option (PoolEntry × List Nat) :=
  s.pickFrom core (s.die (dieOf core)).kappa s.poolOrder []

/-- The pick of a core goes no further than the entry: it is chosen, or it blocks what follows (R183). -/
def State.stopsPick (s : State) (core : Nat) (e : PoolEntry) : Bool :=
  s.eligible e core && !s.reservedFrom e core && s.fitsNow e core true
    && (decide (e.eclass ≤ (s.die (dieOf core)).kappa) || e.skips.getD (dieOf core) 0 == 8)

/-- A pick of a core passes over an entry only because free space is not contiguous (R184). -/
def State.fragments (s : State) (core : Nat) : Bool :=
  (s.poolOrder.takeWhile fun f => !s.stopsPick core f).any fun f =>
    s.eligible f core && !s.reservedFrom f core && !s.fitsNow f core true && s.fitsNow f core false

/-- A pick of a core counts a fragmentation stall (R184, R481). (log entry 68: DEDUCED) -/
def State.countFrag (s : State) (core : Nat) : State :=
  if s.fragments core then s.onDie (dieOf core) fun d => { d with fragStall := (d.fragStall + 1) % 2 ^ 64 } else s

/-- The core's blocked head (R185). -/
def State.blockedHead (s : State) (core : Nat) : Option Nat :=
  (s.poolOrder.find? fun e => s.eligible e core && decide (e.eclass ≤ (s.die (dieOf core)).kappa) && !s.fitsCore e core true).map
    fun e => e.id

/-- The cores that some function's partition holds. -/
def State.liveCores (s : State) : List Nat :=
  s.clusters.flatMap fun x => (List.range 24).map fun i => x.1 * 24 + i

/-- The blocked heads follow the pool: a change restarts the count, and a reservation ends when its entry leaves the pool (R185). -/
def State.settleHeads (s : State) : State :=
  if s.pool.isEmpty && s.cores.all (fun c => c.2.head.isNone && c.2.reserved.isNone) then s
  else s.liveCores.foldl (fun s c =>
    let h := s.blockedHead c
    let n := s.coreNote c
    let kept := n.reserved.filter fun r => s.pool.any fun f => f.id == r
    if n.head = h ∧ n.reserved = kept then s
    else s.setCoreNote c { n with head := h, count := if n.head = h then n.count else 0, reserved := kept }) s

/-- An entry has been placed on some cores: the counts of the cores whose head it is restart, and those cores are no longer reserved
for it (R185). -/
def State.headPlaced (s : State) (entry : Nat) (cores : List Nat) : State :=
  { s with cores := s.cores.map fun x =>
      (x.1, { x.2 with
        count := if x.2.head = some entry then 0 else x.2.count
        reserved := if x.2.reserved = some entry ∧ cores.contains x.1 then none else x.2.reserved }) }

/-- A retirement on a core counts for its blocked head if that still does not fit; at four the core is reserved for it (R185). -/
def State.countRetire (s : State) (core : Nat) : State :=
  let n := s.coreNote core
  if n.head.isSome ∧ s.blockedHead core = n.head then
    s.setCoreNote core { n with
      count := n.count + 1, reserved := if n.reserved.isNone ∧ 4 ≤ n.count + 1 then n.head else n.reserved }
  else s

/-! ## Placement and dispatch (R129, R141, R142, R144, R183, R190) -/

/-- A placement of one panel is legal as the core stands (R184, R425). (log entry 91: DESIGN CHOICE) -/
def State.placeOk (s : State) (fn : Nat) (h : Header) (rings : Nat) (pl : Placement) : Bool :=
  let skeins := pl.pipes.zip pl.granules
  let g := h.granules
  decide (pl.core < 768) && pl.pipes.length == h.skeins && pl.granules.length == h.skeins
    && skeins.all (fun x => decide (x.1 < 4) && decide (x.2 + g ≤ 64)
      && apart x.2 g (((s.granuleUse pl.core).filter fun u => u.1 == x.1).map fun u => u.2))
    && skeins.zipIdx.all (fun x => skeins.zipIdx.all fun y => x.2 == y.2 || x.1.1 != y.1.1 || !overlap x.1.2 g y.1.2 g)
    && (List.range 4).all (fun i => decide (((s.granuleUse pl.core).filter fun u => u.1 == i).length
      + (pl.pipes.filter fun q => q == i).length ≤ 16))
    && decide (pl.scratchAt + h.scratchKib ≤ 256) && apart pl.scratchAt h.scratchKib (s.scratchUse pl.core)
    && decide (pl.ringAt + (rings + 1023) / 1024 ≤ 256) && apart pl.ringAt ((rings + 1023) / 1024) (s.scratchUse pl.core)
    && !overlap pl.scratchAt h.scratchKib pl.ringAt ((rings + 1023) / 1024)
    && decide (pl.opbufAt + h.opbufKib ≤ 384) && apart pl.opbufAt h.opbufKib (s.opbufUse pl.core)
    && decide (s.barrierUse pl.core + h.barrierUnits ≤ 128)
    && pl.slot % 4096 == 0 && decide (pl.slot + reserveBytes h rings ≤ (s.func fn).saveSize)
    && apart pl.slot (reserveBytes h rings) (s.saveUse fn)

/-- The core map of a gang: s5 to s10 (R144). -/
def coreMapWord (cores : List Nat) (j : Nat) : Word :=
  BitVec.ofNat 32 ((List.range 4).foldl (fun n i => n + cores.getD (4 * j + i) 0xFF * 2 ^ (8 * i)) 0)

/-- The scalar registers at panel start (R129, R144); those at or above the declared count are not loaded. -/
def startScalars (h : Header) (arg : Dword) (ix skein node : Nat) (gang : Option Gang) : Regs :=
  let given : List (Nat × Word) := [(0, loWord arg), (1, hiWord arg), (2, BitVec.ofNat 32 ix), (3, BitVec.ofNat 32 skein)] ++
    match gang with
    | none => []
    | some g => (4, BitVec.ofNat 32 (g.rank + g.cores.length * 2 ^ 8 + g.cores.getD g.rank 0 * 2 ^ 16)) ::
        (List.range 6).map fun j => (5 + j, coreMapWord g.cores j)
  let low := given.foldl (fun (r : Regs) x => if x.1 < h.sregs then r.set x.1 x.2 else r) []
  let n := BitVec.ofNat 64 node
  (low.set 62 (loWord n)).set 63 (hiWord n)

/-- A panel at its start (R129, R141, R145, R197, R207). -/
def Panel.start (id fn handle node ix : Nat) (arg : Dword) (h image : Header) (level rings cycle : Nat) (gang : Option Gang)
    (range : Option Span) (pl : Placement) : Panel where
  id := id
  fn := fn
  handle := handle
  node := node
  label := node
  ix := ix
  argAddr := arg
  kernel := h
  image := image
  core := pl.core
  granules := pl.granules
  scratchAt := pl.scratchAt
  opbufAt := pl.opbufAt
  ringAt := pl.ringAt
  ringBytes := rings
  since := cycle
  level := level
  slot := pl.slot
  gang := gang
  skeins := (List.range h.skeins).map fun k => Skein.start h.entry k (pl.pipes.getD k 0) cycle (startScalars h arg ix k node gang)
  scratch := []
  opbuf := []
  resv := []
  bars := []
  tiles := []
  chans := []
  cands := []
  preq := false
  deadline := 100
  timer := none
  skid := 0
  dbgreq := 0
  dbgstat := 0
  dbgdata := 0
  dbg := none
  quiet := none
  thaw := 0
  range := range
  halt := none
  saving := none

/-- The argument address of a node's panels (R129, R174). -/
def State.argAddress (s : State) (fn node : Nat) (n : Node) : Dword :=
  if n.kind = 3 then n.second
  else BitVec.ofNat 64 ((((s.func fn).launch? (node / 2 ^ 16)).map fun l => l.arg).getD 0 + n.argOff)

/-- The interval of initial panel `k` of a range node (R190). -/
def rangeStart (n : Node) (k : Nat) : Span :=
  let S := n.second.toNat
  let E := n.third.toNat
  let c := (E - S + n.grain - 1) / n.grain
  ⟨S + n.grain * (k * c / n.panels), min E (S + n.grain * ((k + 1) * c / n.panels)), n.grain⟩

/-- The index the next panel of a node takes (R129, R179, R191). -/
def State.nextIx (s : State) (fn handle node : Nat) (n : Node) : Nat :=
  if n.kind = 3 then (((s.func fn).pattern? handle).map fun p => cellGet 0 p.counts (node % 2 ^ 16)).getD 0 % 2 ^ 32
  else (((s.func fn).launch? (node / 2 ^ 16)).map fun l => (l.run (node % 2 ^ 16)).dispatched).getD 0

/-- `m` more panels of a node have been dispatched. -/
def State.countPanels (s : State) (fn handle node : Nat) (n : Node) (m : Nat) : State :=
  s.onFunc fn fun f =>
    if n.kind = 3 then
      { f with patterns := f.patterns.map fun p =>
          if p.handle = handle then
            { p with counts := cellSet 0 p.counts (node % 2 ^ 16) (cellGet 0 p.counts (node % 2 ^ 16) + m) } else p }
    else f.onLaunch (node / 2 ^ 16) fun l => l.onRun (node % 2 ^ 16) fun r => { r with dispatched := r.dispatched + m }

/-- A panel becomes resident: its lanes' first issue follows an acquire (R178, R470), and a trace event is written. -/
def State.addPanel (s : State) (p : Panel) (trace : Nat) : State :=
  (({ s with panels := s.panels ++ [p] }).acquire p.core p.fn .system).hwTrace p.fn p.core trace 0 p.node

/-- The supervisor image of a pattern. -/
def State.imageOf (s : State) (fn handle : Nat) : Option Header := ((s.func fn).pattern? handle).map fun p => p.image

/-- The panels of one dispatch are added; their headers and ring bytes are given by rank. Each takes its own index (R129), and a range node's
initial panel number its interval (R190). -/
def State.place (s : State) (e : PoolEntry) (n : Node) (image : Header) (places : List Placement) : State :=
  let ix := s.nextIx e.fn e.handle e.node n
  let arg := s.argAddress e.fn e.node n
  let (gid, s0) := s.fresh
  let ids := (List.range places.length).map fun r => gid + 1 + r
  let cores := places.map fun pl => coreIx pl.core
  let s1 : State := { s0 with nextId := s0.nextId + places.length }
  let s2 := places.zipIdx.foldl (fun s (x : Placement × Nat) =>
    let gang := if n.kind = 2 then some ⟨gid, x.2, ids, cores⟩ else none
    match (if n.kind = 2 then n.kernelOf x.2 else n.kernels.head?) with
    | none => s
    | some h =>
      let rings := if n.kind = 2 then homeBytes n.pipes x.2 else 0
      let range := if n.kind = 1 then some (rangeStart n (n.panels - e.left)) else none
      s.addPanel (Panel.start (ids.getD x.2 0) e.fn e.handle e.node (ix + x.2) arg h image n.level rings (s.cycle x.1.core) gang range x.1) 1) s1
  let s3 := s2.countPanels e.fn e.handle e.node n places.length
  if n.kind = 2 then
    { s3 with rings := s3.rings ++ n.pipes.zipIdx.map fun (x : PipeDesc × Nat) => ⟨gid, x.2, x.1.home, x.1.esz, x.1.dep, 0, [], [], []⟩ }
  else s3

/-- Every placement of a dispatch of entry `own` is legal, each after those before it (R142, R184, R185). -/
def State.placesOk (s : State) (own fn : Nat) (n : Node) (places : List Placement) : Bool :=
  if n.kind = 2 then
    places.length == n.size && distinct (places.map fun pl => pl.core)
      && places.all (fun pl => clusterOf pl.core == clusterOf ((places.headD ⟨0, [], [], 0, 0, 0, 0⟩).core) && !(s.coreNote pl.core).out)
      && places.zipIdx.all (fun (x : Placement × Nat) => (n.kernelOf x.2).any fun h =>
        s.admits (some own) x.1.core h && s.placeOk fn h (homeBytes n.pipes x.2) x.1)
      && places.zipIdx.all (fun (x : Placement × Nat) => places.zipIdx.all fun (y : Placement × Nat) => x.2 == y.2 ||
        (match n.kernelOf x.2, n.kernelOf y.2 with
          | some a, some b => !overlap x.1.slot (reserveBytes a (homeBytes n.pipes x.2)) y.1.slot (reserveBytes b (homeBytes n.pipes y.2))
          | _, _ => false))
  else
    match places, n.kernels with
    | [pl], h :: _ => s.admits (some own) pl.core h && s.placeOk fn h 0 pl
    | _, _ => false

/-- The skip counts after a pick chose an entry and passed some (R183), and the fragmentation stalls (R184). (log entry 68: DEDUCED) -/
def State.picked (s : State) (e : PoolEntry) (passed : List Nat) (core : Nat) : State :=
  let s1 := s.countFrag core
  { s1 with pool := s1.pool.map fun f =>
      if f.id = e.id then { f with skips := [0, 0, 0, 0], since := s.time }
      else if passed.contains f.id then { f with skips := f.skips.modify (dieOf core) (· + 1) } else f }

/-- The entry has a saved panel, which resumes before anything is dispatched (R436). -/
def State.resumable (s : State) (e : PoolEntry) : Bool := (s.func e.fn).saved.any fun q => s.standsIn q e

/-- The entry dispatches new panels: it is no saved panel's own. -/
def PoolEntry.dispatches (e : PoolEntry) : Bool := e.own.isNone && (e.trigger || decide (0 < e.left))

/-- An entry with nothing more to dispatch or resume leaves the pool (R180). -/
def State.trimEntry (s : State) (e : PoolEntry) : State :=
  { s with pool := s.pool.filter fun f => !(f.id == e.id && !f.dispatches && !s.resumable f) }

/-- PANEL_DISPATCH (R183): the entry that the pick for the core chooses dispatches one panel or one gang; a pick that chooses none counts its
fragmentation stall. -/
def execPanelDispatch (entry : Nat) (places : List Placement) (s : State) : Out :=
  match places with
  | [] => .next s
  | pl :: _ =>
    match s.pick pl.core with
    | none => .next (s.countFrag pl.core)
    | some (e, passed) =>
      match s.nodeOf e.fn e.handle e.node, s.imageOf e.fn e.handle with
      | some n, some image =>
        if e.id = entry ∧ e.dispatches ∧ !s.resumable e ∧ s.placesOk e.id e.fn n places then
          let s1 := (s.picked e passed pl.core).headPlaced e.id (places.map fun x => x.core)
          let s2 := s1.onEntry e.id fun f => { f with left := f.left - 1 }
          .next ((s2.place e n image places).trimEntry e)
        else .next s
      | _, _ => .next s

/-- POOL_AGING (R181). -/
def execPoolAging (entry : Nat) (s : State) : Out :=
  match s.pool.find? fun e => e.id == entry with
  | none => .next s
  | some e =>
    let f := s.func e.fn
    if f.bandT ≠ 0 ∧ e.level < f.bandHigh ∧ e.since + tick f.bandT ≤ s.time then
      .next (s.onEntry entry fun e => { e with level := e.level + 1, since := e.since + tick f.bandT })
    else .next s

/-! ## Trigger entries (R182) -/

/-- The number of a domain's sub-queue. -/
def subqueueIx (domain subq : Nat) : Nat := 2 * domain + subq
/-- A sub-queue's items (R359). -/
def State.subqueue (s : State) (ix : Nat) : List SwItem := cellGet [] s.swQueues ix

/-- The groups of a node's saved panels that stand in its entry. -/
def State.standing (s : State) (e : PoolEntry) : List Nat :=
  (((s.func e.fn).saved.filter fun q => s.standsIn q e).map SavedPanel.group).eraseDups

/-- An entry leaves the pool, and a saved panel that stood in it becomes an entry of its own, with its level and readiness time (R182, R436). -/
def State.entryLeaves (s : State) (e : PoolEntry) : State :=
  (s.standing e).foldl (fun (s : State) g =>
    let (id, s1) := s.fresh
    { s1 with pool := s1.pool ++ [{ e with id := id, left := 0, skips := [0, 0, 0, 0], since := s.time, own := some g }] })
    { s with pool := s.pool.filter fun f => f.id != e.id }

/-- The entry of one trigger node comes and goes with its sub-queue and its residents, each time as a new one (R182). -/
def State.settleTrigger (s : State) (fn handle ix : Nat) (n : Node) : State :=
  let q := subqueueIx n.domain n.subq
  let here := s.pool.find? fun e => e.fn == fn && e.handle == handle && e.node == ix && e.trigger && e.own.isNone
  let want := !(s.subqueue q).isEmpty && decide (s.residents fn handle ix < n.panels) && (s.func fn).st == .active
  match here with
  | none => if want then s.addEntry fn handle ix 1 (cellGet 0 s.swSince q) n none else s
  | some e => if want then s else s.entryLeaves e

/-- Every armed trigger node's entry. -/
def State.settleTriggers (s : State) : State :=
  (List.range s.fns.length).foldl (fun s fn => (s.func fn).patterns.foldl (fun s p =>
    p.nodes.zipIdx.foldl (fun s (x : Node × Nat) => if x.1.kind = 3 then s.settleTrigger fn p.handle x.2 x.1 else s) s) s) s

/-! ## Retirement (R94, R142, R178) -/

/-- A panel leaves its core: its walks, traversal threads and pipe waits go with it, and with the last of a gang its rings (R187). -/
def State.dropPanel (s : State) (p : Panel) : State :=
  let kept := match p.gang with
    | none => s.rings
    | some g => if s.panels.any fun q => q.id != p.id && (q.gang.any fun (h : Gang) => h.id == g.id) then s.rings
      else s.rings.filter fun r => r.gang != g.id
  { s with
    panels := s.panels.filter fun q => q.id != p.id
    walks := s.walks.filter fun w => w.panel != p.id
    atoms := s.atoms.filter fun a => a.panel != p.id
    rays := s.rays.filter fun t => t.panel != p.id
    bad := s.bad.filter fun x => x.region != .scratch p.id && x.region != .opbuf p.id
    rings := kept.map fun r =>
      { r with pushes := r.pushes.filter fun w => w.panel != p.id, pops := r.pops.filter fun w => w.panel != p.id } }

/-- The node instance has no panel left, resident, saved or still to be dispatched. -/
def State.nodeEmpty (s : State) (fn handle node : Nat) : Bool :=
  !(s.panels.any fun p => p.fn == fn && p.handle == handle && p.node == node)
    && !((s.func fn).saved.any fun q => q.handle == handle && q.node == node)
    && !(s.pool.any fun e => e.fn == fn && e.handle == handle && e.node == node && (e.trigger || e.left != 0))

/-- A panel of a node instance is gone for good: with the last one its blend groups are applied (R335), and the node may complete
(R178). -/
def State.panelGone (s : State) (fn handle node : Nat) : State :=
  (if s.nodeEmpty fn handle node then s.rastFlush fn handle node else s).nodeMayEnd fn node

/-- A panel retires (R94), and with it leave the panels `gone`: itself, or its gang with the last member. What it held is released, and
its node may be complete. -/
def State.retirePanel (s : State) (p : Panel) (gone : List Panel) : State :=
  let s1 := ((gone.foldl State.dropPanel s).hwTrace p.fn p.core 2 0 p.node).countRetire p.core
  if gone.isEmpty then s1 else s1.panelGone p.fn p.handle p.node

/-- The members of a panel's gang, or the panel alone. -/
def State.gangOf (s : State) (p : Panel) : List Panel :=
  match p.gang with
  | none => [p]
  | some g => s.panels.filter fun q => q.gang.any fun h => h.id == g.id

/-- Skein `k` is the last of its panel that has not retired. -/
def Panel.lastSkein (p : Panel) (k : Nat) : Bool := p.skeins.all fun q => q.retired || q.ix == k

/-- Skein `k` may retire (R94). The last of a panel waits for what the core has started to be at its home: the panel's retirement is its
part of its node's completion, a release (R178, R243, R244). -/
def State.mayRetire (s : State) (p : Panel) (k : Nat) (sk : Skein) : Bool :=
  !sk.retired && sk.lanes.all (fun a => a.exited) && sk.outs.isEmpty && !s.skeinBusy p.id k && p.halt.isNone && p.saving.isNone
    && !(p.lastSkein k && s.releaseWaits p.core .device)

/-- SKEIN_RETIRE (R94): the panel retires with its last skein; a gang's members keep their scratchpads until the last of them (R142). -/
def execSkeinRetire (p k : Nat) (s : State) : Out :=
  match s.panel? p with
  | none => .next s
  | some q =>
    match q.skein? k with
    | none => .next s
    | some sk =>
      if !s.mayRetire q k sk then .next s
      else
        let s1 := s.onPanel p fun q => q.onSkein k fun sk => { sk with retired := true }
        let q1 := (s1.panel? p).getD q
        let all := s1.gangOf q1
        if !q1.over then .next s1
        else .next (s1.retirePanel q1 (if all.all Panel.over then all else []))

/-! ## Range splits (R191) -/

/-- Remaining chunks of an interval. -/
def Span.chunks (r : Span) : Nat := (r.hi - r.lo + r.grain - 1) / r.grain

/-- The panel may be a donor for a core. (log entry 93: DEDUCED) -/
def State.donor (s : State) (core : Nat) (p : Panel) : Bool :=
  match p.range, s.nodeOf p.fn p.handle p.node with
  | some r, some n =>
    let f := s.func p.fn
    n.kind == 1 && decide (2 ≤ r.chunks) && decide (r.lo < r.hi) && decide (s.residents p.fn p.handle p.node < n.buffer)
      && decide (f.bandLow ≤ p.level) && decide (p.level ≤ f.bandHigh) && p.halt.isNone && p.saving.isNone
      && s.clusterFn (clusterOf core) == some p.fn && !(s.coreNote core).out && s.admits none core p.kernel
      && s.headerFits core p.fn p.kernel 0 true
  | _, _ => false

/-- Donor `p` comes before donor `q`: more chunks, then the lower node instance, then the lower index. -/
def donorBefore (p q : Panel) : Bool :=
  let c (x : Panel) : Nat := (x.range.map Span.chunks).getD 0
  decide (c q < c p) || (c p == c q && (decide (p.node < q.node) || (p.node == q.node && decide (p.ix < q.ix))))

/-- RANGE_SPLIT (R185, R191): the pick of the core has chosen no entry. No RNGNEXT of the donor follows it in its cycle. -/
def execRangeSplit (p : Nat) (place : Placement) (s : State) : Out :=
  match s.panel? p with
  | none => .next s
  | some d =>
    match d.range, s.nodeOf d.fn d.handle d.node with
    | some r, some n =>
      let best := s.donor place.core d && s.panels.all fun q => q.id == d.id || !s.donor place.core q || donorBefore d q
      if best && (s.pick place.core).isNone && s.placeOk d.fn d.kernel 0 place then
        let cut := r.lo + r.grain * ((r.chunks + 1) / 2)
        let ix := s.nextIx d.fn d.handle d.node n
        let (id, s1) := (s.countFrag place.core).fresh
        let s2 : State := { s1.onPanel p fun q => { q with range := some { r with hi := cut } } with made := (p, 32, 1) :: s1.made }
        let new := Panel.start id d.fn d.handle d.node ix d.argAddr d.kernel d.image d.level 0 (s.cycle place.core) none
          (some { r with lo := cut }) place
        .next (((s2.addPanel new 1).countPanels d.fn d.handle d.node n 1).hwTrace d.fn place.core 7 0 d.node)
      else .next s
    | _, _ => .next s

/-! ## Cooperative requests (R426) -/

/-- The victims in the order R426 takes them: lowest level first, then most recently dispatched. -/
def insertVictim (p : Panel) : List Panel → List Panel
  | [] => [p]
  | q :: qs => if p.level < q.level ∨ (p.level = q.level ∧ q.id < p.id) then p :: q :: qs else q :: insertVictim p qs

/-- The entry fits some core of its function's clusters. -/
def State.fitsSomewhere (s : State) (e : PoolEntry) : Bool :=
  s.liveCores.any fun c => s.eligible e c && s.fitsCore e c true

/-- The least number of victims whose resources let the entry fit, all of them if none does. (log entry 23: DEDUCED) -/
def State.victims (s : State) (e : PoolEntry) : List Panel → List Panel → List Panel
  | [], taken => taken
  | v :: vs, taken =>
    let taken1 := taken ++ [v]
    if ({ s with panels := s.panels.filter fun p => !taken1.any fun t => t.id == p.id }).fitsSomewhere e then taken1
    else s.victims e vs taken1

/-- PREEMPTION_REQUEST (R426, R427). -/
def execPreemptionRequest (entry : Nat) (s : State) : Out :=
  match s.pool.find? fun e => e.id == entry with
  | none => .next s
  | some e =>
    let m := (s.func e.fn).margin
    if m = 0 ∨ s.fitsSomewhere e then .next s
    else
      let low := s.panels.filter fun p => p.fn == e.fn && decide (p.level + m ≤ e.level) && p.gang.isNone && p.halt.isNone
      let vs := s.victims e (low.foldr insertVictim []) []
      .next { s with panels := s.panels.map fun p => if vs.any fun v => v.id == p.id then p.setPreq s.time true else p }

end Sys2Proof.Machine
end

