-- ==== Sys2Proof/Machine/Work.lean ====
section
/-!
DEFINITION. Sys2Proof/Machine/Work.lean: RNGNEXT and the gang pipes (spec/09_work_scheduling.md R187 to R192).
-/
namespace Sys2Proof.Machine

/-! ## RNGNEXT (R192) -/

/-- The next chunk of a panel's interval: start, length and what remains; one of no range node has no grain (R192). -/
def Panel.nextChunk (p : Panel) : Dword × Word × Option Span :=
  match p.range with
  | none => (BitVec.allOnes 64, 0, none)
  | some r =>
    if 0 < r.grain ∧ r.lo < r.hi then
      let len := min r.grain (r.hi - r.lo)
      (BitVec.ofNat 64 r.lo, BitVec.ofNat 32 len, some { r with lo := r.lo + len })
    else (BitVec.allOnes 64, 0, some r)

/-- RNGNEXT (R192). -/
def execRngnext (m : Mem) (s : State) : Out :=
  runSlot { slot := m.slot, hi := slotHigh (encode (.rngnext m)), form := { dst := .span }, once := true } s fun fr alive s =>
    if (fr.active m.slot alive).isEmpty then .done s [] [] []
    else
      let c := fr.p.nextChunk
      let ws := (fr.dstTargets (fr.leader m.slot) m.slot.dst 3).zip [loWord c.1, hiWord c.1, c.2.1]
      .done ((s.onPanel fr.p.id fun p => { p with range := c.2.2 }).addWrite fr
        { VarWrite.blank with targets := ws.map (fun w => w.1), vals := ws }) [] [] []

/-! ## Pipes (R187 to R189) -/

/-- The ring of a gang's pipe. -/
def State.ring? (s : State) (gang pipe : Nat) : Option Ring := s.rings.find? fun r => r.gang == gang && r.pipe == pipe

/-- The state with a ring replaced. -/
def State.setRing (s : State) (r : Ring) : State :=
  { s with rings := s.rings.map fun q => if q.gang = r.gang ∧ q.pipe = r.pipe then r else q }

/-- The ring that a panel's instruction names. -/
def State.panelRing (s : State) (p : Panel) (pipe : Nat) : Option Ring := p.gang.bind fun g => s.ring? g.id pipe

/-- The words of one entry of the pipe that the panel in focus names (R187). -/
def State.pipeWords (s : State) (pipe : Nat) : Nat :=
  (((s.panel? s.focus.1).bind fun p => s.panelRing p pipe).map fun r => 2 ^ r.esz).getD 1

/-- The instruction names a pipe that its kernel does not have (R188). -/
def pipeIllop (m : Mem) (fr : Frame) : Bool := decide (fr.p.kernel.pipes ≤ m.slot.lit.toNat)

/-- The lanes are held at the instruction, and the event joins its queue at the ring (R189). (log entry 42: DEDUCED) -/
def State.joinPipe (s : State) (fr : Frame) (pipe : Nat) (on : List Nat) (h : Hold) (f : Ring → Ring) : State :=
  match s.panelRing fr.p pipe with
  | none => s
  | some r => (s.setRing (f r)).onPanel fr.p.id fun p => p.onSkein fr.kx fun k => k.onLanes on fun _ a => { a with held := some h }

/-- PIPEPUSH (R189): each lane it counts releases at cluster scope first. -/
def execPipepush (m : Mem) (s : State) : Out :=
  let pipe := m.slot.lit.toNat
  let e := s.pipeWords pipe
  runSlot { slot := m.slot, hi := slotHigh (encode (.pipepush m)), form := { a := .vregs e }, illop := pipeIllop m } s fun fr alive s =>
    let on := fr.active m.slot alive
    if on.isEmpty then .done s [] [] []
    else if s.releaseWaits fr.p.core .cluster then .wait s
    else
      let w : PipeWait := ⟨fr.p.id, fr.kx, on, on.map fun l => fr.readWords m.slot l m.slot.sa e, 0⟩
      .done (s.joinPipe fr pipe on (.pipepush pipe fr.pc) fun r => { r with pushes := r.pushes ++ [w] }) [] [] []

/-- PIPEPOP (R189). -/
def execPipepop (m : Mem) (s : State) : Out :=
  let pipe := m.slot.lit.toNat
  let e := s.pipeWords pipe
  runSlot { slot := m.slot, hi := slotHigh (encode (.pipepop m)), form := { dst := .vregs e 1 false }, illop := pipeIllop m } s
    fun fr alive s =>
      let on := fr.active m.slot alive
      let dst := match m.slot.dst with
        | .v n => n.val
        | _ => 0
      if on.isEmpty then .done s [] [] []
      else .done (s.joinPipe fr pipe on (.pipepop pipe fr.pc) fun r => { r with pops := r.pops ++ [⟨fr.p.id, fr.kx, on, [], dst⟩] }) [] [] []

/-- Held lanes of a panel go on; the next cycle's selections see them (R131). -/
def State.releaseLanes (s : State) (panel k : Nat) (ls : List Nat) : State :=
  s.onPanel panel fun p => p.onSkein k fun q => q.onLanes ls fun _ a => { a with held := none, wake := s.cycle p.core + 1 }

/-- The oldest waiting push of a ring, when there is room for it. -/
def Ring.pushReady (r : Ring) : Option PipeWait :=
  match r.pushes with
  | w :: _ => if r.entries.length + w.lanes.length ≤ 2 ^ r.dep then some w else none
  | [] => none

/-- The oldest waiting pop of a ring, when there are entries for it. -/
def Ring.popReady (r : Ring) : Option PipeWait :=
  match r.pops with
  | w :: _ => if w.lanes.length ≤ r.entries.length then some w else none
  | [] => none

/-- The words a pop writes: one entry for each lane in order. -/
def popWrites (dst : Nat) (lanes : List Nat) (entries : List (List Word)) : List (Target × Word) :=
  (lanes.zip entries).flatMap fun (x : Nat × List Word) => x.2.zipIdx.map fun (y : Word × Nat) => (Target.v x.1 (dst + y.2), y.1)

/-- PIPE_SERVE (R189): the pipe of gang `p` serves its oldest push if there is room, else its oldest pop. -/
def execPipeServe (p pipe : Nat) (s : State) : Out :=
  match s.ring? p pipe with
  | none => .next s
  | some r =>
    match r.pushReady, r.popReady with
    | some w, _ =>
      .next ((s.setRing { r with entries := r.entries ++ w.words, pushes := r.pushes.drop 1 }).releaseLanes w.panel w.skein w.lanes)
    | none, some w =>
      let n := w.lanes.length
      let s1 := (s.setRing { r with entries := r.entries.drop n, pops := r.pops.drop 1, head := (r.head + n) % 2 ^ r.dep }).releaseLanes
        w.panel w.skein w.lanes
      let ws := popWrites w.dst w.lanes (r.entries.take n)
      let s2 := s1.onPanel w.panel fun q => q.onSkein w.skein fun k =>
        k.addOut { VarWrite.blank with targets := ws.map (fun x => x.1), vals := ws }
      .next (match s.panel? w.panel with
        | none => s2
        | some q => s2.acquire q.core q.fn .cluster)
    | none, none => .next s

end Sys2Proof.Machine
end

