-- ==== Sys2Proof/Machine/Context.lean ====
section
/-!
DEFINITION. Sys2Proof/Machine/Context.lean: the context area (spec/25_tenants_and_preemption.md R430, R432 to R437), CTXSAVE and
CTXLOAD (R405).
-/
namespace Sys2Proof.Machine

/-! ## Pieces of memory -/

/-- The bytes of a range, counted from its start. -/
def Bytes.cut (m : Bytes) (a n : Nat) : Bytes :=
  (m.filter fun c => decide (a ≤ c.1) && decide (c.1 < a + n)).map fun c => (c.1 - a, c.2)

/-- A range takes the bytes of another store, counted from its start. -/
def Bytes.paste (m : Bytes) (a n : Nat) (src : Bytes) : Bytes :=
  (m.filter fun c => decide (c.1 < a)) ++ ((src.filter fun c => decide (c.1 < n)).map fun c => (a + c.1, c.2)) ++
    m.filter fun c => decide (a + n ≤ c.1)

/-- Fields written from a base: offset, bytes and value of each. -/
def Bytes.fields (m : Bytes) (base : Nat) (xs : List (Nat × Nat × Nat)) : Bytes :=
  xs.foldl (fun m x => m.write (base + x.1) x.2.1 x.2.2) m

/-- `n` registers written as words from an offset. -/
def regFields (off n : Nat) (r : Regs) : List (Nat × Nat × Nat) := (List.range n).map fun i => (off + 4 * i, 4, (r.get i).toNat)

/-- Words written from an offset. -/
def wordFields (off : Nat) (ws : List Word) : List (Nat × Nat × Nat) := ws.zipIdx.map fun (x : Word × Nat) => (off + 4 * x.2, 4, x.1.toNat)

/-- `n` registers read as words from an address. -/
def Bytes.regs (m : Bytes) (a n : Nat) : Regs :=
  (List.range n).foldl (fun (r : Regs) i => r.set i (BitVec.ofNat 32 (m.read (a + 4 * i) 4))) []

/-- A word read from an address. -/
def Bytes.word (m : Bytes) (a : Nat) : Word := BitVec.ofNat 32 (m.read a 4)
/-- Two words read from an address. -/
def Bytes.dword (m : Bytes) (a : Nat) : Dword := BitVec.ofNat 64 (m.read a 8)

/-! ## The layout (R432) -/

/-- The bytes of one skein block. -/
def skeinBlock (h : Header) : Nat := 10752 + 128 * h.vregs
/-- The offset of skein block `s`. -/
def skeinAt (h : Header) (s : Nat) : Nat := 4096 + s * skeinBlock h
/-- The offset of the scratchpad image. -/
def scratchImage (h : Header) : Nat := 4096 + padPage (h.skeins * skeinBlock h)
/-- The offset of the operand-buffer image. -/
def opbufImage (h : Header) : Nat := scratchImage h + padPage h.scratch
/-- The offset of the pipe rings. -/
def ringImage (h : Header) : Nat := opbufImage h + padPage h.opbuf
/-- The offset of the traversal list. -/
def threadList (h : Header) (rings : Nat) : Nat := ringImage h + padPage rings

/-! ## Lanes (R430, R435) -/

/-- The PC a lane is recorded at (R430). -/
def Lane.savedPc (a : Lane) : Dword :=
  match a.held with
  | some (.mbw _ _ _ _ at_) | some (.cpwait _ _ _ at_) | some (.scwait _ _ _ at_) | some (.twait _ _ _ at_)
  | some (.pipepush _ at_) | some (.pipepop _ at_) | some (.repack _ at_) => at_
  | _ => a.pc

/-- A lane as its context records it: rewound lanes at their waits, yielding lanes free (R430). -/
def Lane.rewound (a : Lane) : Lane :=
  match a.held with
  | some (.bar _ _) | none => { a with yielding := false }
  | _ => { a with pc := a.savedPc, held := none, waitDue := none, needTgt := false, yielding := false }

/-- A hypervisor-mode lane of a CTXSAVE's own skein, as if its trap had not been taken (R405): neither parked nor held by its handler,
and after a CTXLOAD as it was loaded. -/
def Lane.untrapped (a : Lane) (cycle : Nat) : Lane :=
  if a.mode = .hypervisor ∧ !a.exited then
    { a with
      mode := modeOfCode (a.saveH.status.toNat % 4), pc := a.saveH.epc, saveH := .zero, qHyp := blankBank 8, back := none
      exited := a.back.any fun b => b.exited, park := (a.back.bind fun b => b.park).map (parkOf cycle)
      held := a.back.bind fun b => b.held }
  else a

/-- The remaining count of a parked lane (R95, R430); `none` when it is not parked, or is unparked by now. -/
def Lane.parkLeft (a : Lane) (cycle : Nat) : Option Nat :=
  match a.park with
  | some (.till c) => if cycle < c then some (c - cycle) else none
  | some .still => some 0
  | none => none

/-- The values of a bank by age. -/
def bankWords (b : List QCell) : List Word := b.map fun c => c.val

/-- A lane record's fields (R435). -/
def Lane.record (a : Lane) (cycle : Nat) : List (Nat × Nat × Nat) :=
  let bar := match a.held with
    | some (.bar b g) => (1, g % 2 ^ 32 + b * 2 ^ 32)
    | _ => (0, 0)
  [(0, 8, a.pc.toNat), (8, 4, a.mode.code + 4 * a.exited.toNat + 8 * (a.parkLeft cycle).isSome.toNat + 16 * bar.1), (12, 4, (a.parkLeft cycle).getD 0),
    (16, 8, bar.2), (24, 4, a.origin.toNat), (28, 4, a.tdepth), (32, 8, a.saveS.epc.toNat), (40, 8, a.saveH.epc.toNat),
    (48, 8, a.saveS.tval.toNat), (56, 8, a.saveH.tval.toNat), (64, 4, a.saveS.cause.toNat), (68, 4, a.saveH.cause.toNat),
    (72, 4, a.saveS.status.toNat), (76, 4, a.saveH.status.toNat)] ++ regFields 80 8 a.tSup ++ regFields 112 8 a.tHyp
    ++ wordFields 144 (bankWords a.qUser) ++ wordFields 208 (bankWords a.qSup) ++ wordFields 240 (bankWords a.qHyp)
    ++ [(272, 8, a.lastChange.toNat)]

/-- A bank of landed entries. -/
def Bytes.bank (m : Bytes) (a n : Nat) : List QCell := (List.range n).map fun i => ⟨m.word (a + 4 * i), 0⟩

/-- A loaded save set: reserved bits are zero (R4, R379). -/
def Bytes.saveSet (m : Bytes) (epc tval cause status : Nat) (mask : Word) : SaveSet :=
  ⟨m.dword epc, m.dword tval, m.word cause &&& 0x2FF, m.word status &&& mask⟩

/-- A hypervisor status that is loaded: a PM of 3 leaves PM as it was (R379). -/
def hypStatus (old new : Word) : Word := if new.toNat % 4 = 3 then new &&& 0xC ||| (old &&& 3) else new

/-- A lane takes what a record holds (R435, R436); its vector registers are loaded beside it. A recorded park stands again (R95, R430), in
hypervisor mode too (log entry 87: DEDUCED). -/
def Lane.load (a : Lane) (m : Bytes) (at_ cycle : Nat) (v : Regs) : Lane :=
  let w := m.read (at_ + 8) 4
  { a with
    v := v, pc := m.dword at_, mode := modeOfCode (w % 4), exited := w.testBit 2
    park := if w.testBit 3 then some (if m.read (at_ + 12) 4 = 0 then .still else .till (cycle + m.read (at_ + 12) 4)) else none
    held := if w.testBit 4 then some (.bar (bits (m.read (at_ + 16) 8) 35 32) (m.read (at_ + 16) 4)) else none
    yielding := false, origin := m.word (at_ + 24) &&& 0x3FF, tdepth := m.read (at_ + 28) 4 % 32
    saveS := m.saveSet (at_ + 32) (at_ + 48) (at_ + 64) (at_ + 72) 3
    saveH := (let h := m.saveSet (at_ + 40) (at_ + 56) (at_ + 68) (at_ + 76) 0xF; { h with status := hypStatus a.saveH.status h.status })
    tSup := m.regs (at_ + 80) 8, tHyp := m.regs (at_ + 112) 8, qUser := m.bank (at_ + 144) 16, qSup := m.bank (at_ + 208) 8
    qHyp := m.bank (at_ + 240) 8, lastChange := m.dword (at_ + 272), needTgt := false, wake := cycle, entry := none
    stepDue := none, waitDue := none, back := none }

/-! ## Skeins (R434) -/

/-- The 2-bit code of a barrier record. -/
def BarRecord.code : BarRecord → Nat
  | .none => 0 | .pending _ => 1 | .done => 2

/-- A bound fragment slot's word (R434). -/
def fragWord (f : Option Frag) : Nat :=
  match f with
  | some f => 2 ^ 31 + f.handle % 16 * 2 ^ 16 + f.tile % 64 * 2 ^ 8 + f.frag % 128
  | none => 0

/-- A skein block's fields (R434). -/
def Skein.block (k : Skein) (vregs cycle : Nat) : List (Nat × Nat × Nat) :=
  [(0, 4, k.fpmode.toNat), (4, 4, k.fpflags.toNat), (8, 4, k.ply), (12, 4, k.step.toNat)]
    ++ ((List.range 7).map fun i => (16 + 4 * i, 4, (k.k.get (i + 1)).toNat))
    ++ [(44, 4, ((List.range 16).map fun b => (k.barRecord b).code * 4 ^ b).sum)]
    ++ ((List.range 8).map fun n => (48 + 4 * n, 4, fragWord (k.fragOf n)))
    ++ regFields 128 64 k.s ++ regFields 384 8 k.xSup ++ regFields 416 8 k.xHyp
    ++ (k.lanes.zipIdx.flatMap fun (x : Lane × Nat) => (x.1.record cycle).map fun f => (512 + 320 * x.2 + f.1, f.2))
    ++ (k.lanes.zipIdx.flatMap fun (x : Lane × Nat) => (List.range vregs).map fun r => (10752 + 128 * r + 4 * x.2, 4, (x.1.v.get r).toNat))

/-- A skein takes what a block holds; `gens` are the open generations of the panel's barriers. -/
def Skein.load (k : Skein) (m : Bytes) (at_ vregs cycle : Nat) (gens : Nat → Nat) : Skein :=
  let recs := m.read (at_ + 44) 4
  { k with
    fpmode := m.word at_ &&& fpmodeMask, fpflags := m.word (at_ + 4) &&& fpflagsMask
    ply := (let w := m.read (at_ + 8) 4 % 64; if [2, 4, 8, 16, 32].contains w then w else k.ply)
    step := m.word (at_ + 12) &&& 3
    k := (List.range 7).foldl (fun (r : Regs) i => r.set (i + 1) (m.word (at_ + 16 + 4 * i))) []
    bars := (List.range 16).foldl (fun (l : List (Nat × BarRecord)) b =>
      cellSet .none l b (match recs / 4 ^ b % 4 with
        | 1 => .pending (gens b)
        | 2 => .done
        | _ => .none)) []
    frags := (List.range 8).filterMap fun n =>
      let w := m.read (at_ + 48 + 4 * n) 4
      if w.testBit 31 then some (n, ⟨bits w 19 16, bits w 13 8, bits w 6 0⟩) else none
    s := m.regs (at_ + 128) 64, xSup := m.regs (at_ + 384) 8, xHyp := m.regs (at_ + 416) 8
    lanes := k.lanes.zipIdx.map fun (x : Lane × Nat) =>
      let v := (List.range vregs).foldl (fun (r : Regs) i => r.set i (m.word (at_ + 10752 + 128 * i + 4 * x.2))) []
      x.1.load m (at_ + 512 + 320 * x.2) cycle v
    results := [], outs := [], sel := none, reads := none, forming := none, nextIssue := cycle, waitStart := none, retired := false }

/-! ## Panels (R433, R436, R437) -/

/-- What a context is made for: its kind and reason, and for a CTXSAVE the issuing skein. -/
structure SaveMark where
  kind : Nat
  reason : Nat
  issuer : Option Nat := none

/-- The lanes of a panel as a context records them. -/
def Panel.recorded (p : Panel) (mark : SaveMark) (cycle : Nat) : Panel :=
  { p with skeins := p.skeins.map fun k =>
      let own := mark.issuer == some k.ix
      { k with
        lanes := k.lanes.map fun a => if own then a.rewound.untrapped cycle else a.rewound
        xHyp := if own && k.lanes.any (fun a => !a.exited && a.mode == .hypervisor) then [] else k.xHyp } }

/-- A named barrier's 64 bits (R433). -/
def Barrier.word (b : Barrier) : Nat := b.gen % 2 ^ 32 + b.expect.getD 0 % 2048 * 2 ^ 32 + b.arrived % 2048 * 2 ^ 48

/-- A channel context's fields (R433). -/
def Chan.fields (c : Chan) (off : Nat) : List (Nat × Nat × Nat) :=
  [(off, 8, c.tail), (off + 8, 8, c.ptr), (off + 16, 8, c.faddr.toNat), (off + 24, 1, c.flt.toNat)]

/-- The header bytes by which a context names its panel's kernel and shape (R433, R405). -/
def Panel.shape (p : Panel) : List (Nat × Nat × Nat) :=
  [(8, 8, p.kernel.entry.toNat), (32, 1, p.kernel.vregs), (33, 1, p.kernel.sregs), (34, 1, p.kernel.skeins), (35, 1, p.kernel.gang),
    (36, 1, (p.gang.map fun g => g.rank).getD 0), (37, 1, p.kernel.pipes), (40, 4, p.kernel.scratch), (44, 4, p.kernel.opbuf)]

/-- The rings that a panel's core is home to, by pipe (R187). -/
def State.homeRings (s : State) (p : Panel) : List Ring :=
  match p.gang with
  | none => []
  | some g => s.rings.filter fun r => r.gang == g.id && r.home == g.rank

/-- The offset of a pipe's ring in a panel's ring section: rings stand in order of pipe. -/
def ringOffset (rings : List Ring) (pipe : Nat) : Nat :=
  ((rings.filter fun r => decide (r.pipe < pipe)).map fun r => 4 * 2 ^ r.esz * 2 ^ r.dep).sum

/-- The fields of the rings: each entry at its place in the ring. -/
def ringFields (rings : List Ring) (base : Nat) : List (Nat × Nat × Nat) :=
  rings.flatMap fun r => r.entries.zipIdx.flatMap fun (e : List Word × Nat) =>
    wordFields (base + ringOffset rings r.pipe + 4 * 2 ^ r.esz * ((r.head + e.2) % 2 ^ r.dep)) e.1

/-- One entry of the traversal list (R432). -/
def Ray.entry (t : Ray) : Nat := t.record % 4096 + t.lane % 32 * 2 ^ 12 + t.skein % 32 * 2 ^ 17

/-- The panel header's fields (R433). (log entry 44: DEDUCED) -/
def Panel.headFields (p : Panel) (mark : SaveMark) (rings : List Ring) (threads : Nat) : List (Nat × Nat × Nat) :=
  [(0, 4, 0x58544350), (4, 2, 1), (6, 1, mark.kind), (7, 1, mark.reason), (16, 8, p.label),
    (24, 4, contextBytes p.kernel p.ringBytes threads), (28, 4, threads),
    (48, 8, (p.range.map fun r => r.lo).getD 0), (56, 8, (p.range.map fun r => r.hi).getD 0),
    (64, 4, p.preq.toNat), (68, 4, p.deadline), (72, 12, p.skid.toNat)] ++ p.shape
    ++ ((List.range 24).map fun i => (96 + i, 1, ((p.gang.bind fun g => g.cores[i]?)).getD 0xFF))
    ++ ((List.range 16).map fun b => (128 + 8 * b, 8, (p.barrier b).word))
    ++ ((List.range 8).flatMap fun c => (p.chan c).fields (256 + 32 * c))
    ++ ((List.range 16).map fun h => (512 + 16 * h, 16, (p.record h).toNat))
    ++ rings.map fun r => (768 + 8 * r.pipe, 8, r.head % 2 ^ 16 + r.entries.length % 2 ^ 16 * 2 ^ 16)

/-- A panel's context area, counted from its start (R430, R432 to R435). -/
def State.contextOf (s : State) (p0 : Panel) (mark : SaveMark) : Bytes :=
  let cycle := s.cycle p0.core
  let p := p0.recorded mark cycle
  let rings := s.homeRings p
  let threads := s.rays.filter fun t => t.panel == p.id
  let head := Bytes.fields [] 0 (p.headFields mark rings threads.length)
  let blocks := p.skeins.zipIdx.foldl (fun (m : Bytes) (x : Skein × Nat) =>
    m.fields (skeinAt p.kernel x.2) (x.1.block p.kernel.vregs cycle)) head
  let images := (blocks.paste (scratchImage p.kernel) (padPage p.kernel.scratch) p.scratch).paste (opbufImage p.kernel)
    (padPage p.kernel.opbuf) p.opbuf
  (images.fields 0 (ringFields rings (ringImage p.kernel))).fields 0
    (threads.zipIdx.map fun (x : Ray × Nat) => (threadList p.kernel p.ringBytes + 4 * x.2, 4, x.1.entry))

/-- The bytes of a panel's context area as it stands. -/
def State.areaOf (s : State) (p : Panel) : Nat :=
  contextBytes p.kernel p.ringBytes (s.rays.filter fun t => t.panel == p.id).length

/-- The reserved bits of a reservation record, which read as zero (R4, R208). -/
def resvMask : BitVec 128 := BitVec.ofNat 128 (2 ^ 128 - 1 - (2 ^ 128 - 2 ^ 115) - (2 ^ 96 - 2 ^ 83) - (2 ^ 64 - 2 ^ 51) - 7 * 2 ^ 29)

/-- A panel's interval after a load: one of no range node keeps what the context holds, for the next context, and hands out no chunk of it
(R192, R405, R433). -/
def loadSpan (old : Option Span) (lo hi : Nat) : Option Span :=
  match old with
  | some r => some { r with lo := lo, hi := hi }
  | none => if lo = 0 ∧ hi = 0 then none else some ⟨lo, hi, 0⟩

/-- A panel takes what a context holds (R436); reserved bits are zero (R4), positions of a channel have 63 bits (R276). -/
def Panel.load (p : Panel) (m : Bytes) (cycle : Nat) : Panel :=
  let gen (b : Nat) : Nat := m.read (128 + 8 * b) 4
  { p with
    label := m.read 16 8
    gang := p.gang.map fun g => { g with cores := (List.range g.members.length).map fun i => m.read (96 + i) 1 }
    deadline := (let d := m.read 68 4 % 2 ^ 24; if d = 0 then p.deadline else d), skid := BitVec.ofNat 96 (m.read 72 12)
    range := loadSpan p.range (m.read 48 8) (m.read 56 8)
    bars := (List.range 16).foldl (fun (l : List (Nat × Barrier)) b =>
      let e := bits (m.read (128 + 8 * b) 8) 42 32
      cellSet ⟨0, none, 0⟩ l b ⟨gen b, if e = 0 then none else some e, bits (m.read (128 + 8 * b) 8) 58 48⟩) []
    chans := (List.range 8).foldl (fun (l : List (Nat × Chan)) c =>
      let a := 256 + 32 * c
      cellSet .blank l c ⟨m.read a 8 % 2 ^ 63, m.read (a + 8) 8 % 2 ^ 63, m.read (a + 24) 1 % 2 == 1, m.dword (a + 16)⟩) []
    resv := (List.range 16).foldl (fun (l : List (Nat × BitVec 128)) h => cellSet 0 l h (BitVec.ofNat 128 (m.read (512 + 16 * h) 16) &&& resvMask)) []
    tiles := []
    scratch := m.cut (scratchImage p.kernel) p.kernel.scratch
    opbuf := m.cut (opbufImage p.kernel) p.kernel.opbuf
    skeins := p.skeins.zipIdx.map fun (x : Skein × Nat) => x.1.load m (skeinAt p.kernel x.2) p.kernel.vregs cycle gen }

/-- A ring takes what a context holds: its head, its count and its entries (R433, R437). -/
def Ring.load (r : Ring) (m : Bytes) (base : Nat) : Ring :=
  let w := m.read (768 + 8 * r.pipe) 4
  let head := w % 2 ^ 16
  let size := 2 ^ r.esz
  { r with
    head := head, pushes := [], pops := []
    entries := (List.range (w / 2 ^ 16)).map fun i =>
      (List.range size).map fun j => m.word (base + 4 * size * ((head + i) % 2 ^ r.dep) + 4 * j) }

/-- The rings a panel is home to take what its context holds. -/
def State.loadRings (s : State) (p : Panel) (m : Bytes) : State :=
  let home := s.homeRings p
  { s with rings := s.rings.map fun r =>
      if home.contains r then r.load m (ringImage p.kernel + ringOffset home r.pipe) else r }

/-- The traversal threads that a context lists, restarted from their records (R436). -/
def State.loadThreads (s : State) (p : Panel) (m : Bytes) : State :=
  (List.range (m.read 28 4)).foldl (fun s i =>
    let e := m.read (threadList p.kernel p.ringBytes + 4 * i) 4
    let k := bits e 21 17
    let l := bits e 16 12
    let mode := ((p.skein? k).map fun q => (q.lane l).mode).getD .user
    s.startRay p k l mode (bits e 11 0) false) s

/-! ## CTXSAVE and CTXLOAD (R405) -/

/-- What the pages of an area give: all their physical addresses, or the first address that fails. -/
inductive Pages where
  | ok (pas : List Nat)
  | fault (va : Dword)
  | perm (va : Dword)
  | miss (va : Dword)
  | unbacked
deriving DecidableEq, Repr

/-- A page before the pages of some outcome; `bar` is its first address that the permission check turns away. -/
def Pages.cons (pa : Nat) (bar : Option Nat) : Pages → Pages
  | .ok ps =>
    match bar with
    | none => .ok (pa :: ps)
    | some a => .perm (BitVec.ofNat 64 a)
  | .perm v =>
    match bar with
    | none => .perm v
    | some a => .perm (BitVec.ofNat 64 a)
  | r => r

/-- The pages of an area, in ascending order: every page is translated, then every slot of the heap window is checked (R353, R405). -/
def State.pagesOf (s : State) (fr : Frame) (kind : AccessKind) (va : Nat) : Nat → Pages
  | 0 => .ok []
  | n + 1 =>
    let a := BitVec.ofNat 64 va
    if (s.func fr.p.fn).inHeap va then
      (s.pagesOf fr kind (va + 4096) n).cons (heapPhys va) (s.heapBar fr.p.fn kind va)
    else
      match s.look fr.p (some fr.kx) a kind fr.mode with
      | .phys pa _ => (s.pagesOf fr kind (va + 4096) n).cons pa none
      | .miss | .declined => .miss a
      | .unbacked => .unbacked
      | .tfault | .perm => .fault a

/-- The pages of memory that hold an area, as one store. -/
def gatherPages (m : Bytes) (pas : List Nat) : Bytes :=
  pas.zipIdx.flatMap fun (x : Nat × Nat) => (m.cut x.1 4096).map fun c => (4096 * x.2 + c.1, c.2)

/-- An area is written to its pages. -/
def scatterPages (m : Bytes) (area : Bytes) (pas : List Nat) : Bytes :=
  pas.zipIdx.foldl (fun (m : Bytes) (x : Nat × Nat) => m.paste x.1 4096 (area.cut (4096 * x.2) 4096)) m

/-- Some pages of memory take an area whose bytes at the offsets `marks` are marked (R479). -/
def State.setPages (s : State) (area : Bytes) (marks : List Nat) (pas : List Nat) : State :=
  pas.zipIdx.foldl (fun (s : State) (x : Nat × Nat) =>
    (marks.filter fun o => o / 4096 == x.2).foldl (fun s o => s.mark .memory (x.1 + o % 4096) true) (s.heal .memory x.1 4096))
    { s with mem := scatterPages s.mem area pas }

/-- The marked bytes of a panel's scratchpad and operand buffer, by their offsets in its context area. -/
def State.areaMarks (s : State) (p : Panel) : List Nat :=
  (s.badBytes (.scratch p.id) 0 p.kernel.scratch).map (scratchImage p.kernel + ·)
    ++ (s.badBytes (.opbuf p.id) 0 p.kernel.opbuf).map (opbufImage p.kernel + ·)

/-- The least of some numbers. -/
def leastOf (xs : List Nat) : Option Nat :=
  xs.foldl (fun m x => match m with
    | some y => some (min x y)
    | none => some x) none

/-- Markers of an area travel into the panel that takes it (R479). A marked byte of anything else that the area holds is consumed: the panel
stops (log entry 79: DEDUCED), naming the line of the first one, where the area has a virtual address `va` (R54). -/
def State.loadMarks (s : State) (p : Panel) (va : Option Nat) (pas : List Nat) : State :=
  if s.bad.isEmpty then s
  else
    let offs := pas.zipIdx.flatMap fun (x : Nat × Nat) => (s.badBytes .memory x.1 4096).map fun a => 4096 * x.2 + (a - x.1)
    let h := p.kernel
    let s1 := (s.unmark (.scratch p.id)).unmark (.opbuf p.id)
    let s2 := (offs.filter fun o => decide (scratchImage h ≤ o) && decide (o < scratchImage h + h.scratch)).foldl
      (fun (s : State) o => s.mark (.scratch p.id) (o - scratchImage h) true) s1
    let s3 := (offs.filter fun o => decide (opbufImage h ≤ o) && decide (o < opbufImage h + h.opbuf)).foldl
      (fun (s : State) o => s.mark (.opbuf p.id) (o - opbufImage h) true) s2
    match leastOf (offs.filter fun o => decide (o < scratchImage h) || decide (ringImage h ≤ o)) with
    | some o => s3.onPanel p.id fun q =>
        q.startHalt (s.cycle q.core) 0 .poison 0 ((va.map fun a => lineVa (BitVec.ofNat 64 (a + o))).getD (BitVec.allOnes 64))
    | none => s3

/-- Every copy of some pages in a core's L1 and its die's remote-data cache is gone. -/
def State.dropPages (s : State) (core : Nat) (pas : List Nat) : State :=
  s.dropCopies fun c => (c.place == core || c.place == diePlace (dieOf core)) && pas.any fun a => c.sector / 128 == a / 4096

/-- The panel's other skeins stop for the instruction, and it waits until everything has drained (R405 step 2): the events they hold are
abandoned as at a forced save (R428). -/
def State.quiesce (s : State) (fr : Frame) : State :=
  ({ s with walks := s.walks.filter fun w => !(w.panel == fr.p.id && w.skein.any fun k => k != fr.kx) }.abandonStarts [fr.p.id]).onPanel fr.p.id fun p =>
    { p with
      quiet := some fr.kx
      skeins := p.skeins.map fun (k : Skein) => if k.ix = fr.kx then k else { k with sel := none, reads := none, waitStart := none } }

/-- The other skeins issue again (R405 step 5). -/
def State.unquiet (s : State) (fr : Frame) : State := s.onPanel fr.p.id fun p => { p with quiet := none }

/-- CTXSAVE or CTXLOAD: alignment, the translation of every page, quiescence, then the effect. -/
def runContext (i : Instr) (z : Slot) (kind : AccessKind) (pages : Frame → State → Nat → Pages)
    (act : Frame → List Nat → State → Done) (s : State) : Out :=
  runSlot { slot := z, hi := slotHigh (encode i), form := { a := .scalarPair }, need := .hypervisor, once := true } s fun fr alive s =>
    if (fr.active z alive).isEmpty then .done s [] [] []
    else
      let a := fr.read z (fr.leader z) z.sa true false
      let wait (va : Dword) : Done := .wait (s.startWalk fr.p (some fr.kx) (laneBit (fr.leader z)) va kind fr.mode)
      let trap (c : Cause) (va : Dword) : Done := .done ((s.unquiet fr).endWalks fr.p.id (some fr.kx)) [] [] (fr.allTrap c va)
      if a.toNat % 4096 ≠ 0 then .done s [] [] (fr.allTrap .align a)
      else
        match pages fr s a.toNat with
        | .miss va => wait va
        | .unbacked => .stop .unbacked
        | .fault va => trap (faultCause kind) va
        | .perm va => trap .perm va
        | .ok pas =>
          if s.panelBusy fr.p || s.releaseWaits fr.p.core .device then .wait (s.quiesce fr)
          else act fr pas ((s.unquiet fr).endWalks fr.p.id (some fr.kx))

/-- CTXSAVE (R405). Everything the panel started is at its home, and so is what its core started: its release (R244). -/
def execCtxsave (z : Slot) (s : State) : Out :=
  runContext (.ctxsave z) z .write (fun fr s a => s.pagesOf fr .write a (s.areaOf fr.p / 4096))
    (fun fr pas s =>
      let m := s.contextOf fr.p { kind := 2, reason := 0xFF, issuer := some fr.kx }
      .done ((s.setPages m (s.areaMarks fr.p) pas).dropPages fr.p.core pas) [] [] []) s

/-- The bytes of an area that is to be loaded, from its first page: what its traversal count gives for this panel. -/
def loadArea (fr : Frame) (s : State) (first : List Nat) : Nat :=
  let t := (gatherPages s.mem first).read 28 4
  contextBytes fr.p.kernel fr.p.ringBytes (if t ≤ maxThreads fr.p.kernel then t else 0)

/-- The pages of an area that is to be loaded. -/
def loadPages (fr : Frame) (s : State) (a : Nat) : Pages :=
  match s.pagesOf fr .read a 1 with
  | .ok first => s.pagesOf fr .read a (loadArea fr s first / 4096)
  | r => r

/-- A context's header fits the panel: the same kernel, skein count and shape (R405 step 4). -/
def Panel.fits (p : Panel) (m : Bytes) : Bool :=
  m.read 0 4 == 0x58544350 && m.read 4 2 == 1 && p.shape.all (fun x => m.read x.1 x.2.1 == x.2.2) &&
    decide (m.read 28 4 ≤ maxThreads p.kernel)

/-- An issuing lane after a load in cycle `cycle`: it stays in its handler, and its TRET returns it into the loaded state. -/
def Lane.keepHyp (old new : Lane) (cycle : Nat) : Lane :=
  { new with
    mode := .hypervisor, exited := false, park := none, held := none, pc := old.pc, needTgt := old.needTgt, qHyp := old.qHyp
    lastChange := old.lastChange
    back := some ⟨new.mode, new.exited, new.parkLeft cycle, new.held⟩
    saveH := { old.saveH with epc := new.pc, status := BitVec.ofNat 32 (old.saveH.status.toNat / 4 * 4 + new.mode.code) } }

/-- The issuing skein after a load; `on` is its issue set. -/
def Skein.keepHyp (old new : Skein) (on : List Nat) (cycle : Nat) : Skein :=
  { new with
    lanes := (old.lanes.zip new.lanes).zipIdx.map fun (x : (Lane × Lane) × Nat) =>
      if on.contains x.2 then x.1.1.keepHyp x.1.2 cycle else x.1.2
    xHyp := old.xHyp }

/-- A panel after CTXLOAD by lanes `on` of skein `kx`. -/
def Panel.reload (p : Panel) (kx : Nat) (on : List Nat) (m : Bytes) (cycle time : Nat) : Panel :=
  let q := p.load m cycle
  ({ q with skeins := (p.skeins.zip q.skeins).map fun (x : Skein × Skein) =>
      let k : Skein := { x.2 with seq := x.1.seq, nextIssue := x.1.nextIssue }
      if x.1.ix = kx then { x.1.keepHyp k on cycle with sel := x.1.sel } else k } : Panel).setPreq time (m.read 64 4 % 2 == 1)

/-- CTXLOAD (R405): an acquire at device scope. -/
def execCtxload (z : Slot) (s : State) : Out :=
  runContext (.ctxload z) z .read loadPages
    (fun fr pas s =>
      let m := gatherPages s.mem pas
      if !fr.p.fits m then .done s [] [] (fr.allTrap .illopnd (saTval z))
      else
        let s1 := s.acquire fr.p.core fr.p.fn .device
        let s2 : State := { s1 with rays := s1.rays.filter fun t => t.panel != fr.p.id }
        let s3 := (s2.onPanel fr.p.id fun p => p.reload fr.kx fr.lanes m fr.cycle s.time).loadRings fr.p m
        match s3.panel? fr.p.id with
        | none => .done s3 [] [] []
        | some p => .done ((s3.loadThreads p m).loadMarks p (some (fr.read z (fr.leader z) z.sa true false).toNat) pas) [] [] []) s

end Sys2Proof.Machine
end

