-- ==== Sys2Proof/Machine/Control.lean ====
section
/-!
DEFINITION. Sys2Proof/Machine/Control.lean: opcodes 0x00 to 0x08 and 0x0D (spec/05_integer_and_control.md R88 to R98),
and which instructions may stand in a paired group (R48).
-/
namespace Sys2Proof.Machine

/-- The lanes that act: they passed the checks and their predicate is true. -/
def Frame.acting (fr : Frame) (s : Slot) (alive : List Nat) : List Nat := fr.active s alive

/-- NOP (R88). -/
def memberNop (z : Slot) : Member :=
  { slot := z, hi := slotHigh (encode (.nop z)), form := {}, plan := fun _ _ => {} }

/-- BRA (R92). -/
def memberBra (z : Slot) : Member :=
  { slot := z, hi := slotHigh (encode (.bra z)), form := {}
    plan := fun fr alive => { goes := (fr.acting z alive).map fun l => (l, branchTarget fr.pc z.lit) } }

/-- The 64-bit target a lane reads from SA (R89). -/
def Frame.target (fr : Frame) (z : Slot) (l : Nat) : Dword := fr.read z l z.sa true false

/-- BRX (R92). -/
def memberBrx (z : Slot) : Member :=
  { slot := z, hi := slotHigh (encode (.brx z)), form := { a := .jump }
    plan := fun fr alive => { goes := (fr.acting z alive).map fun l => (l, fr.target z l) } }

/-- The link writes of a call (R90, R92): the return PC into the DST pair. -/
def Frame.links (fr : Frame) (z : Slot) (on : List Nat) : List (Nat × List (Target × Word)) :=
  on.map fun l => (l, (fr.dstTargets l z.dst 2).zip [loWord fr.next, hiWord fr.next])

/-- CALL (R92). -/
def memberCall (z : Slot) : Member :=
  { slot := z, hi := slotHigh (encode (.call z)), form := { dst := .link }
    plan := fun fr alive =>
      { goes := (fr.acting z alive).map fun l => (l, branchTarget fr.pc z.lit), links := fr.links z (fr.acting z alive) } }

/-- CALLX (R92). -/
def memberCallx (z : Slot) : Member :=
  { slot := z, hi := slotHigh (encode (.callx z)), form := { dst := .link, a := .jump }
    plan := fun fr alive =>
      { goes := (fr.acting z alive).map fun l => (l, fr.target z l), links := fr.links z (fr.acting z alive) } }

/-- RET (R93): exactly BRX. -/
def memberRet (z : Slot) : Member :=
  { slot := z, hi := slotHigh (encode (.ret z)), form := { a := .jump }
    plan := fun fr alive => { goes := (fr.acting z alive).map fun l => (l, fr.target z l) } }

/-- EXIT (R94). -/
def memberExit (z : Slot) : Member :=
  { slot := z, hi := slotHigh (encode (.exit z)), form := {}
    plan := fun fr alive => { exits := fr.acting z alive } }

/-- PARK (R95). -/
def memberPark (z : Slot) : Member :=
  { slot := z, hi := slotHigh (encode (.park z)), form := {}
    plan := fun fr alive => { parks := (fr.acting z alive).map fun l => (l, parkOf fr.cycle z.lit.toNat) } }

/-- skein.fpmode after SETFP (R98). -/
def setfpValue (m : FpSet) (old : Word) : Word :=
  let ftz := if m.wftz then m.ftz else ftzOf old
  let rm := if m.wrm then m.rm.val else old.toNat % 4
  BitVec.ofNat 32 (rm + if ftz then 4 else 0)

/-- SETFP (R97): written when some lane of the issue set is active. -/
def memberSetfp (z : Slot) (m : FpSet) : Member :=
  { slot := z, hi := slotHigh (encode (.setfp z m)), form := {}
    plan := fun fr alive =>
      let on := fr.acting z alive
      { fpmode := if on.isEmpty then none else some (setfpValue m fr.k.fpmode), fpLanes := on } }

/-- NOP. -/
def execNop (z : Slot) (s : State) : Out := runMembers [memberNop z] s
/-- BRA. -/
def execBra (z : Slot) (s : State) : Out := runMembers [memberBra z] s
/-- BRX. -/
def execBrx (z : Slot) (s : State) : Out := runMembers [memberBrx z] s
/-- CALL. -/
def execCall (z : Slot) (s : State) : Out := runMembers [memberCall z] s
/-- CALLX. -/
def execCallx (z : Slot) (s : State) : Out := runMembers [memberCallx z] s
/-- RET. -/
def execRet (z : Slot) (s : State) : Out := runMembers [memberRet z] s
/-- EXIT. -/
def execExit (z : Slot) (s : State) : Out := runMembers [memberExit z] s
/-- PARK. -/
def execPark (z : Slot) (s : State) : Out := runMembers [memberPark z] s
/-- SETFP. -/
def execSetfp (z : Slot) (m : FpSet) (s : State) : Out := runMembers [memberSetfp z m] s

/-- YIELD (R96): with panel.preq set, the active lanes enter the yield state. -/
def execYield (z : Slot) (s : State) : Out :=
  runSlot { slot := z, hi := slotHigh (encode (.yield z)), form := {} } s fun fr alive s =>
    if fr.p.preq then
      .done (s.onPanel fr.p.id fun p => p.onSkein fr.kx fun k =>
        k.onLanes (fr.active z alive) fun _ a => { a with yielding := true }) [] [] []
    else .done s [] [] []

end Sys2Proof.Machine
end

