-- ==== Sys2Proof/Machine/Saves.lean ====
section
/-!
DEFINITION. Sys2Proof/Machine/Saves.lean: cooperative and forced saves, resume, slices, partition changes and core removal
(spec/25_tenants_and_preemption.md R421, R425 to R431, R436 to R438).
-/
namespace Sys2Proof.Machine

/-! ## Starting a save (R427, R428) -/

/-- A save of a panel begins: held events are abandoned; one already under way, or a halt, ignores it (R428). -/
def Panel.beginSave (p : Panel) (kind reason : Nat) : Panel :=
  if p.saving.isSome || p.halt.isSome then p
  else { p with saving := some ⟨kind, reason⟩, timer := none, skeins := p.skeins.map fun k => { k with sel := none, reads := none, waitStart := none } }

/-- A save of a panel, or of its whole gang, begins (R428, R437). -/
def State.startSave (s : State) (p : Panel) (kind reason : Nat) : State :=
  let ids := (s.gangOf p).map fun q => q.id
  let s1 := s.abandonStarts ids
  { s1 with
    panels := s1.panels.map fun q => if ids.contains q.id then q.beginSave kind reason else q
    walks := s.walks.filter fun w => !(ids.contains w.panel && w.skein.isSome) }

/-- R96's condition for one lane. -/
def Lane.yielded (a : Lane) : Bool :=
  a.exited || a.yielding ||
    match a.held with
    | some (.bar _ _) | some (.mbw _ _ _ _ _) | some (.cpwait _ _ _ _) | some (.scwait _ _ _ _) | some (.twait _ _ _ _) => true
    | _ => false

/-- R96's condition for a panel. -/
def Panel.yielded (p : Panel) : Bool := p.skeins.all fun k => k.lanes.all Lane.yielded

/-- The panel is neither being saved nor halting. -/
def Panel.active (p : Panel) : Bool := p.saving.isNone && p.halt.isNone

/-- The panel may be saved cooperatively now (R427). -/
def State.mayYield (s : State) (p : Panel) : Bool := p.timer.isSome && p.active && (s.gangOf p).all Panel.yielded

/-- COOPERATIVE_SAVE (R96, R427). -/
def execCooperativeSave (p : Nat) (s : State) : Out :=
  match s.panel? p with
  | some q => .next (if s.mayYield q then s.startSave q 0 0xFF else s)
  | none => .next s

/-- The panel's deadline timer has expired (R427, R477). -/
def State.expired (s : State) (p : Panel) : Bool := p.active && !s.mayYield p && p.timer.any fun t => decide (t ≤ s.time)

/-- DEADLINE_EXPIRE (R427): a forced save with reason deadline, traced as event 8 (R441). -/
def execDeadlineExpire (p : Nat) (s : State) : Out :=
  match s.panel? p with
  | some q => .next (if s.expired q then (s.startSave q 1 1).hwTrace q.fn q.core 8 0 q.node else s)
  | none => .next s

/-- Panels whose save begins for one reason. -/
def State.saveAll (s : State) (ps : List Panel) (reason : Nat) : State := ps.foldl (fun s p => s.startSave p 1 reason) s

/-! ## Slices and partitions (R421, R438) -/

/-- The rotation of a cluster. -/
def State.rotation? (s : State) (c : Nat) : Option Rotation := (s.clusters.find? fun x => x.1 == c).map fun x => x.2

/-- A cluster's rotation takes a value; one that lists no function is gone. -/
def State.setRotation (s : State) (c : Nat) (r : Rotation) : State :=
  { s with clusters := if r.table.isEmpty then s.clusters.filter fun x => x.1 != c
      else s.clusters.map fun x => if x.1 = c then (c, r) else x }

/-- The function a cluster's slice belongs to. -/
def Rotation.fn? (r : Rotation) : Option Nat := (r.table[r.current]?).map fun x => x.1

/-- The panels of a function on a cluster. -/
def State.onCluster (s : State) (c fn : Nat) : List Panel := s.panels.filter fun p => p.fn == fn && clusterOf p.core == c

/-- The bit of a cluster in CLUSTERS. -/
def inPartition (clusters : Word) (c : Nat) : Bool := clusters.getLsbD c

/-- The table without the functions that a test drops; the current one keeps its place. -/
def Rotation.drop (r : Rotation) (f : Nat → Bool) : Rotation :=
  { r with
    table := r.table.filter fun x => !f x.1
    current := ((r.table.take r.current).filter fun x => !f x.1).length % max 1 (r.table.filter fun x => !f x.1).length }

/-- A function that is leaving a cluster: its partition is changing to one without it. -/
def State.leaving (s : State) (c fn : Nat) : Bool := (s.func fn).change.any fun w => !inPartition w c

/-- A cluster whose outgoing function has no panel left there goes on to the next of its table (R421); a function that leaves the
cluster leaves the table (R438). -/
def State.settleRotation (s : State) (c : Nat) : State :=
  match s.rotation? c with
  | none => s
  | some r =>
    match r.fn? with
    | none => s
    | some fn =>
      if r.ending && (s.onCluster c fn).isEmpty then
        let r1 : Rotation := { r with current := (r.current + 1) % r.table.length, since := s.time, ending := false }
        let r2 := if s.leaving c fn then r1.drop fun x => x == fn else r1
        let s1 := s.setRotation c r2
        match r2.fn? with
        | some next => s1.hwTrace next (24 * c) 6 0 0
        | none => s1
      else s

/-- A partition change is complete when the last save on the clusters it removes is (R438). -/
def State.settlePartition (s : State) (fn : Nat) : State :=
  match (s.func fn).change with
  | none => s
  | some w =>
    if (List.range 32).any fun c => inPartition (s.func fn).clusters c && !inPartition w c && !(s.onCluster c fn).isEmpty then s
    else s.onFunc fn fun f => { f with clusters := w, change := none }

/-- Rotations and partition changes go on as far as they can. -/
def State.settleClusters (s : State) : State :=
  let s1 := if s.clusters.any fun x => x.2.ending then (s.clusters.map fun x => x.1).foldl State.settleRotation s else s
  if s1.fns.any fun f => f.change.isSome then (List.range s1.fns.length).foldl State.settlePartition s1 else s1

/-- SLICE_END (R421): the outgoing function's panels on the cluster are saved by force. -/
def execSliceEnd (c : Nat) (s : State) : Out :=
  match s.rotation? c with
  | none => .next s
  | some r =>
    match r.table[r.current]? with
    | none => .next s
    | some (fn, us) =>
      if r.table.length < 2 ∨ r.ending ∨ s.time < r.since + tick us then .next s
      else .next ((s.setRotation c { r with ending := true }).saveAll (s.onCluster c fn) 0).settleClusters

/-- A function joins a cluster's rotation with a slice. -/
def State.joinCluster (s : State) (c fn us : Nat) : State :=
  match s.rotation? c with
  | none => { s with clusters := s.clusters ++ [(c, ⟨[(fn, us)], 0, s.time, false⟩)] }
  | some r => s.setRotation c { r with table := r.table ++ [(fn, us)], since := if r.table.length = 1 then s.time else r.since }

/-- A function leaves a cluster's rotation: at once when its slice is not current, else when its panels there are saved. -/
def State.leaveCluster (s : State) (c fn : Nat) : State :=
  match s.rotation? c with
  | none => s
  | some r =>
    if r.fn? = some fn then (s.setRotation c { r with ending := true }).saveAll (s.onCluster c fn) 2
    else s.setRotation c (r.drop fun x => x == fn)

/-- The slice length a list gives a cluster; 1 µs where it names none. -/
def sliceOf (slices : List (Nat × Nat)) (c : Nat) : Nat := ((slices.find? fun x => x.1 == c).map fun x => x.2).getD 1

/-- Firmware keeps to R421: at most eight functions a cluster, slices of 1 to 65,535 µs. -/
def State.slicesOk (s : State) (added : List Nat) (slices : List (Nat × Nat)) : Bool :=
  added.all fun c => decide (((s.rotation? c).map fun r => r.table.length).getD 0 < 8) && decide (1 ≤ sliceOf slices c)
    && decide (sliceOf slices c ≤ 65535)

/-- PARTITION_CHANGE (R438). One change of a function is under way at a time. -/
def execPartitionChange (fn : Nat) (clusters : Word) (slices : List (Nat × Nat)) (s : State) : Out :=
  let f := s.func fn
  let added := (List.range 32).filter fun c => inPartition clusters c && !inPartition f.clusters c
  let removed := (List.range 32).filter fun c => inPartition f.clusters c && !inPartition clusters c
  if f.st ≠ .active ∨ f.change.isSome ∨ !s.slicesOk added slices then .next s
  else
    let s1 := s.onFunc fn fun f => { f with change := some clusters }
    let s2 := added.foldl (fun s c => s.joinCluster c fn (sliceOf slices c)) s1
    .next (removed.foldl (fun s c => s.leaveCluster c fn) s2).settleClusters

/-- CORE_REMOVAL (R438): the core leaves service, and its panels are saved with their gangs. -/
def execCoreRemoval (core : Nat) (s : State) : Out :=
  if 768 ≤ core then .next s
  else .next ((s.setCoreNote core { s.coreNote core with out := true }).saveAll (s.onCore core) 3)

/-! ## The save completes (R429, R431, R436) -/

/-- What the context does not record of a panel's lanes. -/
def Panel.lanesExtra (p : Panel) : List LaneExtra :=
  p.skeins.flatMap fun k => (k.lanes.map Lane.rewound).zipIdx.filterMap fun (x : Lane × Nat) =>
    if x.1.needTgt || x.1.stepDue.isSome || x.1.back.isSome then some ⟨k.ix, x.2, x.1.needTgt, x.1.stepDue, x.1.back⟩ else none

/-- The saved form of a panel at an address. -/
def State.savedForm (s : State) (p : Panel) (readyAt : Nat) : SavedPanel where
  id := p.id
  handle := p.handle
  node := p.node
  ix := p.ix
  argAddr := p.argAddr
  kernel := p.kernel
  image := p.image
  level := p.level
  slot := p.slot
  addr := (s.func p.fn).saveBase + p.slot
  bytes := s.areaOf p
  gang := p.gang
  ringBytes := p.ringBytes
  grain := (p.range.map fun r => r.grain).getD 1
  readyAt := readyAt
  cands := p.cands
  held := []
  extra := p.lanesExtra
  dbgreq := p.dbgreq
  dbgstat := p.dbgstat
  dbgdata := p.dbgdata
  dbg := p.dbg
  threads := s.rays.filter fun t => t.panel == p.id

/-- The pages of a saved panel's context. -/
def SavedPanel.pages (q : SavedPanel) : List Nat := (List.range (q.bytes / 4096)).map fun i => q.addr + 4096 * i

/-- When a node instance became ready: its launch's record, or for a trigger node the time its sub-queue filled (R182). -/
def State.nodeReadyAt (s : State) (fn handle node : Nat) : Nat :=
  match (s.func fn).launch? (node / 2 ^ 16) with
  | some l => (l.run (node % 2 ^ 16)).readyAt
  | none =>
    match s.nodeOf fn handle node with
    | some n => cellGet 0 s.swSince (subqueueIx n.domain n.subq)
    | none => s.time

/-- One panel's context is written into the save region, and the panel becomes a saved one (R425, R429, R436). -/
def State.storeContext (s : State) (p : Panel) : State :=
  let q : Panel := { p with preq := false, timer := none }
  let kind := (p.saving.map fun w => w.kind).getD 1
  let reason := (p.saving.map fun w => w.reason).getD 0xFF
  let m := s.contextOf q { kind := kind, reason := reason }
  let form := s.savedForm q (s.nodeReadyAt p.fn p.handle p.node)
  (s.setPages m (s.areaMarks p) form.pages).onFunc p.fn fun f => { f with saved := f.saved ++ [form] }

/-- The number by which a panel resumes: its gang's, or its own (R436, R437). -/
def Panel.group (p : Panel) : Nat := (p.gang.map fun (g : Gang) => g.id).getD p.id

/-- A saved panel or gang has its place in the pool: its node's entry, or one of its own once the node has completed its dispatch (R436). -/
def State.ensureEntry (s : State) (p : Panel) : State :=
  if s.pool.any fun e => e.fn == p.fn && e.handle == p.handle && e.node == p.node && (e.own.isNone || e.own == some p.group) then s
  else
    match s.nodeOf p.fn p.handle p.node with
    | some n => s.addEntry p.fn p.handle p.node 0 (s.nodeReadyAt p.fn p.handle p.node) n (some p.group)
    | none => s

/-- Every panel of the gang is being saved, none is halting, all have drained (R429), and what their cores started is at its home: the
save releases (R244, R253). -/
def State.saveReady (s : State) (p : Panel) : Bool :=
  (s.gangOf p).all fun q => q.saving.isSome && q.halt.isNone && !s.panelBusy q && !s.releaseWaits q.core .device

/-- CONTEXT_SAVE_DONE (R425, R429, R431, R436, R437): the panel, or its gang, is saved. -/
def execContextSaveDone (p : Nat) (s : State) : Out :=
  match s.panel? p with
  | none => .next s
  | some q =>
    if !s.saveReady q then .next s
    else
      let all := s.gangOf q
      let s1 := all.foldl State.storeContext s
      let s2 := all.foldl (fun s x => ((s.dropPanel x).ensureEntry x).hwTrace x.fn x.core 3 0 x.node) s1
      .next s2.settleClusters

/-! ## Resume (R436, R437) -/

/-- A panel as it resumes at a place. -/
def State.resumed (s : State) (fn : Nat) (q : SavedPanel) (n : Node) (pl : Placement) : Panel :=
  let cycle := s.cycle pl.core
  let range := if n.kind = 1 then some ⟨0, 0, q.grain⟩ else none
  let p0 := Panel.start q.id fn q.handle q.node q.ix q.argAddr q.kernel q.image q.level q.ringBytes cycle q.gang range pl
  let p1 := p0.load (s.mem.cut q.addr q.bytes) cycle
  let p2 : Panel := { p1 with cands := q.cands, dbgreq := q.dbgreq, dbgstat := q.dbgstat, dbgdata := q.dbgdata, dbg := q.dbg }
  q.extra.foldl (fun p (x : LaneExtra) => p.onSkein x.skein fun k => k.onLane x.lane fun a =>
    { a with needTgt := x.needTgt, stepDue := x.stepDue, back := x.back }) p2

/-- What the engines held for a panel is applied (R429, R436). -/
def State.applyHeld (s : State) (panel : Nat) (hs : List HeldArrival) : State :=
  hs.foldl (fun s h =>
    match h with
    | .arrive off faulted va => s.arriveAt panel off 1 faulted va
    | .status off code => (s.onPanel panel fun p => { p with scratch := p.scratch.write off 4 code }).heal (.scratch panel) off 4) s

/-- The traversal threads of a resumed panel go on from their records (R436); none keeps a box entry over the save (R488). -/
def State.resumeThreads (s : State) (p : Panel) (m : Bytes) (old : List Ray) : State :=
  let s1 := s.loadThreads p m
  { s1 with rays := s1.rays.map fun t =>
      if t.panel = p.id then (match old.find? fun o => o.record == t.record with
        | some o => { t with mode := o.mode, skip := o.skip }
        | none => t)
      else t }

/-- Every placement of a resume of entry `own` is legal (R184, R185, R425, R437). -/
def State.resumeOk (s : State) (own fn : Nat) (qs : List SavedPanel) (places : List Placement) : Bool :=
  places.length == qs.length && distinct (places.map fun pl => pl.core)
    && places.all (fun pl => clusterOf pl.core == clusterOf ((places.headD ⟨0, [], [], 0, 0, 0, 0⟩).core) && !(s.coreNote pl.core).out)
    && (qs.zip places).all (fun (x : SavedPanel × Placement) =>
      s.admits (some own) x.2.core x.1.kernel && s.placeOk fn x.1.kernel x.1.ringBytes x.2)
    && (qs.zip places).all fun (x : SavedPanel × Placement) => (qs.zip places).all fun (y : SavedPanel × Placement) =>
      x.1.id == y.1.id || !overlap x.2.slot (reserveBytes x.1.kernel x.1.ringBytes) y.2.slot (reserveBytes y.1.kernel y.1.ringBytes)

/-- Saved panels resume at their places: contexts, rings, held arrivals, then threads (R436). -/
def State.resumeAll (s : State) (fn : Nat) (n : Node) (qs : List SavedPanel) (places : List Placement) : State :=
  let gid := ((qs.head?).bind fun q => q.gang).map fun g => g.id
  let s1 := (qs.zip places).foldl (fun s (x : SavedPanel × Placement) => s.addPanel (s.resumed fn x.1 n x.2) 4) s
  let s2 : State := match gid with
    | none => s1
    | some g => { s1 with rings := s1.rings.filter (fun r => r.gang != g) ++
        n.pipes.zipIdx.map fun (x : PipeDesc × Nat) => ⟨g, x.2, x.1.home, x.1.esz, x.1.dep, 0, [], [], []⟩ }
  qs.foldl (fun s q =>
    match s.panel? q.id with
    | none => s
    | some p =>
      let m := s.mem.cut q.addr q.bytes
      (((s.loadRings p m).loadMarks p none q.pages).applyHeld q.id q.held).resumeThreads p m q.threads) s2

/-- PANEL_RESUME (R436, R437): the entry that the pick for the core chooses resumes its first saved panel or gang. -/
def execPanelResume (n : Nat) (places : List Placement) (s : State) : Out :=
  match places with
  | [] => .next s
  | pl :: _ =>
    match s.pick pl.core with
    | none => .next s
    | some (e, passed) =>
      let qs := s.resumeGroup e
      let s0 := s.withoutSaved e.fn qs
      match s.nodeOf e.fn e.handle e.node with
      | none => .next s
      | some node =>
        if e.id = n ∧ !qs.isEmpty ∧ s0.resumeOk e.id e.fn qs places then
          let s1 := ((s.picked e passed pl.core).headPlaced e.id (places.map fun x => x.core)).withoutSaved e.fn qs
          .next ((s1.resumeAll e.fn node qs places).trimEntry e)
        else .next s

end Sys2Proof.Machine
end

