-- ==== Sys2Proof/Machine/MemInstr.lean ====
section
/-!
DEFINITION. Sys2Proof/Machine/MemInstr.lean: LD, ST, ATOM, RED, CAS, FENCE, CINV, CWB, PREF, OBRES, OBLD, OBST and the memory
barrier instructions (spec/11_memory_instructions.md R211 to R235).
-/
namespace Sys2Proof.Machine

/-- DST is a register of the skein: the instruction acts once (R216). -/
def actsOnce (z : Slot) : Bool := dstOfSkein z.dst

/-- A loaded datum as the register words it writes: 8 and 16 bits extended to 32 (R214). -/
def loadedWords (m : Mem) (x : Nat) : List Word :=
  let n := 8 * sizeBytes m.size
  if m.msub.val % 2 = 1 ∧ n < 32 then [BitVec.ofNat 32 (wrap (sext x n) 32)] else wordsOf x (sizeWords m.size)

/-- The values of a load: every lane reads one state of memory and of the caches (R218). -/
def loadLanes (fr : Frame) (m : Mem) (gos : List (Nat × Reach)) (s : State) : List (Target × Word) :=
  gos.flatMap fun x => (fr.dstTargets x.1 m.slot.dst (sizeWords m.size)).zip
    (loadedWords m (s.readReach fr (m.cpol == .bypass) (sizeBytes m.size) x.2))

/-- The targets of a load whose data is poisoned (R219). -/
def loadBads (fr : Frame) (m : Mem) (gos : List (Nat × Reach)) (s : State) : List BadTarget :=
  if s.bad.isEmpty then []
  else gos.flatMap fun x =>
    badTargets x.1 (fr.dstTargets x.1 m.slot.dst (sizeWords m.size)) (s.readPoison fr (m.cpol == .bypass) (sizeBytes m.size) x.2)

/-- The dies whose memory a load reads: it goes to the home of a sector that neither its core nor its die holds (R202, R203). -/
def loadHomes (fr : Frame) (m : Mem) (gos : List (Nat × Reach)) (s : State) : List Nat :=
  gos.filterMap fun x =>
    match x.2 with
    | .phys _ pa _ =>
      if m.cpol == .bypass || (s.loadSource fr.p.core fr.p.fn pa).1 == .memory then some (homeDie pa) else none
    | _ => none

/-- What a load reads from: an acquire has invalidated before the read (R203, R204), and what the lanes' reads wait for is done. (log entry 22:
DEDUCED) -/
def loadFrom (m : Mem) (fr : Frame) (gos : List (Nat × Reach)) (s : State) : State :=
  gos.foldl (fun s x => s.readyReach fr (m.cpol == .bypass) (sizeBytes m.size) x.2)
    (if ordAcq m.ord && !gos.isEmpty then s.acquire fr.p.core fr.p.fn m.scope else s)

/-- The effect of a load (R218, R220). (log entry 22: DEDUCED) -/
def loadAct (m : Mem) (fr : Frame) (gos : List (Nat × Reach)) (s : State) : State :=
  let s1 := loadFrom m fr gos s
  let vals := loadLanes fr m gos s1
  (gos.foldl (fun s x => s.afterReach fr (m.cpol == .bypass) (sizeBytes m.size) x.2) s1).addWrite fr
    { VarWrite.blank with targets := vals.map (fun w => w.1), vals := vals, bad := loadBads fr m gos s1, homes := loadHomes fr m gos s1 }

/-- The form of LD and OBLD. -/
def formLoad (m : Mem) (from_ : SrcKind) : Form := { dst := .load (sizeWords m.size) false, a := from_ }

/-- LD (R220). -/
def execLd (m : Mem) (s : State) : Out :=
  runMem (.ld m) m (formLoad m (baseKind m.space)) (actsOnce m.slot) .read
    (fun fr s l => s.reach fr m.space m.scope .read (fr.addr m 32 l) (sizeBytes m.size))
    (fun _ _ => false) (loadAct m) s

/-- OBLD (R229). -/
def execObld (m : Mem) (s : State) : Out :=
  runMem (.obld m) m (formLoad m .noLit) (actsOnce m.slot) .read
    (fun fr _ l => fr.reachOpbuf (obHandle m) (fr.obOffset m l) (sizeBytes m.size))
    (fun _ _ => false) (loadAct m) s

/-- The value a lane stores: its datum's low bits (R214). -/
def Frame.storeValue (fr : Frame) (m : Mem) (x : Src) (l : Nat) : Nat :=
  (fr.readWords m.slot l x (sizeWords m.size)).foldr (fun w n => w.toNat + 2 ^ 32 * n) 0 % 2 ^ (8 * sizeBytes m.size)

/-- The effect of a store (R218, R220): ascending lanes, the highest remains. -/
def storeAct (m : Mem) (fr : Frame) (gos : List (Nat × Reach)) (s : State) : State :=
  gos.foldl (fun s x => s.writeReach fr (m.cpol == .bypass) (sizeBytes m.size) (fr.storeValue m m.slot.sb x.1) x.2) s

/-- A release of the instruction still waits (R220, R223, R244). (log entry 63: DEDUCED) -/
def relWaits (m : Mem) (fr : Frame) (s : State) : Bool := ordRel m.ord && fr.releaseWaits s m.scope

/-- ST (R220). -/
def execSt (m : Mem) (s : State) : Out :=
  runMem (.st m) m { a := baseKind m.space, b := datumKind m.size } false .write
    (fun fr s l => s.reach fr m.space m.scope .write (fr.addr m 32 l) (sizeBytes m.size))
    (relWaits m) (storeAct m) s

/-- OBST (R229). -/
def execObst (m : Mem) (s : State) : Out :=
  runMem (.obst m) m { a := .noLit, b := datumKind m.size } false .write
    (fun fr _ l => fr.reachOpbuf (obHandle m) (fr.obOffset m l) (sizeBytes m.size))
    (relWaits m) (storeAct m) s

/-! ## Atomics (R221, R222) -/

/-- One lane's atomic operation is issued. In global memory it goes to the home L2; in a scratchpad, and where the instruction acquires, it
becomes a step that the core makes in its turn (R218, R376). Its targets wait for the old value. -/
def atomLane (fr : Frame) (m : Mem) (op : Rmw) (b c l : Nat) (ts : List Target) (acq : Option Scope) (r : Reach) (acc : VarWrite × State) :
    VarWrite × State :=
  let n := sizeBytes m.size
  let (id, s1) := acc.2.fresh
  let ret : Option Return := if ts.isEmpty then none else some ⟨fr.p.id, fr.kx, fr.k.seq, l, ts⟩
  let w : VarWrite := if ts.isEmpty then acc.1 else { acc.1 with targets := acc.1.targets ++ ts, awaits := acc.1.awaits ++ [id] }
  let step (place : AtomPlace) : State :=
    { s1 with atoms := s1.atoms ++ [⟨id, fr.p.id, fr.kx, fr.p.core, fr.p.fn, place, op, n, b, c, ret, acq⟩] }
  match r with
  | .scratch q off => (w, step (.scratch q off))
  | .phys va pa mark =>
    if ordAcq m.ord then (w, step (.phys va mark.page pa))
    else (w, s1.issueAccess ⟨id, fr.p.id, fr.kx, fr.p.core, fr.p.fn, va, mark.page, pa, .rmw op n b c ret⟩)
  | _ => acc

/-- The effect of ATOM, RED and CAS: lane by lane; an acquire follows the last lane's step. -/
def atomAct (m : Mem) (op : Rmw) (fr : Frame) (gos : List (Nat × Reach)) (s : State) : State :=
  let last (l : Nat) : Bool := (gos.getLast?).any fun x => x.1 == l
  let r := gos.foldl (fun acc x =>
    atomLane fr m op (fr.storeValue m m.slot.sb x.1) (fr.storeValue m m.slot.sc x.1) x.1
      (fr.dstTargets x.1 m.slot.dst (sizeWords m.size)) (if ordAcq m.ord && last x.1 then some m.scope else none) x.2 acc)
    (VarWrite.blank, s)
  r.2.addWrite fr r.1

/-- A lane makes its atomic step: one read and one write with nothing between them (R218, R221, R222, R250). The old value goes to the write
that waits for it, and the acquire follows the last step (R203, R204). -/
def State.atomStep (s : State) (a : AtomStep) : State :=
  let s0 : State := { s with atoms := s.atoms.filter fun x => x.id != a.id }
  let s1 := match a.place with
    | .scratch q off =>
      let r := s0.readScratch q off a.size
      let s2 := r.2.onPanel q fun p => { p with scratch := p.scratch.write off a.size (rmwNew a.op a.size r.1 a.b a.c) }
      let s3 := if a.op.fresh then s2.heal (.scratch q) off a.size else s2
      match a.ret with
      | none => s3
      | some w => s3.deliver a.id w r.1 (if s0.poisoned (.scratch q) off a.size then some (BitVec.allOnes 64) else none) []
    | .phys va page pa =>
      (s0.settleRange a.core pa a.size).performed
        ⟨a.id, a.panel, a.skein, a.core, a.fn, va, page, pa, .rmw a.op a.size a.b a.c a.ret⟩
  match a.acq with
  | some sc => s1.acquire a.core a.fn sc
  | none => s1

/-- The steps that lanes may make next: the first of each event. -/
def State.nextSteps (s : State) : List AtomStep :=
  s.atoms.zipIdx.filterMap fun (x : AtomStep × Nat) =>
    if (s.atoms.take x.2).any fun b => b.panel == x.1.panel && b.skein == x.1.skein then none else some x.1

/-- ATOM, RED and CAS. -/
def runAtom (i : Instr) (m : Mem) (op : Rmw) (w : Nat) (form : Form) (s : State) : Out :=
  runMem i m form (actsOnce m.slot) .write
    (fun fr s l => s.reach fr m.space m.scope .write (fr.addr m w l) (sizeBytes m.size))
    (relWaits m) (atomAct m op) s

/-- The operation of ATOM and RED: MSUB, and the kind in LIT[31:30] (R221). -/
def atomOp (m : Mem) : Rmw := .atom m.msub.val (bits m.slot.lit.toNat 31 30)

/-- ATOM (R221). -/
def execAtom (m : Mem) (s : State) : Out :=
  runAtom (.atom m) m (atomOp m) 30
    { dst := .load (sizeWords m.size) true, a := baseKind m.space, b := datumKind m.size } s

/-- RED (R221). -/
def execRed (m : Mem) (s : State) : Out :=
  runAtom (.red m) m (atomOp m) 30 { a := baseKind m.space, b := datumKind m.size } s

/-- CAS (R222). -/
def execCas (m : Mem) (s : State) : Out :=
  runAtom (.cas m) m .cas 30
    { dst := .load (sizeWords m.size) true, a := baseKind m.space, b := datumKind m.size, c := datumKind m.size } s

/-! ## Fences and cache maintenance -/

/-- An acquire FENCE joins what the skein's atomics before it have read: each has been performed (R242). -/
def fenceWaits (m : Mem) (fr : Frame) (s : State) : Bool := ordAcq m.ord && s.rmwFlying fr.p.id fr.kx

/-- FENCE (R223). -/
def execFence (m : Mem) (s : State) : Out :=
  runSlot { slot := m.slot, hi := slotHigh (encode (.fence m)), form := {} } s fun fr alive s =>
    let on := fr.active m.slot alive
    if on.isEmpty then .done s [] [] []
    else if (s.func fr.p.fn).scopeDenied m.scope then
      .done s [] [] (on.map fun l => fr.trapAt l .scopepol (BitVec.ofNat 64 (scopeCode m.scope)))
    else if relWaits m fr s || fenceWaits m fr s then .wait s
    else .done (if ordAcq m.ord then s.acquire fr.p.core fr.p.fn m.scope else s) [] [] []

/-- The physical address of a hint's address, when it translates without a fault (R224, R226). -/
def State.tryPhys (s : State) (fr : Frame) (space : Space) (a : Nat) : Option (Nat × PageMark) :=
  let got : Look → Option (Nat × PageMark)
    | .phys pa mark => some (pa, mark)
    | _ => none
  let go (va : Dword) : Option (Nat × PageMark) :=
    match s.look fr.p (some fr.kx) va .read fr.mode with
    | .miss => got ((s.walkNow fr.p.fn (dieOf fr.p.core) true va .read fr.mode).2.look va.toNat)
    | l => got l
  if space = .global then go (BitVec.ofNat 64 a)
  else if fr.mode = .hypervisor then none
  else (go ((fr.p.constants fr.mode).1 + BitVec.ofNat 64 a)).map fun x => (x.1, { x.2 with const := true })

/-- A 128-byte line leaves the core's L1 and its die's remote-data cache. -/
def State.dropLine (s : State) (core pa : Nat) : State :=
  s.dropCopies fun c => (c.place == core || c.place == diePlace (dieOf core)) && c.sector / 4 == pa / 128

/-- CINV, line form (R224). -/
def execCinvLine (m : Mem) (s : State) : Out :=
  runSlot { slot := m.slot, hi := slotHigh (encode (.cinvLine m)), form := { a := baseKind m.space } } s fun fr alive s =>
    .done ((fr.active m.slot alive).foldl (fun s l =>
      match s.tryPhys fr m.space (fr.addr m 32 l) with
      | some x => s.dropLine fr.p.core x.1
      | none => s) s) [] [] []

/-- CINV, all form (R224). -/
def execCinvAll (m : Mem) (s : State) : Out :=
  runSlot { slot := m.slot, hi := slotHigh (encode (.cinvAll m)), form := {} } s fun fr alive s =>
    if (fr.active m.slot alive).isEmpty then .done s [] [] []
    else .done (s.dropCopies fun c => c.place == fr.p.core || (c.place == diePlace (dieOf fr.p.core) && c.fn == fr.p.fn))
      [] [] []

/-- CWB (R225): one write-back on its way for each active lane. -/
def execCwb (m : Mem) (s : State) : Out :=
  runMem (.cwb m) m { a := .base } false .write
    (fun fr s l => s.reach fr .global .skein .write (fr.addr m 32 l) 1) (fun _ _ => false)
    (fun fr gos s => gos.foldl (fun s x =>
      match x.2 with
      | .phys va pa mark =>
        let (id, s1) := s.fresh
        { s1 with writeBacks := s1.writeBacks ++ [⟨id, fr.p.id, fr.kx, fr.p.core, fr.p.fn, va, mark.page, pa / 128⟩] }
      | _ => s) s) s

/-- The sectors of the line that holds an address are filled into L1, or only below it (R226). -/
def State.prefetch (s : State) (fr : Frame) (l1 : Bool) (pa : Nat) (mark : PageMark) : State :=
  (List.range 4).foldl (fun s i =>
    let a := pa / 128 * 128 + 32 * i
    if l1 then (s.loadPhys fr.p.core fr.p.fn a 32 false mark).2
    else if homeDie a != dieOf fr.p.core && (s.dieCopy? (dieOf fr.p.core) fr.p.fn (sectorOf a)).isNone then
      (s.fillCopy ⟨diePlace (dieOf fr.p.core), sectorOf a, memSector s.mem (sectorOf a), fr.p.fn, { mark with const := false }⟩).carry
        .memory a (.copy (diePlace (dieOf fr.p.core))) a 32
    else s) s

/-- PREF (R226). -/
def execPref (m : Mem) (s : State) : Out :=
  runSlot { slot := m.slot, hi := slotHigh (encode (.pref m)), form := { a := baseKind m.space } } s fun fr alive s =>
    .done ((fr.active m.slot alive).foldl (fun s l =>
      match s.tryPhys fr m.space (fr.addr m 32 l) with
      | some x => s.prefetch fr (m.msub == 0) x.1 x.2
      | none => s) s) [] [] []

/-! ## Operand-buffer records (R208 to R210, R227) -/

/-- BLK a format takes (R209). -/
def fmtBlk (fmt : Nat) : Nat := if 10 ≤ fmt ∧ fmt ≤ 13 then 1 else 0

/-- Two regions overlap. -/
def recordsOverlap (a b : BitVec 128) : Bool := overlap (resvBase a) (resvLen a) (resvBase b) (resvLen b)

/-- The first condition of R227 that a record fails, by number. -/
def obresFails (p : Panel) (h : Nat) (r : BitVec 128) : Option Nat :=
  let n := r.toNat
  if resvValid (p.record h) then some 1
  else if 14 ≤ resvFmt r ∨ resvBlk r ≠ fmtBlk (resvFmt r) then some 2
  else if 3 ≤ resvLayout r ∨ resvCmp r = 3 then some 3
  else if resvLen r = 0 ∨ 384 * 1024 < resvLen r ∨ p.kernel.opbuf < resvBase r + resvLen r then some 4
  else if (List.range 16).any fun i => resvValid (p.record i) && recordsOverlap r (p.record i) then some 5
  else if resvScoff r ≠ 0 ∧ resvBlk r ≠ 1 then some 6
  else if resvXoff r ≠ 0 ∧ resvFmt r ≠ 13 then some 7
  else if resvMapoff r ≠ 0 ∧ (resvCmp r = 0 ∨ resvMapoff r % 8 ≠ 0) then some 8
  else if [resvScoff r, resvXoff r, resvMapoff r].any fun o => decide (resvLen r ≤ o) && o != 0 then some 9
  else if bits n 31 29 ≠ 0 ∨ bits n 63 51 ≠ 0 ∨ bits n 95 83 ≠ 0 ∨ bits n 127 115 ≠ 0 then some 10
  else none

/-- OBRES (R227). VALID in the words is ignored and set in the record (R208). -/
def execObres (m : Mem) (s : State) : Out :=
  runSlot { slot := m.slot, hi := slotHigh (encode (.obres m)), form := { a := .scalarQuad }, once := true } s fun fr alive s =>
    if (fr.active m.slot alive).isEmpty then .done s [] [] []
    else
      let ws := (fr.readWords m.slot (fr.leader m.slot) m.slot.sa 4).foldr (fun w n => w.toNat + 2 ^ 32 * n) 0
      let r := BitVec.ofNat 128 ws ||| (1#128 <<< 28)
      let h := m.slot.lit.toNat
      match obresFails fr.p h r with
      | some c => .done s [] [] (fr.allTrap .perm (spaceTval 4 h c))
      | none => .done (s.onPanel fr.p.id fun p => { p with resv := cellSet 0 p.resv h r }) [] [] []

/-! ## Memory barrier instructions (R230 to R235) -/

/-- The object a leader names: 16-byte aligned, in bounds (R230). -/
def reachObj (m : Mem) (fr : Frame) (s : State) (l : Nat) : Reach := s.reach fr m.space m.scope .write (fr.addr m 32 l) 16

/-- An instruction on the object of the leader. -/
def runObj (i : Instr) (m : Mem) (form : Form) (waits : Frame → State → Bool) (act : Frame → Nat → Nat → State → State)
    (s : State) : Out :=
  runMem i m form true .write (reachObj m) waits
    (fun fr gos s => gos.foldl (fun s x =>
      match x.2 with
      | .scratch q off => act fr q off s
      | _ => s) s) s

/-- MBI (R232). -/
def execMbi (m : Mem) (s : State) : Out :=
  runObj (.mbi m) m { a := .scalarOrZero, b := .scalarOrZero } (fun _ _ => false)
    (fun fr q off s =>
      let c := (fr.read32 m.slot (fr.leader m.slot) m.slot.sb).toNat % 2 ^ 24
      s.setObj q off (objMake c c 0 0 0 0)) s

/-- MBA (R233): a release at SCOPE, then the arrival. -/
def execMba (m : Mem) (s : State) : Out :=
  runObj (.mba m) m { a := .scalarOrZero, b := .scalarOrZero } (fun fr s => fr.releaseWaits s m.scope)
    (fun fr q off s =>
      let n := if m.slot.sb = .zero then (fr.active m.slot fr.lanes).length
        else (fr.read32 m.slot (fr.leader m.slot) m.slot.sb).toNat % 2 ^ 24
      s.putObj q off (arriveObj (s.obj q off) n false 0)) s

/-- MBT (R235). -/
def execMbt (m : Mem) (s : State) : Out :=
  runObj (.mbt m) m { dst := .lateScalar, a := .scalarOrZero } (fun _ _ => false)
    (fun fr q off s =>
      let o := s.obj q off
      let ts := fr.dstTargets (fr.leader m.slot) m.slot.dst 1
      let w := BitVec.ofNat 32 (objPhase o + if objFlt o then 2 ^ 31 else 0)
      (s.acquire fr.p.core fr.p.fn m.scope).addWrite fr
        { VarWrite.blank with
          targets := ts
          vals := ts.map fun t => (t, w)
          bad := badTargets (fr.leader m.slot) ts (if s.sickObj q off then some (BitVec.allOnes 64) else none) }) s

/-- MBW (R234): the active lanes go on when the phase has passed, trapping TFENG on a fault, and are held otherwise. A marked object's lanes
stop their panel (R479). -/
def execMbw (m : Mem) (s : State) : Out :=
  runSlot
    { slot := m.slot, hi := slotHigh (encode (.mbw m)), form := { a := .scalarOrZero, b := .scalarOrZero }, once := true } s
    fun fr alive s =>
      let on := fr.active m.slot alive
      match (fr.actors m.slot true alive).map (reachObj m fr s) with
      | .scratch q off :: _ =>
        let o := s.obj q off
        let phase := (fr.read32 m.slot (fr.leader m.slot) m.slot.sb).toNat % 2 ^ 16
        if s.sickObj q off || objPhase o == phase then
          .done ((s.poisonHalt fr.p.id fr.kx (if s.sickObj q off then laneMask on else 0) (BitVec.allOnes 64)).onPanel fr.p.id
            fun p => p.onSkein fr.kx fun k => k.onLanes on fun _ a => { a with held := some (.mbw q off phase m.scope fr.pc) }) [] [] []
        else
          .done (s.acquire fr.p.core fr.p.fn m.scope) [] []
            (if objFlt o then on.map fun l => fr.trapAt l .tfeng (objFaddr o) else [])
      | .trap c v :: _ => .done s [] [] (fr.allTrap c v)
      | _ => .done s [] [] []

end Sys2Proof.Machine
end

