-- ==== Sys2Proof/Machine/Swatch.lean ====
section
/-!
DEFINITION. Sys2Proof/Machine/Swatch.lean: the swatch cache (spec/20_swatch_cache.md R350 to R370, R489).
-/
namespace Sys2Proof.Machine

/-! ## Keys, entries and slots (R351, R352, R354) -/

/-- A key folded to 19 bits (R351). -/
def foldKey (k : Dword) : Nat := (bits k.toNat 18 0) ^^^ (bits k.toNat 37 19) ^^^ (bits k.toNat 56 38) ^^^ (bits k.toNat 63 57)

/-- KEYHI of a key. -/
def keyHi (k : Dword) : Nat := bits k.toNat 63 19

/-- The number of way 0 of a key's set: 2^21 for each die and 16 for each set (R351, R352). -/
def keySet (k : Dword) : Nat := foldKey k % 4 * 2 ^ 21 + foldKey k / 4 * 16

/-- The key of an entry, from its KEYHI and its place (R351). -/
def keyAt (entry keyhi : Nat) : Dword :=
  let x := entry / 16 % 2 ^ 17 * 4 + entry / 2 ^ 21
  let hi := keyhi * 2 ^ 19
  BitVec.ofNat 64 (hi + (x ^^^ (bits hi 37 19) ^^^ (bits hi 56 38) ^^^ (bits hi 63 57)))

/-- The 16 entries of the set that begins at an entry. -/
def waysOf (set : Nat) : List Nat := (List.range 16).map fun w => set + w

/-- The slot address of an entry in a function's window (R352). -/
def Func.slotAddr (f : Func) (entry : Nat) : Dword :=
  BitVec.ofNat 64 (f.heapVa * 2 ^ 32 + entry / 2 ^ 21 * 2 ^ 30 + entry % 2 ^ 21 * 512)

/-- STATE's code (R354). -/
def SwState.code : SwState → Nat
  | .invalid => 0 | .inflight => 1 | .valid => 2 | .stale => 3

/-- Bits [127:1] of a tag entry, as a number (R354). -/
def SwTag.upper (t : SwTag) : Nat :=
  t.owner + 2 ^ 7 * t.stamp + 2 ^ 23 * t.dep.toNat + 2 ^ 55 * t.doom.toNat + 2 ^ 56 * t.st.code + 2 ^ 58 * t.tag
    + 2 ^ 74 * t.domain + 2 ^ 82 * t.keyhi

/-- The number of ones among the low `n` bits is odd. -/
def oddOnes (x : Nat) : Nat → Bool
  | 0 => false
  | n + 1 => oddOnes (x / 2) n != (x % 2 == 1)

/-- A tag entry with its parity (R354). -/
def SwTag.seal (t : SwTag) : SwTag := { t with par := oddOnes t.upper 127 }

/-- A tag entry in the 128-bit form of R354. -/
def SwTag.word (t : SwTag) : Nat := 2 * t.upper + t.par.toNat

/-- The state with one tag entry replaced. -/
def State.setSwTag (s : State) (n : Nat) (t : SwTag) : State := { s with swTags := cellSet SwTag.blank s.swTags n t.seal }

/-- The current stamp of a domain (R355). -/
def State.stampOf (s : State) (dom : Nat) : Nat := (s.swStamps.get dom).toNat

/-- The age of an entry (R355). -/
def State.swAge (s : State) (t : SwTag) : Nat := (s.stampOf t.domain + 2 ^ 16 - t.stamp) % 2 ^ 16

/-- An entry's STAMP becomes its domain's current stamp. -/
def State.refreshStamp (s : State) (n : Nat) : State :=
  let t := s.swTag n
  s.setSwTag n { t with stamp := s.stampOf t.domain }

/-- A domain word's fields: domain and tag. -/
def domOf (w : Word) : Nat := bits w.toNat 23 16
/-- The tag of a domain word. -/
def tagOf (w : Word) : Nat := bits w.toNat 15 0

/-! ## Lookups and claims (R357 to R360) -/

/-- The status codes of SCLK (R365). -/
inductive SwStatus where
  | hit | stale | inflight | claimed | miss | denied | full
deriving DecidableEq, Repr

/-- The status word (R365). -/
def SwStatus.code : SwStatus → Nat
  | .hit => 0 | .stale => 1 | .inflight => 2 | .claimed => 3 | .miss => 4 | .denied => 5 | .full => 6

/-- What a lookup answers: its status and the entry whose slot it returns. -/
structure Found where
  status : SwStatus
  entry : Option Nat
deriving DecidableEq, Repr

/-- The items a sub-queue holds (R359). -/
def queueRoom : Nat := 8192

/-- An item joins a sub-queue; one that was empty becomes non-empty now (R182, R359). -/
def State.enqueue (s : State) (ix : Nat) (i : SwItem) : State :=
  let q := s.subqueue ix
  { s with swQueues := cellSet [] s.swQueues ix (q ++ [i])
           swSince := if q.isEmpty then cellSet 0 s.swSince ix s.time else s.swSince }

/-- A claim of an entry for a key by a function (R357). -/
def State.swClaim (s : State) (fn ix : Nat) (k : Dword) (w : Word) (n : Nat) : State :=
  let t : SwTag :=
    { keyhi := keyHi k, domain := domOf w, tag := tagOf w, st := .inflight, doom := false, dep := 0
      stamp := s.stampOf (domOf w), owner := fn, par := false, inv := false }
  (s.setSwTag n t).enqueue ix ⟨k, w, n⟩

/-- victim of R360: the lowest INVALID way, else the oldest VALID or STALE way of age 1 or more, the lowest on a tie. -/
def State.swVictim (s : State) (set : Nat) : Option Nat :=
  match (waysOf set).find? fun n => (s.swTag n).st == .invalid with
  | some n => some n
  | none =>
    ((waysOf set).filter fun n => ((s.swTag n).st == .valid || (s.swTag n).st == .stale) && decide (1 ≤ s.swAge (s.swTag n))).foldl
      (fun best n =>
        match best with
        | none => some n
        | some m => if s.swAge (s.swTag m) < s.swAge (s.swTag n) then some n else some m) none

/-- The entry that holds a key under a domain, not INVALID (R357). -/
def State.swFind (s : State) (k : Dword) (dom : Nat) : Option Nat :=
  (waysOf (keySet k)).find? fun n =>
    (s.swTag n).st != .invalid && (s.swTag n).keyhi == keyHi k && (s.swTag n).domain == dom

/-- lookup of R357 for a function. -/
def State.swLookup (s : State) (fn : Nat) (k : Dword) (w : Word) (q : LookMod) : Found × State :=
  let f := s.func fn
  let dom := domOf w
  let ix := subqueueIx dom q.neu.toNat
  let fullNow := decide (queueRoom ≤ (s.subqueue ix).length)
  if bits w.toNat 31 24 ≠ 0 ∨ !f.hasRight 24 dom (tagOf w) then (⟨.denied, none⟩, s)
  else
    match s.swFind k dom with
    | some n =>
      let t := s.swTag n
      if t.tag ≠ tagOf w then (⟨.denied, none⟩, s)
      else if t.st = .valid then (⟨.hit, some n⟩, s.refreshStamp n)
      else if t.st = .inflight then (⟨.inflight, some n⟩, s)
      else if q.stale then (⟨.stale, some n⟩, s.refreshStamp n)
      else if q.peek then (⟨.miss, none⟩, s)
      else if fullNow then (⟨.full, none⟩, s)
      else (⟨.claimed, some n⟩, s.swClaim fn ix k w n)
    | none =>
      if q.peek then (⟨.miss, none⟩, s)
      else if fullNow then (⟨.full, none⟩, s)
      else
        match s.swVictim (keySet k) with
        | none => (⟨.full, none⟩, s)
        | some n => (⟨.claimed, some n⟩, s.swClaim fn ix k w n)

/-- The slot's four lines leave a core's L1 and its die's remote-data cache (R369). -/
def State.dropSlot (s : State) (core entry : Nat) : State :=
  let pa := heapBase (entry / 2 ^ 21) + entry % 2 ^ 21 * 512
  (List.range 4).foldl (fun s i => s.dropLine core (pa + 128 * i)) s

/-- A lookup, an SCWAIT or a publication met an entry whose state an invalidation's visit produced: an acquire at device
scope (R369). -/
def State.meetInv (s : State) (core fn n : Nat) : State :=
  if (s.swTag n).inv then s.acquire core fn .device else s

/-! ## Waiting lanes (R361, R365) -/

/-- The entry is INFLIGHT with the key. -/
def State.swPending (s : State) (n : Nat) (k : Dword) : Bool :=
  let t := s.swTag n
  t.st == .inflight && t.keyhi == keyHi k && n / 16 * 16 == keySet k

/-- The entry holds the key in a state. -/
def State.swHolds (s : State) (n : Nat) (k : Dword) (st : SwState) : Bool :=
  let t := s.swTag n
  t.st == st && t.keyhi == keyHi k && n / 16 * 16 == keySet k

/-- The function holds the read right on an entry's domain and tag (R356). -/
def State.swReads (s : State) (fn n : Nat) : Bool := (s.func fn).hasRight 24 (s.swTag n).domain (s.swTag n).tag

/-- The words a released lane's block takes, by register offset, and the state after the release (R365, R369). A function without the read
right has no HIT and no STALE (R356; log entry 39: DEDUCED). -/
def State.swRelease (s : State) (core fn n : Nat) (k : Dword) : List (Nat × Word) × State :=
  let ready (code : Nat) : List (Nat × Word) × State :=
    ([(0, BitVec.ofNat 32 code), (1, (s.swTag n).dep)], ((s.meetInv core fn n).refreshStamp n).dropSlot core n)
  if s.swReads fn n && s.swHolds n k .valid then ready 0
  else if s.swReads fn n && s.swHolds n k .stale then ready 1
  else ([(0, 4), (1, 0), (2, 0), (3, 0)], s.meetInv core fn n)

/-- A lane's block is rewritten by a variable-latency write. -/
def State.writeBlock (s : State) (panel k l dst : Nat) (ws : List (Nat × Word)) : State :=
  let vals := ws.map fun (x : Nat × Word) => (Target.v l (dst + x.1), x.2)
  s.onPanel panel fun p => p.onSkein k fun q => q.addOut { VarWrite.blank with targets := vals.map (fun x => x.1), vals := vals }

/-- The lanes that wait on an entry: panel, skein, lane, key, and first register. -/
def State.swWaiters (s : State) (n : Nat) : List (Nat × Nat × Nat × Dword × Nat) :=
  (s.panels.filter fun p => p.saving.isNone && p.halt.isNone).flatMap fun p => p.skeins.flatMap fun q =>
    q.lanes.zipIdx.filterMap fun (x : Lane × Nat) =>
    match x.1.held with
    | some (.scwait m key dst _) => if m = n then some (p.id, q.ix, x.2, key, dst) else none
    | _ => none

/-- After an operation on an entry, every lane whose wait is over goes on (R361, R365); one that waits on has met the entry's state (R369). -/
def State.swSettle (s : State) (n : Nat) : State :=
  (s.swWaiters n).foldl (fun s (x : Nat × Nat × Nat × Dword × Nat) =>
    match s.panel? x.1 with
    | none => s
    | some p =>
      if s.swPending n x.2.2.2.1 then s.meetInv p.core p.fn n
      else
        let r := s.swRelease p.core p.fn n x.2.2.2.1
        (r.2.onPanel p.id fun p => p.onSkein x.2.1 fun q => q.onLane x.2.2.1 fun a =>
          { a with held := none, wake := s.cycle p.core + 1 }).writeBlock p.id x.2.1 x.2.2.1 x.2.2.2.2 r.1) s

/-! ## The per-lane instructions -/

/-- A lane's key pair or slot address. -/
def Frame.pair (fr : Frame) (z : Slot) (l : Nat) (x : Src) : Dword := fr.read z l x true false

/-- Every active lane traps PERM with tval 0: the function has no heap window (R489). -/
def noWindow (fr : Frame) (z : Slot) (alive : List Nat) : List Trap := (fr.active z alive).map fun l => fr.trapAt l .perm 0

/-- The function has a heap window (R489). -/
def State.hasWindow (s : State) (fr : Frame) : Bool := (s.func fr.p.fn).heapVa != 0

/-- The targets of a vector destination for a lane. -/
def Frame.vTargets (fr : Frame) (z : Slot) (l n : Nat) : List Target := fr.dstTargets l z.dst n

/-- The words of SCLK's result block (R365). -/
def State.foundWords (s : State) (fn : Nat) (r : Found) : List Word :=
  let a := match r.entry with
    | some n => (s.func fn).slotAddr n
    | none => 0
  let dep := match r.status, r.entry with
    | .hit, some n | .stale, some n => (s.swTag n).dep
    | _, _ => 0
  [BitVec.ofNat 32 r.status.code, dep, loWord a, hiWord a]

/-- One lane's lookup with its synchronising edges (R357, R369): the words it writes. -/
def State.sclkLane (s : State) (fr : Frame) (k : Dword) (w : Word) (q : LookMod) : List Word × State :=
  let r := s.swLookup fr.p.fn k w q
  let ws := s.foundWords fr.p.fn r.1
  let met := (s.swFind k (domOf w)).toList ++ r.1.entry.toList
  let s1 := if met.any fun n => (s.swTag n).inv then r.2.acquire fr.p.core fr.p.fn .device else r.2
  match r.1.entry with
  | none => (ws, s1)
  | some n => (ws, if r.1.status = .hit ∨ r.1.status = .stale then s1.dropSlot fr.p.core n else s1)

/-- The die that an entry is homed on (R351). -/
def entryDie (n : Nat) : Nat := n / 2 ^ 21

/-- SCLK (R357, R364, R365). A claim is a release at device scope (R369): the instruction waits for it. -/
def execSclk (z : Slot) (q : LookMod) (s : State) : Out :=
  runSlot { slot := z, hi := slotHigh (encode (.sclk z q)), form := { dst := .vregs 4 4 false, a := .vqPair, b := .noFrag } } s
    fun fr alive s =>
      if !s.hasWindow fr then .done s [] [] (noWindow fr z alive)
      else
        let r := (fr.active z alive).foldl (fun (acc : List (Target × Word) × State) l =>
          let x := acc.2.sclkLane fr (fr.pair z l z.sa) (fr.read32 z l z.sb) q
          (acc.1 ++ (fr.vTargets z l 4).zip x.1, x.2)) ([], s)
        if r.2.swQueues != s.swQueues && s.releaseWaits fr.p.core .device then .wait s
        else .done (r.2.addWrite fr { VarWrite.blank with
          targets := r.1.map (fun w => w.1), vals := r.1
          homes := (fr.active z alive).map fun l => entryDie (keySet (fr.pair z l z.sa)) }) [] [] []

/-- The registers SCWAIT reads of its block (R365). -/
def Frame.blockLate (fr : Frame) (z : Slot) (l : Nat) : Bool := (fr.vTargets z l 4).any fr.k.pendingReg

/-- SCWAIT's read right (R356), at the permission step: the slot address of a lane whose entry holds its key, when the function may not read
the entry. (log entry 39: DEDUCED) -/
def State.scwaitBar (s : State) (fr : Frame) (z : Slot) (l : Nat) : Option Dword :=
  let b := (fr.vTargets z l 4).map fr.k.readTarget
  let a := pairOf (b.getD 2 0) (b.getD 3 0)
  let n := swEntryOf a.toNat
  let k := fr.pair z l z.sa
  if (b.getD 0 0 = 2 ∨ b.getD 0 0 = 3) ∧ (s.func fr.p.fn).inHeap a.toNat ∧ a.toNat % 512 = 0 ∧ !s.swReads fr.p.fn n ∧
      (s.swPending n k ∨ s.swHolds n k .valid ∨ s.swHolds n k .stale) then some a
  else none

/-- SCWAIT of one lane (R365): nothing to do, a hold, or the block rewritten. (log entry 39: DEDUCED) -/
def State.scwaitLane (s : State) (fr : Frame) (z : Slot) (l : Nat) : State :=
  let b := (fr.vTargets z l 4).map fr.k.readTarget
  let dst := match z.dst with
    | .v n => n.val
    | _ => 0
  let st := b.getD 0 0
  let a := pairOf (b.getD 2 0) (b.getD 3 0)
  let k := fr.pair z l z.sa
  if st ≠ 2 ∧ st ≠ 3 then s
  else if !(s.func fr.p.fn).inHeap a.toNat || a.toNat % 512 != 0 then
    s.writeBlock fr.p.id fr.kx l dst [(0, 4), (1, 0), (2, 0), (3, 0)]
  else
    let n := swEntryOf a.toNat
    if s.swPending n k then
      (s.meetInv fr.p.core fr.p.fn n).onPanel fr.p.id fun p => p.onSkein fr.kx fun q => q.onLane l fun x => { x with held := some (.scwait n k dst fr.pc) }
    else
      let r := s.swRelease fr.p.core fr.p.fn n k
      r.2.writeBlock fr.p.id fr.kx l dst r.1

/-- SCWAIT (R364, R365). Its block is read as well as written, so an under-served read of it traps (R29). -/
def execScwait (z : Slot) (s : State) : Out :=
  runSlot { slot := z, hi := slotHigh (encode (.scwait z)), form := { dst := .vregs 4 4 false, a := .vqPair } } s
    fun fr alive s =>
      let late := if fr.p.checking fr.mode then alive.filter fun l => fr.blockLate z l else []
      let shorts := late.map fun l => fr.trapAt l .stallshort fr.pc
      let rest := alive.filter fun l => !late.contains l
      if !s.hasWindow fr then .done s [] [] (shorts ++ noWindow fr z rest)
      else
        let bars := (fr.active z rest).filterMap fun l => (s.scwaitBar fr z l).map fun a => fr.trapAt l .perm a
        let on := (fr.active z rest).filter fun l => (s.scwaitBar fr z l).isNone
        .done (on.foldl (fun s l => s.scwaitLane fr z l) s) [] [] (shorts ++ bars)

/-- The sub-queue that the panel's trigger node serves (R366). -/
def State.triggerQueue (s : State) (p : Panel) : Option Nat :=
  match s.nodeOf p.fn p.handle p.node with
  | some n => if n.kind = 3 then some (subqueueIx n.domain n.subq) else none
  | none => none

/-- One lane's SCPOP from a sub-queue: the six words, and the state after (R366). -/
def State.scpopLane (s : State) (fn ix : Nat) : List Word × State :=
  match s.subqueue ix with
  | [] => ([1, 0, 0, 0, 0, 0], s)
  | i :: is =>
    let a := (s.func fn).slotAddr i.entry
    ([0, i.word, loWord i.key, hiWord i.key, loWord a, hiWord a], { s with swQueues := cellSet [] s.swQueues ix is })

/-- SCPOP (R366): an item taken is an acquire at device scope (R369). -/
def execScpop (z : Slot) (s : State) : Out :=
  runSlot { slot := z, hi := slotHigh (encode (.scpop z)), form := { dst := .vregs 6 2 false } } s fun fr alive s =>
    match s.triggerQueue fr.p with
    | none => .done s [] [] (alive.map fun l => fr.trapAt l .perm 0)
    | some ix =>
      if !s.hasWindow fr then .done s [] [] (noWindow fr z alive)
      else
        let r := (fr.active z alive).foldl (fun (acc : List (Target × Word) × State) l =>
          let x := acc.2.scpopLane fr.p.fn ix
          (acc.1 ++ (fr.vTargets z l 6).zip x.1, x.2)) ([], s)
        let s1 := if r.2.swQueues != s.swQueues then r.2.acquire fr.p.core fr.p.fn .device else r.2
        .done (s1.addWrite fr { VarWrite.blank with
          targets := r.1.map (fun w => w.1), vals := r.1
          homes := ((s.subqueue ix).take (fr.active z alive).length).map fun i => entryDie i.entry }) [] [] []

/-! ## Publication (R361, R367) -/

/-- The publication's outcome on an entry: its code, or `none` for PERM (R361). -/
def State.publish (s : State) (core fn n : Nat) (k : Dword) (m : Word) : Option Nat × State :=
  if !s.swPending n k then (some 1, s.meetInv core fn n)
  else
    let t := s.swTag n
    if !(s.func fn).hasRight 25 t.domain t.tag then (none, s)
    else
      let s1 := (s.meetInv core fn n).setSwTag n
        { t with dep := m, stamp := s.stampOf t.domain, st := if t.doom then .stale else .valid, doom := false, inv := false }
      (some (if t.doom then 2 else 0), s1.swSettle n)

/-- The trap of SCPUB's checks on a slot address (R367, R489). (log entry 40: DEDUCED) -/
def State.scpubTrap (s : State) (fr : Frame) (a : Dword) : Option (Cause × Dword) :=
  if a.toNat % 512 ≠ 0 then some (.align, a)
  else if !s.hasWindow fr then some (.perm, 0)
  else if !(s.func fr.p.fn).inHeap a.toNat then some (.perm, a)
  else none

/-- Some store of the skein to the slot's bytes is not at its home (R367). -/
def State.scpubWaits (s : State) (fr : Frame) (a : Dword) : Bool :=
  s.inflight.any fun x => x.core == fr.p.core && x.touches (heapPhys a.toNat) 512

/-- SCPUB (R361, R367), lane by lane in ascending order. -/
def execScpub (z : Slot) (s : State) : Out :=
  runSlot
    { slot := z, hi := slotHigh (encode (.scpub z)), form := { dst := .vregs 1 1 false, a := .vqPair, b := .vqPair, c := .noFrag } } s
    fun fr alive s =>
      let on := fr.active z alive
      let ok := on.filter fun l => (s.scpubTrap fr (fr.pair z l z.sa)).isNone
      if ok.any fun l => s.scpubWaits fr (fr.pair z l z.sa) then .wait s
      else
        let r := on.foldl (fun (acc : List (Target × Word) × List Trap × State) l =>
          let a := fr.pair z l z.sa
          match acc.2.2.scpubTrap fr a with
          | some (c, v) => (acc.1, acc.2.1 ++ [fr.trapAt l c v], acc.2.2)
          | none =>
            match acc.2.2.publish fr.p.core fr.p.fn (swEntryOf a.toNat) (fr.pair z l z.sb) (fr.read32 z l z.sc) with
            | (none, s1) => (acc.1, acc.2.1 ++ [fr.trapAt l .perm a], s1)
            | (some code, s1) => (acc.1 ++ (fr.vTargets z l 1).zip [BitVec.ofNat 32 code], acc.2.1, s1)) ([], [], s)
        .done (r.2.2.addWrite fr { VarWrite.blank with
          targets := r.1.map (fun w => w.1), vals := r.1
          homes := ok.map fun l => entryDie (swEntryOf (fr.pair z l z.sa).toNat) }) [] [] r.2.1

/-! ## Invalidation and stamps (R362, R363, R368) -/

/-- The domain word names an invalidate right of the function (R368). -/
def Func.mayInvalidate (f : Func) (w : Word) : Bool := bits w.toNat 31 24 == 0 && f.hasRight 26 (domOf w) (tagOf w)

/-- SCINV: the walk starts once the leader's earlier accesses are at their homes; the skein goes on (R368, R369). -/
def runScinv (i : Instr) (z : Slot) (form : Form) (drop : Bool) (kind : Frame → InvKind) (s : State) : Out :=
  runSlot { slot := z, hi := slotHigh (encode i), form := { form with dst := .lateScalar, a := .scalarOrLit }, once := true } s
    fun fr alive s =>
      if (fr.active z alive).isEmpty then .done s [] [] []
      else
        let w := fr.read32 z (fr.leader z) z.sa
        if !(s.func fr.p.fn).mayInvalidate w then .done s [] [] (fr.allTrap .perm (w.setWidth 64))
        else
          let (id, s1) := s.fresh
          let ts := fr.dstTargets (fr.leader z) z.dst 1
          let ret : Option Return := if ts.isEmpty then none else some ⟨fr.p.id, fr.kx, fr.k.seq, fr.leader z, ts⟩
          let walk : InvWalk := ⟨id, fr.p.id, fr.kx, fr.p.core, id, domOf w, tagOf w, drop, kind fr, [], 0, ret⟩
          .done (({ s1 with swWalks := s1.swWalks ++ [walk] } : State).addWrite fr { VarWrite.blank with targets := ts, awaits := [id] }) [] [] []

/-- SCINV.dep: the mask is SB. -/
def execScinvDep (z : Slot) (drop : Bool) (s : State) : Out :=
  runScinv (.scinvDep z drop) z { b := .scalar } drop (fun fr => .dep (fr.read32 z (fr.leader z) z.sb)) s

/-- SCINV.key: the key is SB and its mask SC. -/
def execScinvKey (z : Slot) (drop : Bool) (s : State) : Out :=
  runScinv (.scinvKey z drop) z { b := .scalarPair, c := .scalarPair } drop
    (fun fr => .key (fr.pair z (fr.leader z) z.sb) (fr.pair z (fr.leader z) z.sc)) s

/-- The walk matches an entry (R362). -/
def InvWalk.matches (v : InvWalk) (n : Nat) (t : SwTag) : Bool :=
  t.domain == v.domain && t.tag == v.tag &&
  match v.kind with
  | .dep m => t.st == .inflight || ((t.st == .valid || t.st == .stale) && t.dep &&& m != 0)
  | .key q p => t.st != .invalid && (keyAt n t.keyhi) &&& p == q &&& p

/-- A matched entry after its visit; `none` when nothing changes (R362). (log entry 41: DEDUCED) -/
def SwTag.invalidated (t : SwTag) (drop : Bool) : Option SwTag :=
  match t.st with
  | .invalid => none
  | .valid => some { t with st := if drop then .invalid else .stale, inv := true }
  | .stale => if drop then some { t with st := .invalid, inv := true } else none
  | .inflight => if t.doom then none else some { t with doom := true, inv := true }

/-- One entry of a visited set. -/
def State.visitEntry (v : InvWalk) (acc : Nat × State) (n : Nat) : Nat × State :=
  let t := acc.2.swTag n
  if v.matches n t then
    match t.invalidated v.drop with
    | some t1 => (acc.1 + 1, (acc.2.setSwTag n t1).swSettle n)
    | none => acc
  else acc

/-- The walk has started: every access of its core from before the SCINV is at its home (R369). -/
def State.invStarted (s : State) (v : InvWalk) : Bool := s.inflight.all fun a => a.core != v.core || decide (v.after ≤ a.id)

/-- A number put into a rising list. -/
def insertNat (n : Nat) : List Nat → List Nat
  | [] => [n]
  | m :: ms => if n < m then n :: m :: ms else m :: insertNat n ms

/-- INVALIDATION_VISIT (R362): invalidation `w` visits a set of a die that it has not visited; the last visit completes it. -/
def execInvalidationVisit (w die set : Nat) (s : State) : Out :=
  match s.swWalks.find? fun v => v.id == w with
  | none => .next s
  | some v =>
    let n := die * 2 ^ 17 + set
    if 4 ≤ die ∨ 2 ^ 17 ≤ set ∨ v.visited.contains n ∨ !s.invStarted v then .next s
    else
      let r := (waysOf (16 * n)).foldl (State.visitEntry v) (0, s)
      let v1 : InvWalk := { v with visited := insertNat n v.visited, count := v.count + r.1 }
      if v1.visited.length = 2 ^ 19 then
        let s1 : State := { r.2 with swWalks := r.2.swWalks.filter fun x => x.id != w }
        .next (match v.ret with
          | none => s1
          | some ret => s1.deliver w ret v1.count none (List.range 4))
      else .next { r.2 with swWalks := r.2.swWalks.map fun x => if x.id = w then v1 else x }

/-- SCSTAMP (R363, R368). -/
def execScstamp (z : Slot) (s : State) : Out :=
  runSlot { slot := z, hi := slotHigh (encode (.scstamp z)), form := { dst := .lateScalar, a := .scalarOrLit }, once := true } s
    fun fr alive s =>
      if (fr.active z alive).isEmpty then .done s [] [] []
      else
        let w := fr.read32 z (fr.leader z) z.sa
        if !(s.func fr.p.fn).mayInvalidate w then .done s [] [] (fr.allTrap .perm (w.setWidth 64))
        else
          let v : Word := BitVec.ofNat 32 ((s.stampOf (domOf w) + 1) % 2 ^ 16)
          let ts := fr.dstTargets (fr.leader z) z.dst 1
          let s1 : State := { s with swStamps := s.swStamps.set (domOf w) v }
          .done (s1.addWrite fr { VarWrite.blank with targets := ts, vals := ts.map (fun t => (t, v)), homes := List.range 4 }) [] [] []

end Sys2Proof.Machine
end

