-- ==== Sys2Proof/Machine/Xfm.lean ====
section
/-!
DEFINITION. Sys2Proof/Machine/Xfm.lean: the transform engine, QNT and DQNT (spec/15_copy_and_transform.md R286 to R291).
-/
namespace Sys2Proof.Machine

/-! ## XFM at issue (R286, R288) -/

/-- The conditions of R288 on the source record alone, or, with `dst`, on the destination record alone. -/
def xfmAloneOk (op : Nat) (dst : Bool) (t : Tensor) : Bool :=
  let float := decide (1 ≤ t.fmt) && decide (t.fmt ≤ 3)
  match op with
  | 1 => !fmtBlock t.fmt
  | 2 => (t.cmp != 0) == dst
  | 3 => (t.cmp == 0) == dst
  | 4 => if dst then fmtBlock t.fmt else float
  | 5 => if dst then float else fmtBlock t.fmt
  | 6 => decide (1 ≤ t.fmt) && decide (t.fmt ≤ 9)
  | _ => true

/-- The conditions of R288 on the source and destination records together. -/
def xfmPairOk (op : Nat) (a b : Tensor) : Bool :=
  let shape := a.rows == b.rows && a.cols == b.cols
  match op with
  | 0 | 2 | 3 => a.fmt == b.fmt && shape
  | 1 => a.fmt == b.fmt && b.rows == a.cols && b.cols == a.rows
  | 4 | 5 => shape
  | 6 => a.fmt != b.fmt && shape
  | _ => a.fmt == b.fmt && a.cols == b.cols

/-- The conditions of R288 on the index record alone. -/
def xfmIndexOk (i : Tensor) : Bool := i.fmt == 9 && i.cmp == 0

/-- The record handles of SA: source and destination (R286). -/
def Frame.xfmHandles (fr : Frame) (z : Slot) : Nat × Nat :=
  let w := (fr.read32 z (fr.leader z) z.sa).toNat
  (bits w 15 0, bits w 31 16)

/-- The record handle of SB (R286). -/
def Frame.xfmIndex (fr : Frame) (z : Slot) : Nat := bits (fr.read32 z (fr.leader z) z.sb).toNat 15 0

/-- The operand kinds of XFM. -/
def formXfm (m : XfmMod) : Form := { a := .scalar, b := if m.op = 7 then .scalar else .unused }

/-- A record that the served operands name is marked (R479). -/
def State.xfmSick (s : State) (fr : Frame) (z : Slot) (m : XfmMod) : Bool :=
  let h := fr.xfmHandles z
  ((if fr.served .scalar z z.sa then [h.1, h.2] else []) ++ if m.op = 7 ∧ fr.served .scalar z z.sb then [fr.xfmIndex z] else []).any
    fun h => s.sickBlock fr.p (64 * h)

/-- The records that the operands name, each judged where its read is served (R288, R483): the tval of ILLOPND. -/
def State.xfmBad (s : State) (fr : Frame) (z : Slot) (m : XfmMod) : Option Dword :=
  let op := m.op.val
  let p := s.seen fr.p
  let h := fr.xfmHandles z
  let i := fr.xfmIndex z
  let sa := fr.served .scalar z z.sa
  if !fr.someActive z || s.xfmSick fr z m then none
  else if sa && (recordBad p h.1 (xfmAloneOk op false) || recordBad p h.2 (xfmAloneOk op true)
      || recordsBad p h.1 h.2 (xfmPairOk op)) then some (saTval z)
  else if m.op = 7 ∧ fr.served .scalar z z.sb ∧ (recordBad p i xfmIndexOk
      || (sa && recordsBad p i h.2 fun t b => t.count == b.rows)) then some (sbTval z)
  else none

/-- The checks of XFM after its records' own, in R279's order, and the operation they let start. -/
def State.xfmStart (s : State) (fr : Frame) (z : Slot) (m : XfmMod) : Except (Cause × Dword) XfmOp := do
  let h := fr.xfmHandles z
  let i := if m.op = 7 then some (fr.xfmIndex z) else none
  failIf (s.xfmSick fr z m) .poison (BitVec.allOnes 64)
  failSome (objAlign m.mbs z)
  failSome (recordOut fr.p h.1 <|> recordOut fr.p h.2 <|> i.bind fun t => recordOut fr.p t)
  let p := s.seen fr.p
  let a := recordAt p h.1
  let b := recordAt p h.2
  let ix := i.map fun t => recordAt p t
  failSome (s.tensorOut fr.p a <|> s.tensorOut fr.p b <|> ix.bind fun t => s.tensorOut fr.p t)
  let o ← s.objRef fr m.mbs z.lit
  pure ⟨0, fr.p.id, fr.kx, fr.p.core, fr.mode, m.op.val, roundingOf m.rnd fr.k.fpmode, m.sat, a, b, ix, o⟩

/-- XFM (R286). -/
def execXfm (z : Slot) (m : XfmMod) (s : State) : Out :=
  runSlot
    { slot := z, hi := slotHigh (encode (.xfm z m)), once := true, form := formXfm m, judge := fun fr => s.xfmBad fr z m } s
    fun fr alive s =>
    if (fr.active z alive).isEmpty then .done s [] [] []
    else checked fr (fr.leader z) s (do
      let o ← s.xfmStart fr z m
      let (id, s1) := s.tookRecords.fresh
      pure (.done { s1 with xfms := s1.xfms ++ [{ o with id := id }] } [] [] []))

/-! ## Reading a tensor (R273, R287) -/

/-- The 64 bytes of a source block of a compressed tensor. -/
def State.tensorSlot (s : State) (p : Panel) (mode : Mode) (t : Tensor) (j : Nat) : Eng (List Byte) := do
  let map ← s.engByte p mode t.site (t.map + j / 8)
  let slot ← s.engBytes p mode t.site (t.addr + slotBytes t.cmp * j) (slotBytes t.cmp)
  if map.getLsbD (j % 8) then
    let ptr := leNat (slot.take 8)
    if t.site = .global then s.engBytes p mode t.site ptr 64
    else
      let _ ← s.engReach p mode t.site .read ptr 64
      s.engBytes p mode t.site ptr 64
  else pure (expandSlot t.cmp slot)

/-- Byte `n` of a tensor's element array without gaps. -/
def State.tensorByte (s : State) (p : Panel) (mode : Mode) (t : Tensor) (n : Nat) : Eng Byte :=
  if t.cmp = 0 then s.engByte p mode t.site (t.byteAddr n)
  else do
    let bs ← s.tensorSlot p mode t (n / 64)
    pure (bs.getD (n % 64) 0)

/-- The bits of a tensor's element with a dense index. -/
def State.tensorElem (s : State) (p : Panel) (mode : Mode) (t : Tensor) (e : Nat) : Eng Nat :=
  if fmtBits t.fmt = 4 then do
    let b ← s.tensorByte p mode t (e / 2)
    pure (b.toNat / 16 ^ (e % 2) % 16)
  else do
    let w := fmtBits t.fmt / 8
    let bs ← (List.range w).mapM fun i => s.tensorByte p mode t (e * w + i)
    pure (leNat bs)

/-- The scale of block `j` of a tensor. -/
def State.tensorScale (s : State) (p : Panel) (mode : Mode) (t : Tensor) (j : Nat) : Eng Nat := do
  let b ← s.engByte p mode t.site (t.sc + j)
  pure b.toNat

/-- The extra byte of block `j` of a tensor. -/
def State.tensorExtra (s : State) (p : Panel) (mode : Mode) (t : Tensor) (j : Nat) : Eng Nat :=
  if t.fmt = 13 then do
    let b ← s.engByte p mode t.site (t.xt + j)
    pure b.toNat
  else pure 0

/-! ## The value rules (R288) -/

/-- Where the source element of a destination element lies; `none` for a gathered row that does not exist. -/
def State.xfmFrom (s : State) (p : Panel) (o : XfmOp) (e : Nat) : Eng (Option Nat) :=
  let d := o.dst.place e
  match o.op, o.idx with
  | 1, _ => pure (some (o.src.index d.2 d.1))
  | 7, some i => do
    let x ← s.tensorElem p o.mode i d.1
    pure (if x < o.src.rows then some (o.src.index x d.2) else none)
  | _, _ => pure (some (o.src.index d.1 d.2))

/-- How a transform rounds. -/
def XfmOp.cfg (o : XfmOp) : RoundCfg := { rm := o.rm, ftz := false }

/-- Opcode 6 on one element (R85 to R87). -/
def xfmConvert (o : XfmOp) (x : Nat) : FRes :=
  match fmtFloat o.src.fmt, fmtInt o.src.fmt, fmtFloat o.dst.fmt, fmtInt o.dst.fmt with
  | some f, _, some g, _ => cvtFloat f g o.cfg o.sat x
  | some f, _, none, some (sgn, n) => cvtToInt f o.cfg sgn n x
  | none, some (sgn, n), some g, _ => cvtFromInt g o.cfg o.sat (intCode sgn n x)
  | none, some (sgn, n), none, some (sgn', n') =>
    let v := intCode sgn n x
    let hi : Int := if sgn' then (2 : Int) ^ (n' - 1) - 1 else (2 : Int) ^ n' - 1
    let lo : Int := if sgn' then -(2 : Int) ^ (n' - 1) else 0
    (wrap (if o.sat then max lo (min hi v) else v) n', 0)
  | _, _, _, _ => (x, 0)

/-- A destination block of a quantising transform, from its 32 source values (R267 to R269). -/
def State.xfmQuant (s : State) (p : Panel) (o : XfmOp) (j : Nat) : Eng Quant := do
  let xs ← (List.range 32).mapM fun i => do
    let e ← s.xfmFrom p o (32 * j + i)
    let x ← s.tensorElem p o.mode o.src (e.getD 0)
    pure (decodeFloat ((fmtFloat o.src.fmt).getD fmt32) x)
  pure (quantise o.dst.fmt (fun _ => o.cfg) xs)

/-- The bits of a destination element, and its flags. -/
def State.xfmElem (s : State) (p : Panel) (o : XfmOp) (e : Nat) : Eng FRes :=
  if o.op = 4 then do
    let q ← s.xfmQuant p o (e / 32)
    pure (q.codes.getD (e % 32) 0, q.flags)
  else do
    match ← s.xfmFrom p o e with
    | none => pure (0, 0)
    | some n =>
      let x ← s.tensorElem p o.mode o.src n
      match o.op with
      | 5 =>
        let c ← s.tensorScale p o.mode o.src (n / 32)
        let t ← s.tensorExtra p o.mode o.src (n / 32)
        pure (roundNum ((fmtFloat o.dst.fmt).getD fmt32) o.cfg false (blockNum o.src.fmt x c t))
      | 6 => pure (xfmConvert o x)
      | _ => pure (x, 0)

/-- The source block whose scale and extra byte a moved destination block takes: the one that holds all its elements.
`none` where there is no such block; the inner `none` is a row of zero bytes. -/
def State.xfmBlock (s : State) (p : Panel) (o : XfmOp) (j : Nat) : Eng (Option (Option Nat)) := do
  let bs ← (List.range 32).mapM fun i => do
    let e ← s.xfmFrom p o (32 * j + i)
    pure (e.map fun n => n / 32)
  match bs with
  | [] => pure none
  | b :: rest => pure (if rest.all fun c => c == b then some b else none)

/-- The scale and extra byte of a destination block. Where the layouts cut the elements into other blocks, the spec gives
neither, and both are free (log entry 7: DESIGN CHOICE). -/
def State.xfmSide (s : State) (p : Panel) (o : XfmOp) (j : Nat) : Eng (Nat × Nat) := do
  if o.op = 4 then
    let q ← s.xfmQuant p o j
    pure (q.scale, q.extra)
  else
    match ← s.xfmBlock p o j with
    | some (some n) =>
      let c ← s.tensorScale p o.mode o.src n
      let t ← s.tensorExtra p o.mode o.src n
      pure (c, t)
    | some none => pure (0, 0)
    | none => pure (Config.freeBits (s.free + 2 * j) % 256, Config.freeBits (s.free + 2 * j + 1) % 256)

/-- Byte `n` of the destination's element array without gaps, and its flags. -/
def State.xfmByte (s : State) (p : Panel) (o : XfmOp) (n : Nat) : Eng (Byte × Word) :=
  if fmtBits o.dst.fmt = 4 then do
    let lo ← s.xfmElem p o (2 * n)
    let hi ← s.xfmElem p o (2 * n + 1)
    pure (BitVec.ofNat 8 (lo.1 % 16 + 16 * (hi.1 % 16)), lo.2 ||| hi.2)
  else do
    let w := fmtBits o.dst.fmt / 8
    let x ← s.xfmElem p o (n / w)
    pure (BitVec.ofNat 8 (x.1 / 256 ^ (n % w) % 256), x.2)

/-! ## Poisoned bytes (R387, R479)

A transform consumes what it reads: the panel stops, and what a marked byte would feed is not written. (log entry 79: DEDUCED) -/

/-- What POISON names for the first marked byte among some of a site. -/
def State.firstBad (s : State) (p : Panel) (mode : Mode) (site : Site) (as : List Nat) : Option Dword :=
  (as.find? (s.siteBad p mode site)).map (sitePoison site)

/-- The bytes that the bits of element `n` of a tensor come from. -/
def State.elemFeeds (s : State) (p : Panel) (mode : Mode) (t : Tensor) (n : Nat) : List Nat :=
  let w := fmtBits t.fmt / 8
  let bytes := if fmtBits t.fmt = 4 then [n / 2] else (List.range w).map (n * w + ·)
  if t.cmp = 0 then bytes.map t.byteAddr
  else
    let j := bytes.headD 0 / 64
    let slot := t.addr + slotBytes t.cmp * j
    let far : List Nat := match s.engByte p mode t.site (t.map + j / 8), s.engBytes p mode t.site slot 8 with
      | .ok m, .ok b => if m.getLsbD (j % 8) then (List.range 64).map (leNat b + ·) else []
      | _, _ => []
    (t.map + j / 8) :: (List.range (slotBytes t.cmp)).map (slot + ·) ++ far

/-- The scale and extra byte of block `j` of a tensor. -/
def Tensor.sideFeeds (t : Tensor) (j : Nat) : List Nat :=
  (if fmtBlock t.fmt then [t.sc + j] else []) ++ if t.fmt = 13 then [t.xt + j] else []

/-- A marked byte of the index row that places destination element `e`. -/
def State.indexBad (s : State) (p : Panel) (o : XfmOp) (e : Nat) : Option Dword :=
  match o.op, o.idx with
  | 7, some i => s.firstBad p o.mode i.site (s.elemFeeds p o.mode i (o.dst.place e).1)
  | _, _ => none

/-- A marked byte that feeds destination element `e`. -/
def State.xfmElemBad (s : State) (p : Panel) (o : XfmOp) (e : Nat) : Option Dword :=
  let from_ (e : Nat) : List Nat := match s.xfmFrom p o e with
    | .ok (some n) => s.elemFeeds p o.mode o.src n ++ if o.op = 5 then o.src.sideFeeds (n / 32) else []
    | _ => []
  s.indexBad p o e <|> s.firstBad p o.mode o.src.site
    (if o.op = 4 then (List.range 32).flatMap fun i => from_ (e / 32 * 32 + i) else from_ e)

/-- A marked byte that feeds byte `n` of the destination's element array. -/
def State.xfmByteBad (s : State) (p : Panel) (o : XfmOp) (n : Nat) : Option Dword :=
  if s.bad.isEmpty then none
  else if fmtBits o.dst.fmt = 4 then s.xfmElemBad p o (2 * n) <|> s.xfmElemBad p o (2 * n + 1)
  else s.xfmElemBad p o (n / (fmtBits o.dst.fmt / 8))

/-- A marked byte that feeds the scale and extra byte of destination block `j`. -/
def State.xfmSideBad (s : State) (p : Panel) (o : XfmOp) (j : Nat) : Option Dword :=
  if s.bad.isEmpty then none
  else if o.op = 4 then s.xfmElemBad p o (32 * j)
  else ((List.range 32).findSome? fun i => s.indexBad p o (32 * j + i)) <|> match s.xfmBlock p o j with
    | .ok (some (some n)) => s.firstBad p o.mode o.src.site (o.src.sideFeeds n)
    | _ => none

/-! ## Writing the destination (R271, R272, R287, R289) -/

/-- How far a transform has come: memory, the flags raised, the blocks escaped, the bytes of a destination sector that is not
complete yet, each with its address, and what POISON names when it has read a marked byte. -/
structure XfmRun where
  s : State
  flags : Word
  escaped : Nat
  hold : List (Nat × Byte)
  bad : Option Dword

/-- The 32-element blocks whose last byte lies among some dense bytes. -/
def Tensor.blocksEnding (t : Tensor) (lo hi : Nat) : List Nat :=
  let size := 32 * fmtBits t.fmt / 8
  if fmtBlock t.fmt then (List.range (hi / size)).filter fun j => decide (lo < size * (j + 1)) else []

/-- The scales and extra bytes of some destination blocks are written. (log entry 26: DESIGN CHOICE) -/
def XfmRun.sides (r : XfmRun) (src : State) (p : Panel) (o : XfmOp) (js : List Nat) : Eng XfmRun :=
  js.foldlM (fun r j => do
    let x ← src.xfmSide p o j
    let s1 ← r.s.engPut p o.mode o.dst.site (o.dst.sc + j) [BitVec.ofNat 8 x.1]
    let s2 ← if o.dst.fmt = 13 then s1.engPut p o.mode o.dst.site (o.dst.xt + j) [BitVec.ofNat 8 x.2] else pure s1
    match src.xfmSideBad p o j with
    | none => pure { r with s := s2 }
    | some v => pure { r with bad := r.bad <|> some v }) r

/-- One sector of a destination that is not compressed: its sides, then the dense bytes from `n`. -/
def XfmRun.plain (r : XfmRun) (src : State) (p : Panel) (o : XfmOp) (n len : Nat) : Eng XfmRun := do
  let bs ← (List.range len).mapM fun i => src.xfmByte p o (n + i)
  let r1 ← r.sides src p o (o.dst.blocksEnding n (n + len))
  let s2 ← bs.zipIdx.foldlM (fun s (x : (Byte × Word) × Nat) => do
    let s' ← s.engPut p o.mode o.dst.site (o.dst.byteAddr (n + x.2)) [x.1.1]
    pure (if (src.xfmByteBad p o (n + x.2)).isSome then s else s')) r1.s
  pure { r1 with s := s2, flags := r1.flags ||| orFlags (bs.map fun b => b.2)
                 bad := r1.bad <|> (List.range len).findSome? fun i => src.xfmByteBad p o (n + i) }

/-- The fault value of a compression that runs out of overflow bytes (R289). -/
def Tensor.ovfTval (t : Tensor) : Dword := siteTval t.site 0 (t.ovf + t.ovfBytes)

/-- The slot of source block `j` joins the held bytes; those whose sector no later slot reaches are written (R206, R289). Every byte is
translated as its slot comes. -/
def XfmRun.putSlot (r : XfmRun) (p : Panel) (o : XfmOp) (j : Nat) (slot : List Byte) : Eng XfmRun := do
  let t := o.dst
  let a := t.addr + slotBytes t.cmp * j
  let _ ← (List.range slot.length).mapM fun i => r.s.engReach p o.mode t.site .write (a + i) 1
  let all := r.hold ++ slot.zipIdx.map fun (x : Byte × Nat) => (a + x.2, x.1)
  let last := t.slots ≤ j + 1
  let ready := all.filter fun x => last || decide (x.1 / 32 < (a + slot.length) / 32)
  let s1 ← ready.foldlM (fun (s : State) (x : Nat × Byte) => s.engPut p o.mode t.site x.1 [x.2]) r.s
  pure { r with s := s1, hold := all.drop ready.length }

/-- One source block of a compressed destination: overflow bytes and sides, its map bit, then its slot (R271, R272). -/
def XfmRun.slot (r : XfmRun) (src : State) (p : Panel) (o : XfmOp) (j : Nat) : Eng XfmRun := do
  let t := o.dst
  let bs ← (List.range 64).mapM fun i => src.xfmByte p o (64 * j + i)
  let raw := bs.map fun b => b.1
  let r1 ← r.sides src p o (t.blocksEnding (64 * j) (64 * j + 64))
  let map ← r1.s.engByte p o.mode t.site (t.map + j / 8)
  let spoiled := (List.range 64).findSome? fun i => src.xfmByteBad p o (64 * j + i)
  if spoiled.isSome then return ← ({ r1 with bad := r1.bad <|> spoiled } : XfmRun).putSlot p o j []
  let put (bit : Bool) (slot : List Byte) (escaped : Nat) (s : State) : Eng XfmRun := do
    let w := if bit then map ||| (1#8 <<< (j % 8)) else map &&& ~~~(1#8 <<< (j % 8))
    let s1 ← s.engPut p o.mode t.site (t.map + j / 8) [w]
    let r2 : XfmRun := { r1 with s := s1, flags := r1.flags ||| orFlags (bs.map fun b => b.2), escaped := escaped }
    r2.putSlot p o j slot
  match compressBlock t.cmp raw with
  | some slot => put false slot r1.escaped r1.s
  | none =>
    if t.ovfBytes < 64 * (r1.escaped + 1) then .error (.fault t.ovfTval)
    else
      let ptr := t.ovf + 64 * r1.escaped
      let s1 ← r1.s.engPut p o.mode t.site ptr raw
      put true (leBytes ptr 8 ++ List.replicate (slotBytes t.cmp - 8) 0) (r1.escaped + 1) s1

/-- The pieces of the destination in ascending order: dense bytes and length, one sector or slot each. `fuel` bounds them. -/
def Tensor.pieces (t : Tensor) (n : Nat) : Nat → List (Nat × Nat)
  | 0 => []
  | fuel + 1 =>
    if t.bytes ≤ n then []
    else
      let len := if t.cmp = 0 then t.sectorRun n (t.bytes - n) else 64
      (n, len) :: t.pieces (n + len) fuel

/-- The addresses of the bytes a transform may write. -/
def Tensor.places (t : Tensor) : List Nat :=
  (if t.cmp = 0 then (List.range t.bytes).map t.byteAddr else (List.range (t.slots * slotBytes t.cmp)).map fun i => t.addr + i)
    ++ ((List.range t.blocks).map fun i => t.sc + i) ++ ((List.range t.blocks).map fun i => t.xt + i)
    ++ ((List.range ((t.slots + 7) / 8)).map fun i => t.map + i) ++ (List.range (min (64 * t.slots) t.ovfBytes)).map fun i => t.ovf + i

/-- What the transform's piece at dense byte `n` reads: a byte that the transform has written gives its value from before or the
one written (R281, R287). -/
def State.xfmSource (src now : State) (p : Panel) (o : XfmOp) (n : Nat) : State :=
  if n = 0 ∨ !(o.src.site.meets o.dst.site) then src
  else
    let as := o.dst.places
    let t := as.zipIdx.foldl (fun (s : State) (x : Nat × Nat) =>
      match src.engReach p o.mode o.dst.site .write x.1 1 with
      | .ok r =>
        let old := src.engRead p 1 r
        if old ≠ now.engRead p 1 r ∧ Config.choice (src.free + 2 * o.dst.blocks + n * as.length + x.2) % 2 = 0 then
          s.engStore p [BitVec.ofNat 8 old] r
        else s
      | .error _ => s) now
    { t with free := src.free }

/-- How many free values a transform may use. -/
def XfmOp.frees (o : XfmOp) : Nat := 2 * o.dst.blocks + (o.dst.bytes + 1) * o.dst.places.length

/-- The transform's steps, up to the first that cannot be completed (R289). -/
def XfmRun.go (src : State) (p : Panel) (o : XfmOp) : List (Nat × Nat) → XfmRun → XfmRun × Option EngStop
  | [], r => (r, none)
  | x :: xs, r =>
    let read := src.xfmSource r.s p o x.1
    match if o.dst.cmp = 0 then r.plain read p o x.1 x.2 else r.slot read p o (x.1 / 64) with
    | .ok r1 => XfmRun.go src p o xs r1
    | .error e => (r, some e)

/-- The flags of a transform are set and it arrives (R287). -/
def XfmRun.finish (r : XfmRun) (o : XfmOp) (faulted : Bool) (v : Dword) : State :=
  let s1 : State := { r.s with xfms := r.s.xfms.filter fun x => x.id != o.id }
  let s2 := s1.onPanel o.panel fun p => p.onSkein o.skein fun k => { k with fpflags := k.fpflags ||| (r.flags &&& fpflagsMask) }
  let s3 := match r.bad with
    | none => s2
    | some v => s2.onPanel o.panel fun p => p.startHalt (s2.cycle p.core) o.skein .poison 0 v
  ((s3.endWalks o.panel none).arriveRef o.obj faulted v)

/-- XFM_COMPLETE (R287 to R289): the oldest transform of cluster `c` is done, waits for a translation, or arrives faulted. -/
def execXfmComplete (c : Nat) (s : State) : Out :=
  match s.xfms.find? fun o => clusterOf o.core == c with
  | none => .next s
  | some o =>
    match s.panel? o.panel with
    | none => .next { s with xfms := s.xfms.filter fun x => x.id != o.id }
    | some p =>
      let s0 := s.flushCore o.core
      let s1 : State := { s0 with free := s0.free + o.frees + s0.rays.length }
      match XfmRun.go s0 p o (o.dst.pieces 0 (o.dst.bytes + 1)) ⟨s1, 0, 0, [], none⟩ with
      | (r, none) => .next (r.finish o false 0)
      | (r, some (.fault v)) => .next (r.finish o true v)
      | (_, some (.miss va k)) => .next (s.engMiss p o.mode va k)
      | (_, some .declined) => .next { s0 with xfms := s0.xfms.filter fun x => x.id != o.id }
      | (_, some .unbacked) => .fault .unbacked

/-! ## QNT and DQNT (R290, R291) -/

/-- FMT of QNT and DQNT, LIT[3:0]. -/
def qntFmt (z : Slot) : Nat := z.lit.toNat % 16

/-- The word QNT gives a lane. -/
def qntWord (q : Quant) (l : Nat) : Word := BitVec.ofNat 32 (q.codes.getD l 0 + 256 * q.scale + 65536 * q.extra)

/-- QNT (R290). -/
def execQnt (z : Slot) (m : QntMod) (s : State) : Out :=
  runSlot
    { slot := z, hi := slotHigh (encode (.qnt z m)), illop := fun fr => fr.k.ply != 32
      form := { dst := .vregs 1 1 false, a := .vregs 1, b := if m.rnd = .sto then .vregs 1 else .unused } } s fun fr alive s =>
    let on := fr.active z alive
    let src (l : Nat) : Num :=
      if on.contains l then decodeFloat (fmtOf m.ty) (floatElem m.ty (fr.read z l z.sa false false) 0) else .zero false
    let cfg (l : Nat) : RoundCfg :=
      { rm := roundingOf m.rnd fr.k.fpmode, ftz := false, rbits := 24
        rb := if m.rnd = .sto ∧ on.contains l then (fr.read32 z l z.sb).toNat else 0 }
    let q := quantise (qntFmt z) cfg ((List.range 32).map src)
    let ws := on.flatMap fun l => (fr.dstTargets l z.dst 1).map fun t => (t, qntWord q l)
    .done (s.addWrite fr { VarWrite.blank with targets := ws.map (fun w => w.1), vals := ws, flags := q.flags, raises := true }) [] [] []

/-- DQNT (R291): an FP32 result is flushed as R79 says. (log entry 34: DEDUCED) -/
def execDqnt (z : Slot) (m : QntMod) (s : State) : Out :=
  runSlot
    { slot := z, hi := slotHigh (encode (.dqnt z m)), form := { dst := .vregs 1 1 false, a := .vregs 1 } } s fun fr alive s =>
    let on := fr.active z alive
    let f := qntFmt z
    let one (l : Nat) : FRes :=
      let w := (fr.read32 z l z.sa).toNat
      roundNum (fmtOf m.ty) { rm := roundingOf m.rnd fr.k.fpmode, ftz := ftzOf fr.k.fpmode } false
        (blockNum f (w % 2 ^ fmtBits f) (bits w 15 8) (bits w 23 16))
    let rs := on.map fun l => (l, one l)
    let ws := rs.flatMap fun r => (fr.dstTargets r.1 z.dst 1).map fun t => (t, BitVec.ofNat 32 r.2.1)
    .done (s.addWrite fr
      { VarWrite.blank with targets := ws.map (fun w => w.1), vals := ws, flags := orFlags (rs.map fun r => r.2.2), raises := true })
      [] [] []

end Sys2Proof.Machine
end

