-- ==== Sys2Proof/Machine/Halt.lean ====
section
/-!
DEFINITION. Sys2Proof/Machine/Halt.lean: stops under R387, the fault area (R388, R423, R424), kills (R442, R443), link failures and
thermal trips (R454, R478).
-/
namespace Sys2Proof.Machine

/-! ## The fault area (R423) -/

/-- The control block of a function's fault area: its address, SIZE, WR and RD. -/
structure FaultArea where
  pa : Nat
  size : Nat
  wr : Nat
  rd : Nat

/-- The physical pages of `n` pages of a function from an address, for supervisor writes; `none` when one fails (R353, R423). -/
def State.funcPages (s : State) (fn va : Nat) : Nat → Option (List Nat)
  | 0 => some []
  | n + 1 =>
    match s.funcPhys fn 0 va .write, s.funcPages fn (va + 4096) n with
    | some pa, some ps => if (s.func fn).inHeap va && (s.heapBar fn .write va).isSome then none else some (pa :: ps)
    | _, _ => none

/-- The fault area of a function, when its control block is mapped and may be written. -/
def State.faultArea (s : State) (fn : Nat) : Option FaultArea :=
  let fa := (s.func fn).fault.toNat
  if fa = 0 then none
  else ((s.funcPages fn fa 1).bind List.head?).map fun pa => ⟨pa, s.mem.read pa 8, s.mem.read (pa + 8) 8, s.mem.read (pa + 16) 8⟩

/-- Where a record of `b` bytes goes: the offset it starts at, and whether a pad record stands at WR; `none` when the ring has no
room. WR = RD says that the ring is empty, so WR stays short of RD. (log entry 16: DEDUCED) -/
def FaultArea.place (a : FaultArea) (b : Nat) : Option (Nat × Bool) :=
  let cap := a.size - 4096
  let used := (a.wr + cap - a.rd) % cap
  let pad := decide (a.size < a.wr + b)
  let need := if pad then a.size - a.wr + b else b
  if a.size % 4096 ≠ 0 ∨ a.size < 8192 ∨ a.wr % 4096 ≠ 0 ∨ a.wr < 4096 ∨ a.size ≤ a.wr ∨ a.rd < 4096 ∨ a.size ≤ a.rd then none
  else if used + need < cap then some (if pad then 4096 else a.wr, pad)
  else none

/-- A record of `b` bytes, marked at the offsets `marks`, is appended to a function's fault area, or dropped (R423). Vector 1 fires when WR
advances (R467). -/
def State.appendRecord (s : State) (fn : Nat) (rec_ : Bytes) (marks : List Nat) (b : Nat) : State :=
  let drop : State := s.onFunc fn fun f => { f with fdrop := f.fdrop + 1 }
  match s.faultArea fn with
  | none => drop
  | some a =>
    match a.place b with
    | none => s.setMem (s.mem.write (a.pa + 24) 8 ((s.mem.read (a.pa + 24) 8 + 1) % 2 ^ 64)) (a.pa + 24) 8
    | some (start, pad) =>
      let fa := (s.func fn).fault.toNat
      match s.funcPages fn (fa + start) (b / 4096), if pad then s.funcPages fn (fa + a.wr) 1 else some [] with
      | some pages, some pads =>
        let s1 := (s.setPages [] [] pads).setPages rec_ marks pages
        let wr := if start + b = a.size then 4096 else start + b
        (s1.setMem (s1.mem.write (a.pa + 8) 8 wr) (a.pa + 8) 8).onFunc fn fun f => f.fire 1
      | _, _ => drop

/-- The fields of a fault header (R388). -/
def faultHeader (cause skein flags lanes tval node : Nat) (skids : List Nat) : List (Nat × Nat × Nat) :=
  [(0, 1, cause), (1, 1, skein), (2, 1, flags), (4, 4, lanes), (8, 8, tval), (16, 8, node)] ++
    (List.range 32).map fun i => (24 + i, 1, skids.getD i 0xFF)

/-- A notice record (R424): its kind, its TVAL, and 32 bytes from offset 24. -/
def noticeRecord (kind tval body : Nat) : Bytes :=
  Bytes.fields [] 0 [(0, 1, 0x3F), (1, 1, 0xFF), (4, 4, kind), (8, 8, tval), (24, 32, body)]

/-! ## Stops (R387 to R390) -/

/-- A counter of corrected soft errors rises (R479, R481). -/
def State.countCorrected (s : State) (die : Nat) : State := s.onDie die fun d => { d with corrected := (d.corrected + 1) % 2 ^ 64 }

/-- A counter of uncorrectable errors rises (R481). -/
def State.countUncorr (s : State) (die : Nat) : State := s.onDie die fun d => { d with uncorr := (d.uncorr + 1) % 2 ^ 64 }

/-- The lane of a target; none for a register of the skein. -/
def Target.lane? : Target → Option Nat
  | .v l _ | .tSup l _ | .tHyp l _ | .k _ l => some l
  | .s _ | .xSup _ | .xHyp _ => none

/-- A lane mask covers a target. -/
def maskTakes (lanes : Word) (t : Target) : Bool := t.lane?.all fun l => lanes.getLsbD l

/-- The lowest lane of a mask. -/
def firstLane (w : Word) : Nat := ((List.range 32).find? fun l => w.getLsbD l).getD 0

/-- Write `n` of a skein brings poisoned data for some lanes: they receive nothing, and the panel stops when it lands (R219, R309, R387). -/
def Skein.spoil (k : Skein) (n : Nat) (lanes : Word) : Skein :=
  { k with
    outs := k.outs.map fun (w : VarWrite) =>
      if w.seq = n then { w with bad := w.bad ++ (w.targets.filter (maskTakes lanes)).map fun t =>
        ⟨some t, (t.lane?).getD (firstLane lanes), BitVec.allOnes 64⟩ }
      else w
    results := k.results.map fun (r : FixedResult) =>
      if r.seq = n then { r with bad := r.bad ||| lanes, regs := r.regs.filter (fun x => !maskTakes lanes x.1)
                                 cells := r.cells.filter fun c => !lanes.getLsbD c.lane }
      else r }

/-- PANEL_HALT (R219, R387, R428, R479, R480, R481): the error detection of a die reports an error. One that was repaired is counted; an
uncorrectable one marks its bytes; one in a result on its way stops the panel when it would land, and one in another register or queue entry,
or in a structure of no function, at once. A save under way becomes a stop. (log entries 46 and 79: DEDUCED) -/
def execPanelHalt (p k : Nat) (m : HaltReport) (s : State) : Out :=
  match m with
  | .corrected die => .next (s.countCorrected die)
  | .damaged die spots => .next ({ s with bad := s.bad ++ spots.filter fun x => !s.bad.contains x }.countUncorr die)
  | .poison lanes poisoned =>
    match s.panel? p with
    | none => .next s
    | some q =>
      let q1 := match poisoned with
        | none => q.startHalt (s.cycle q.core) k .poison lanes (BitVec.allOnes 64)
        | some n => q.onSkein k fun sk => sk.spoil n lanes
      .next ((s.setPanel q1).countUncorr (dieOf q.core))
  | .machineCheck addr =>
    match s.panel? p with
    | none => .next s
    | some q => .next ((s.setPanel (q.startHalt (s.cycle q.core) k .mchk 0 (mchkTval addr 0 (dieOf q.core) 4))).countUncorr (dieOf q.core))

/-- panel.skid after a halt: three bits for each skein (R389). -/
def skidWord (skids : List Nat) : BitVec 96 := BitVec.ofNat 96 ((skids.zipIdx.map fun (x : Nat × Nat) => x.1 % 8 * 8 ^ x.2).sum)

/-- The record of a stopped panel: the header on a page of its own, then the context (R388, R423). -/
def State.haltRecord (s : State) (p : Panel) (h : Halt) : Bytes :=
  let q : Panel := { p with skid := skidWord h.skids }
  let head := Bytes.fields [] 0
    (faultHeader h.cause.code h.skein h.multi.toNat h.lanes.toNat h.tval.toNat p.node h.skids)
  head.paste 4096 (s.areaOf p) (s.contextOf q { kind := 3, reason := 0xFF })

/-- The stopped panel has drained (R387 step 3), and what its core has started is at its home (R243, R244). -/
def State.haltReady (s : State) (p : Panel) : Bool := p.halt.isSome && !s.panelBusy p && !s.releaseWaits p.core .device

/-- A stopped panel is gone: its node failed, and its resources are free (R387 step 5, R179). (log entry 45: DEDUCED) -/
def State.removeStopped (s : State) (p : Panel) : State :=
  let s1 := ((s.dropPanel p).hwTrace p.fn p.core 5 0 p.node).failNode p.fn p.node
  (s1.panelGone p.fn p.handle p.node).advance p.fn (p.node / 2 ^ 16)

/-- FAULT_RECORD_WRITE (R387 steps 3 to 5, R423). -/
def execFaultRecordWrite (p : Nat) (s : State) : Out :=
  match s.panel? p with
  | none => .next s
  | some q =>
    match q.halt with
    | none => .next s
    | some h =>
      if !s.haltReady q then .next s
      else .next ((s.appendRecord q.fn (s.haltRecord q h) ((s.areaMarks q).map (4096 + ·)) (4096 + s.areaOf q)).removeStopped q).settleClusters

/-- Every panel of a list stops with a machine check of a source (R387, R480). -/
def State.haltAll (s : State) (ps : List Panel) (peer src : Nat) : State :=
  ps.foldl (fun s p => s.onPanel p.id fun q => q.startHalt (s.cycle q.core) 0 .mchk 0 (mchkTval 0 peer (dieOf q.core) src)) s

/-! ## Kills (R442, R443) -/

/-- A kill of a function (R443). -/
def State.kill (s : State) (fn tval : Nat) : State :=
  if (s.func fn).st ≠ .active then s
  else
    let s1 := s.appendRecord fn (noticeRecord 1 tval (2 ^ 256 - 1)) [] 4096
    let s2 := s1.haltAll (s1.panels.filter fun p => p.fn == fn) 0 3
    let s3 := (s2.func fn).launches.foldl (fun s l => s.launchDone fn l true) s2
    let s4 := s3.onFunc fn fun f => { f with st := .killed, saved := [] }
    { s4 with
      pool := s4.pool.filter fun e => e.fn != fn
      colls := s4.colls.filter fun o => o.fn != fn
      rastSubs := s4.rastSubs.filter fun o => !(o.fn == fn && s4.rastBuffered o)
      rastOrders := s4.rastOrders.filter fun o => o.fn != fn }

/-- TAG_PARITY_ERROR (R442). (log entry 47: DEDUCED) -/
def execTagParityError (m : TagError) (s : State) : Out :=
  match m.place with
  | some place => .next ((s.dropCopies fun c => c.place == place && c.sector / 4 == m.line).countCorrected m.die)
  | none =>
    let tval := m.die % 4 + m.group % 16 * 4 + (!m.ownerGood).toNat * 64
    if m.ownerGood then
      .next (if m.dirty then (s.kill m.owner tval).countUncorr m.die else s.countCorrected m.die)
    else
      let fns := ((s.die m.die).ways.getD m.group []).eraseDups
      .next ((fns.foldl (fun s fn => s.kill fn tval) s).countUncorr m.die)

/-- SWATCH_TAG_REPAIR (R370, R424, R442): an entry read with a parity mismatch becomes INVALID, and its waiting lanes go on with MISS. A
kind 2 notice goes to the physical function's fault area. -/
def execSwatchTagRepair (die set way : Nat) (read : BitVec 128) (s : State) : Out :=
  if 4 ≤ die ∨ 2 ^ 17 ≤ set ∨ 16 ≤ way ∨ oddOnes read.toNat 128 = false then .next s
  else
    let n := die * 2 ^ 21 + set * 16 + way
    let t := s.swTag n
    let s1 := s.setSwTag n { t with st := .invalid, doom := false, dep := 0, stamp := 0, inv := false }
    let s2 := (s1.countCorrected die).swSettle n
    .next (s2.appendRecord 0 (noticeRecord 2 (die + set * 4 + way * 2 ^ 19) read.toNat) [] 4096)

/-! ## Link failures and thermal trips (R454, R478) -/

/-- Two dies are the two ends of a link. -/
def linked (a b x y : Nat) : Bool := (x == a && y == b) || (x == b && y == a)

/-- The home of a virtual address is at the other end of the link of two dies. -/
def State.across (s : State) (p : Panel) (mode : Mode) (a b va : Nat) : Bool :=
  match s.look p none (BitVec.ofNat 64 va) .read mode with
  | .phys pa _ => linked a b (dieOf p.core) (homeDie pa)
  | _ => false

/-- Some byte of a tensor lies across the link. -/
def State.tensorAcross (s : State) (p : Panel) (mode : Mode) (a b : Nat) (t : Tensor) : Bool :=
  t.site == .global && t.places.any (s.across p mode a b)

/-- A copy has bytes still to move across the link. -/
def State.copyAcross (s : State) (p : Panel) (a b : Nat) (o : CopyOp) : Bool :=
  ((List.range (o.len - o.done)).map (o.done + ·)).any fun k =>
    (o.dst.site == .global && s.across p o.mode a b (o.dst.byteAddr k)) ||
      (o.src.site == .global && (o.sources k).any (s.across p o.mode a b))

/-- The bytes a collective operation reads or writes next. -/
def CollOp.range (o : CollOp) : Nat × Nat :=
  match o.desc, o.out with
  | none, _ => (o.group, 64)
  | some g, none => (o.send, o.sendBytes g.size g.rank)
  | some _, some bs => (o.recv, bs.length)

/-- An engine works for the panel across the link of two dies: what its operations have still to reach counts as in flight. (log entry 80:
DEDUCED) -/
def State.engineAcross (s : State) (p : Panel) (a b : Nat) : Bool :=
  s.copyOps.any (fun o => o.panel == p.id && s.copyAcross p a b o) ||
    s.xfms.any (fun o => o.panel == p.id && ((o.src :: o.dst :: o.idx.toList).any (s.tensorAcross p o.mode a b))) ||
    s.rastSubs.any (fun o => o.panel == p.id && s.rastMay o && (o.nextPixel.any fun n => s.across p o.mode a b (o.pixelAddr n))) ||
    s.rays.any (fun t => t.panel == p.id && (((p.ray t.record).settle p.scratch 130).any fun r => s.across p t.mode a b (stepAddr r.next))) ||
    s.colls.any fun o => o.panel == p.id && ((List.range o.range.2).any fun i => s.across p o.mode a b (o.range.1 + i))

/-- The lane waits at SCWAIT for an entry that is homed at the other end of the link. -/
def waitsAcross (p : Panel) (a b : Nat) (l : Lane) : Bool :=
  match l.held with
  | some (.scwait n ..) => linked a b (dieOf p.core) (entryDie n)
  | _ => false

/-- An atomic's step reaches memory at the other end of the link. -/
def stepAcross (p : Panel) (a b : Nat) (x : AtomStep) : Bool :=
  match x.place with
  | .phys _ _ pa => linked a b (dieOf p.core) (homeDie pa)
  | .scratch .. => false

/-- The panel has an access in flight on the link of two dies: a value that has not landed, a store or an atomic on its way, a write-back, a
swatch operation, a table walk, or an engine's transfer (R454). -/
def State.usesLink (s : State) (p : Panel) (a b : Nat) : Bool :=
  p.skeins.any (fun k => k.outs.any (fun w => w.homes.any fun h => linked a b (dieOf p.core) h) || k.lanes.any (waitsAcross p a b)) ||
    s.atoms.any (fun x => x.panel == p.id && stepAcross p a b x) ||
    s.inflight.any (fun x => x.panel == p.id && linked a b (dieOf x.core) (homeDie x.pa)) ||
    s.writeBacks.any (fun x => x.panel == p.id && linked a b (dieOf x.core) (homeDie (128 * x.line))) ||
    s.swWalks.any (fun x => x.panel == p.id && (dieOf x.core == a || dieOf x.core == b)) ||
    s.walks.any (fun w => w.panel == p.id && w.stage == .running && w.reads.any fun r => linked a b (dieOf w.core) (homeDie r.pa)) ||
    s.engineAcross p a b

/-- DIE_LINK_FAILURE (R454, R480). -/
def execDieLinkFailure (a b : Nat) (s : State) : Out :=
  if a = b ∨ 4 ≤ a ∨ 4 ≤ b then .next s
  else .next (s.panels.foldl (fun s p =>
    if s.usesLink p a b then s.haltAll [p] (if dieOf p.core = a then b else a) 1 else s) s)

/-- THERMAL_TRIP (R478): the die's panels stop, and no panel comes to it; the device is reset once they are gone. -/
def execThermalTrip (die : Nat) (s : State) : Out :=
  if 4 ≤ die then .next s
  else .next ({ s.haltAll (s.panels.filter fun p => dieOf p.core == die) 0 5 with
    tripped := if s.tripped.contains die then s.tripped else s.tripped ++ [die] })

end Sys2Proof.Machine
end

