-- ==== Sys2Proof/Machine/Platform.lean ====
section
/-!
DEFINITION. Sys2Proof/Machine/Platform.lean: functions created and reset (R420, R466), boot (R472, R455, R456), power (R476), resets
(R482), attestation (R474), the route table (R458) and the host aperture (R467 to R469).
-/
namespace Sys2Proof.Machine

/-! ## Functions come to life (R419, R420, R421) -/

/-- A function leaves every rotation table at once. -/
def State.leaveRotations (s : State) (fn : Nat) : State :=
  (s.clusters.map fun x => x.1).foldl (fun s c =>
    match s.rotation? c with
    | none => s
    | some r =>
      let gone := r.drop fun x => x == fn
      s.setRotation c (if r.fn? = some fn then { gone with since := s.time, ending := false } else gone)) s

/-- The record that firmware writes, with every function register at its reset value and the windows of boot kept. -/
def Func.created (f : Func) (m : FnSetup) : Func :=
  { Func.blank with
    st := .active
    clusters := m.clusters
    root1 := m.root1
    root2 := m.root2
    saveBase := m.saveBase.toNat
    saveSize := m.saveSize.toNat
    share := m.share.val
    margin := m.margin.val
    tmask := m.tmask.val
    windows := f.windows }

/-- A function becomes ACTIVE: its registers and queues start again, and what the caches hold for it is discarded (R420). -/
def State.createFn (s : State) (fn : Nat) (m : FnSetup) : State :=
  let s1 := (s.leaveRotations fn).onFunc fn fun f => f.created m
  let here := (List.range 32).filter (inPartition m.clusters)
  let s2 := here.foldl (fun s c => s.joinCluster c fn (sliceOf m.slices c)) s1
  let s3 : State := { s2 with
    tlbs := s2.tlbs.filter (fun t => t.fn != fn)
    walkCopies := s2.walkCopies.filter (fun w => w.fn != fn)
    pool := s2.pool.filter fun e => e.fn != fn }
  s3.dropCopies fun c => decide (768 ≤ c.place) && c.fn == fn

/-- Firmware keeps to R419 and R421: the save region is whole pages, and every cluster has room for the function. -/
def State.setupOk (s : State) (fn : Nat) (m : FnSetup) : Bool :=
  m.saveBase.toNat % 4096 == 0 && m.saveSize.toNat % 4096 == 0
    && (s.leaveRotations fn).slicesOk ((List.range 32).filter (inPartition m.clusters)) m.slices

/-- FUNCTION_CREATE (R420): from ABSENT or KILLED, once the panels of a killed function are gone. (log entry 53: DEDUCED) -/
def execFunctionCreate (fn : Nat) (m : FnSetup) (s : State) : Out :=
  if s.boot ≠ 2 ∨ 65 ≤ fn ∨ (s.func fn).st = .active ∨ s.panels.any (fun p => p.fn == fn) ∨ !s.setupOk fn m then .next s
  else .next (s.createFn fn m)

/-- The slice lengths a function has in the rotation tables. -/
def State.slicesOf (s : State) (fn : Nat) : List (Nat × Nat) :=
  s.clusters.filterMap fun x => (x.2.table.find? fun y => y.1 == fn).map fun y => (x.1, y.2)

/-- A function's record as firmware would write it again (R466). -/
def State.setupAgain (s : State) (fn : Nat) : FnSetup :=
  let f := s.func fn
  { clusters := f.clusters, slices := s.slicesOf fn, root1 := f.root1, root2 := f.root2, saveBase := BitVec.ofNat 64 f.saveBase
    saveSize := BitVec.ofNat 64 f.saveSize, share := Fin.ofNat 256 f.share, margin := Fin.ofNat 64 f.margin
    tmask := Fin.ofNat 256 f.tmask }

/-- A killed function that a reset brings back is created again once its panels are gone (R466). -/
def State.settleReset (s : State) (fn : Nat) : State :=
  if (s.func fn).resetting && !(s.panels.any fun p => p.fn == fn) then s.createFn fn (s.setupAgain fn) else s

/-- Every reset under way. -/
def State.settleResets (s : State) : State :=
  if s.fns.any fun f => f.resetting then (List.range s.fns.length).foldl State.settleReset s else s

/-! ## Device resets (R466, R478, R482) -/

/-- An address that can name a byte of HBM4 under some interleave share (R455). -/
def memoryAddress (a : Nat) : Bool := backed 0 a || (decide (interBase ≤ a) && decide (a < interBase + 4 * heapOff))

/-- Contents the spec leaves open: some bytes of HBM4, in canonical form. -/
def anyMemory (n : Nat) : Bytes :=
  (Config.memoryAfter n).foldl (fun (m : Bytes) c => if memoryAddress c.1 then m.set c.1 c.2 else m) []

/-- The part after a device reset with some HBM4 contents. What the environment will still do stays to come. -/
def State.restart (s : State) (m : Bytes) (used : Nat) : State :=
  { State.reset with mem := m, hbm := m, inputs := s.inputs, free := s.free + used, nextId := s.nextId }

/-- A reset that clears all device state; HBM4 contents are then unspecified (R482). -/
def State.coldReset (s : State) : State := s.restart (anyMemory s.free) 1

/-- COLD_RESET (R482). -/
def execColdReset (s : State) : Out := .next s.coldReset

/-- The lines some byte of which L2 and HBM4 hold values for. -/
def State.knownLines (s : State) : List Nat := ((s.mem ++ s.hbm).map fun c => c.1 / 128).eraseDups

/-- HBM4 contents that a warm reset keeps: for a line that was not written back the value in HBM4 is the older or the newer one. (log entry 60: DEDUCED) -/
def State.keptMemory (s : State) : Bytes :=
  s.knownLines.zipIdx.foldl (fun (m : Bytes) (x : Nat × Nat) =>
    let new := lineBytes s.mem x.1
    if new = lineBytes s.hbm x.1 then m else if Config.choice (s.free + x.2) % 2 = 0 then m else m.put (128 * x.1) new) s.hbm

/-- WARM_RESET (R482): HBM4 contents are kept, those of L2 are not. -/
def execWarmReset (s : State) : Out := .next (s.restart s.keptMemory s.knownLines.length)

/-- FUNCTION_LEVEL_RESET (R466): a kill and a new creation; of the physical function, a device reset. (log entry 56: DEDUCED) -/
def execFunctionLevelReset (fn : Nat) (s : State) : Out :=
  if s.boot ≠ 2 ∨ 65 ≤ fn ∨ (s.func fn).st = .absent then .next s
  else if fn = 0 then .next s.coldReset
  else .next ((s.kill fn 0).onFunc fn fun f => { f with resetting := true }).settleResets

/-! ## Boot (R472) -/

/-- A memory window is legal under an interleave share (R456). -/
def windowOk (inter : Nat) (w : Window) : Bool :=
  w.base % 2 ^ 21 == 0 && w.size % 2 ^ 21 == 0 && decide (0 < w.size) &&
    (if w.interleaved then decide (interBase ≤ w.base) && decide (w.base + w.size ≤ interBase + 4 * inter)
     else decide (w.base < interBase) && decide (w.base % dieSpan + w.size ≤ heapOff - inter))

/-- The windows a boot map gives a function. -/
def windowsOf (ws : List (Nat × Nat × Nat × Bool)) (fn : Nat) : List Window :=
  (ws.filter fun w => w.1 == fn).map fun w => ⟨w.2.1, w.2.2.1, w.2.2.2⟩

/-- Platform firmware keeps to R455 and R456, and the hypervisor image fits the firmware range. -/
def bootLegal (m : BootMap) : Bool :=
  m.interleave % 2 ^ 30 == 0 && decide (m.interleave ≤ heapOff) && decide (m.hypAt + m.hypervisor.length ≤ firmwareSize)
    && (List.range 65).all (fun fn => decide ((windowsOf m.windows fn).length ≤ 16) && (windowsOf m.windows fn).all (windowOk m.interleave))
    && m.windows.all (fun w => decide (w.1 < 65))
    && m.windows.all fun w => m.windows.all fun v => w.1 == v.1 || !overlap w.2.1 w.2.2.1 v.2.1 v.2.2.1

/-- The hypervisor image stands at one offset in every die's firmware range (R408). -/
def State.placeImage (s : State) (at_ : Nat) (image : List Byte) : State :=
  (List.range 4).foldl (fun (s : State) d => s.setMem (s.mem.put (firmwareBase d + at_) image) (firmwareBase d + at_) image.length) s

/-- The state after the images are verified: map, windows, way groups, budgets (R475), entry and sums. -/
def State.booted (s : State) (m : BootMap) : State :=
  let s1 := s.placeImage m.hypAt m.hypervisor
  { s1 with
    boot := 2
    interleave := m.interleave
    hypEntry := m.hypEntry
    hypConst := m.hypConst
    platformSum := sha3 m.platform
    hypSum := sha3 m.hypervisor
    fns := s1.fns.zipIdx.map fun (x : Func × Nat) => { x.1 with windows := windowsOf m.windows x.2 }
    dies := s1.dies.zipIdx.map fun (x : Die × Nat) =>
      { x.1 with ways := m.ways.getD x.2 (List.replicate 16 []), budget := m.budgets.getD x.2 650000 } }

/-- BOOT (R472): both images are verified, the maps are fixed, and the physical function is created. An image that fails never runs. -/
def execBoot (m : BootMap) (s : State) : Out :=
  if s.boot ≠ 0 then .next s
  else if !Config.signed m.platform || !Config.signed m.hypervisor then .next { s with boot := 1 }
  else if !bootLegal m || !s.setupOk 0 m.setup then .next s
  else .next ((s.booted m).createFn 0 m.setup)

/-! ## Power (R476, R481) -/

/-- One comparison of the power arbiter for a die. -/
def Die.arbitrate (d : Die) (p : Nat) : Die :=
  let d1 : Die := if d.kappa = 0 then { d with kappa0 := (d.kappa0 + 1) % 2 ^ 64 } else d
  if 19 * d.budget < 20 * p then
    (if 0 < d.kappa then { d1 with kappa := d.kappa - 1 }
     else if 750 < d.clock then { d1 with clock := d.clock - 25, clkDown := (d.clkDown + 1) % 2 ^ 64 } else d1)
  else if 4 * p < 3 * d.budget then
    (if d.clock < 1500 then { d1 with clock := d.clock + 25 } else { d1 with kappa := min 7 (d.kappa + 1) })
  else d1

/-- POWER_INTERVAL (R476, R481): the comparison that is due 10 µs after the one before it. -/
def execPowerInterval (die : Nat) (m : PowerSample) (s : State) : Out :=
  if s.time < (s.die die).sampled + tick 10 then .next s
  else .next (s.onDie die fun d =>
    { d.arbitrate m.milliwatts with power := m.milliwatts % 2 ^ 64, temp := m.temperature % 2 ^ 64, sampled := s.time })

/-! ## Attestation and routes (R458, R474) -/

/-- A list of bytes cut or filled with zeros to a length. -/
def fitBytes (bs : List Byte) (n : Nat) : List Byte := (List.range n).map fun i => bs.getD i 0

/-- Bytes 0 to 175 of a report (R474). -/
def State.report (s : State) (fn : Nat) (nonce : List Byte) (handle : Option Nat) : List Byte :=
  let found := handle.bind fun h => (s.func fn).pattern? (h % 2 ^ 16)
  leBytes 0x54415250 4 ++ leBytes 1 2 ++ leBytes fn 1 ++ leBytes found.isSome.toNat 1 ++ leBytes (handle.getD 0) 2 ++ leBytes 0 6
    ++ fitBytes nonce 32 ++ s.platformSum ++ s.hypSum ++ fitBytes ((found.map fun p => p.measure).getD []) 32 ++ sha3 (Config.identityKey 0)

/-- A die's counters, in the order of R481's table. -/
def Die.counters (d : Die) : List Byte :=
  [d.corrected, d.uncorr, d.fragStall, d.mstartWait, d.clkDown, d.kappa0, d.power, d.temp].flatMap fun x => leBytes x 8

/-- What the DOE mailbox of a function answers (R472, R473, R474); platform firmware's counters reach the physical function alone (R481). -/
def State.doeAnswer (s : State) (fn : Nat) (nonce : List Byte) (m : DoeRequest) : List Byte :=
  if s.boot = 1 then [1]
  else match m with
  | .report handle => s.report fn nonce handle ++ fitBytes (Config.signature (s.report fn nonce handle)) 2420
  | .certificates => Config.certificates
  | .counters die => if fn = 0 ∧ die < 4 then (s.die die).counters else []

/-- ATTESTATION_REQUEST (R472, R473, R474, R481). (log entry 55: DESIGN CHOICE) -/
def execAttestationRequest (fn : Nat) (nonce : List Byte) (m : DoeRequest) (s : State) : Out :=
  if 65 ≤ fn ∨ s.boot = 0 then .next s
  else .next (s.onFunc fn fun f => { f with answer := s.doeAnswer fn nonce m })

/-- ROUTE_TABLE_LOAD (R458, R481). -/
def execRouteTableLoad (m : RouteLoad) (s : State) : Out :=
  if s.boot ≠ 2 then .next s
  else .next { s with device := m.device % 2 ^ 16, routes := m.routes.map fun r => (r.1 % 2 ^ 16, r.2 % 2 ^ 18) }

/-! ## The host aperture (R467 to R469) -/

/-- The intermediate address of an aperture offset. -/
def Func.apAddress (f : Func) (off : Nat) : Nat := (bits f.apBase.toNat 56 36 * 2 ^ 36 + off) % 2 ^ 57

/-- The physical address of an aperture access, `none` when it fails; a table that no memory backs stops the model. -/
def State.apertureAt (s : State) (fn off : Nat) (write : Bool) : Except Fault (Option Nat) :=
  let f := s.func fn
  if !f.apBase.getLsbD 0 then .ok none
  else
    match (walkSecond (s.walkEnv fn 0 false) (f.apAddress off) 5 f.root2.toNat).2 with
    | .error x => if x.kind = 6 then .error .unbacked else .ok none
    | .ok l => .ok (if write && !entryW l.entry then none else some l.out)

/-- A host access failed: the first one since the last read is kept, and all are counted (R468). -/
def State.apertureFails (s : State) (fn off : Nat) : State :=
  s.onFunc fn fun f =>
    { f with
      apFault := if f.apFault.getLsbD 63 then f.apFault else BitVec.ofNat 64 (2 ^ 63 + f.apAddress off)
      apCount := f.apCount + 1 }

/-- The function answers BAR accesses. -/
def State.barsLive (s : State) (fn : Nat) : Bool := s.boot == 2 && decide (fn < 65) && (s.func fn).st != .absent

/-- The bytes of an access that lie in its first page. -/
def firstPage (off n : Nat) : Nat := min n (4096 - off % 4096)

/-- The bytes of a host read, page by page. (log entry 54: DEDUCED) -/
def State.apertureRead (s : State) (fn off n : Nat) : Nat → Except Fault (List Byte × State)
  | 0 => .ok ([], s)
  | fuel + 1 =>
    if n = 0 then .ok ([], s)
    else
      let k := firstPage off n
      match s.apertureAt fn off false with
      | .error e => .error e
      | .ok r =>
        let here := match r with
          | some pa => (s.mem.list pa k, s)
          | none => (List.replicate k 0xFF, s.apertureFails fn off)
        match here.2.apertureRead fn (off + k) (n - k) fuel with
        | .error e => .error e
        | .ok (bs, s1) => .ok (here.1 ++ bs, s1)

/-- The bytes of a posted write are performed at the home L2, page by page. -/
def State.apertureWrite (s : State) (fn off : Nat) (bs : List Byte) : Nat → Except Fault State
  | 0 => .ok s
  | fuel + 1 =>
    if bs.isEmpty then .ok s
    else
      let k := firstPage off bs.length
      match s.apertureAt fn off true with
      | .error e => .error e
      | .ok r =>
        let s1 : State := match r with
          | some pa => s.setMem (s.mem.put pa (bs.take k)) pa (bs.take k).length
          | none => s.apertureFails fn off
        s1.apertureWrite fn (off + k) (bs.drop k) fuel

/-- APBASE takes a value (R468): BASE and EN are written, the reserved bits stay zero. -/
def Func.setApBase (f : Func) (w : Dword) : Func := { f with apBase := BitVec.ofNat 64 (bits w.toNat 56 36 * 2 ^ 36 + w.toNat % 2) }

/-- The read of APFAULT clears VALID (R468). -/
def Func.apFaultRead (f : Func) : Func := { f with apFault := BitVec.ofNat 64 (f.apFault.toNat % 2 ^ 63) }

/-- LSTAT (R168). -/
def Func.lstat (f : Func) : Nat := f.last % 2 ^ 8 * 2 ^ 56 + f.refused % 2 ^ 16 * 2 ^ 32 + f.accepted % 2 ^ 32

/-- What a naturally aligned 64-bit word of BAR0 reads as (R166, R467, R468); the MSI-X table is two entries of four words, and the pending
array follows it. (log entry 76: PRESUMED) (log entry 96: DESIGN CHOICE) -/
def Func.bar0 (f : Func) (off : Nat) : Nat :=
  if off = 0x18 then f.patstat.toNat
  else if off = 0x20 then f.lstat
  else if off = 0x1000 then f.apBase.toNat
  else if off = 0x1008 then f.apFault.toNat
  else if off = 0x1010 then f.apCount.toNat
  else if 0x2000 ≤ off ∧ off < 0x2020 then
    (f.msix.get ((off - 0x2000) / 4)).toNat + 2 ^ 32 * (f.msix.get ((off - 0x2000) / 4 + 1)).toNat
  else if off = 0x2020 then f.msixPending
  else 0

/-- A read of BAR0 (R467). An access that is not one naturally aligned 64-bit word reads zeros. -/
def Func.bar0Read (f : Func) (off n : Nat) : Func :=
  if n = 8 ∧ off % 8 = 0 then
    let g : Func := { f with answer := leBytes (f.bar0 off) 8 }
    if off = 0x1008 then g.apFaultRead else g
  else { f with answer := List.replicate n 0 }

/-- The pending messages of unmasked vectors are sent (R467). -/
def Func.sendPending (f : Func) : Func :=
  [0, 1].foldl (fun f v =>
    if f.msixPending.testBit v && !f.masked v then { f with msixPending := f.msixPending - 2 ^ v, sent := v :: f.sent } else f) f

/-- Two words of the MSI-X table are written: an entry's message address, then its data and its mask (R467). (log entry 76: PRESUMED) -/
def Func.setMsix (f : Func) (off : Nat) (w : Dword) : Func :=
  let i := (off - 0x2000) / 4
  let lo := if i % 4 = 0 then loWord w &&& ~~~3#32 else loWord w
  let hi := if i % 4 = 2 then hiWord w &&& 1 else hiWord w
  { f with msix := (f.msix.set i lo).set (i + 1) hi }.sendPending

/-- A write to BAR0 (R166, R467, R468): one naturally aligned 64-bit word; any other write is ignored. -/
def bar0Write (q : HostReq) (off : Nat) (w : Dword) (s : State) : Out :=
  if off = 0 then execLaunch q w s
  else if off = 8 then execPatreg q w s
  else if off = 0x10 then execPatunreg q w s
  else if off = 0x1000 then .next (s.onFunc q.fn fun f => f.setApBase w)
  else if 0x2000 ≤ off ∧ off < 0x2020 ∧ off % 8 = 0 then .next (s.onFunc q.fn fun f => f.setMsix off w)
  else .next s

/-- The request completes as Unsupported Request: a read brings no bytes, a write has no effect (R466, R472). -/
def State.unsupported (s : State) (q : HostReq) : Bool := !q.root || !s.barsLive q.fn

/-- HOST_APERTURE_READ (R466 to R469): the bytes read stand in the function's answer; an access the function does not complete gives none. -/
def execHostApertureRead (q : HostReq) (a : BarAddr) (n : Nat) (s : State) : Out :=
  if s.unsupported q then .next (s.onFunc q.fn fun f => { f with answer := [] })
  else match a with
  | .bar0 off => .next (s.onFunc q.fn fun f => if 2 ^ 14 < off + n then { f with answer := [] } else f.bar0Read off n)
  | .bar2 off =>
    if 2 ^ 36 < off + n then .next (s.onFunc q.fn fun f => { f with answer := [] })
    else
      match s.apertureRead q.fn off n (n + 1) with
      | .error e => .fault e
      | .ok (bs, s1) => .next (s1.onFunc q.fn fun f => { f with answer := bs })

/-- HOST_APERTURE_WRITE (R466 to R469). -/
def execHostApertureWrite (q : HostReq) (a : BarAddr) (data : List Byte) (s : State) : Out :=
  if s.unsupported q then .next s
  else match a with
  | .bar0 off => if data.length = 8 then bar0Write q off (BitVec.ofNat 64 (leNat data)) s else .next s
  | .bar2 off =>
    if 2 ^ 36 < off + data.length then .next s
    else
      match s.apertureWrite q.fn off data (data.length + 1) with
      | .error e => .fault e
      | .ok s1 => .next s1

/-- APBASE (R468). -/
def execApbase (q : HostReq) (w : Dword) (s : State) : Out :=
  if s.unsupported q then .next s else .next (s.onFunc q.fn fun f => f.setApBase w)

/-- APFAULT (R468): the read clears VALID. -/
def execApfault (q : HostReq) (s : State) : Out :=
  if s.unsupported q then .next (s.onFunc q.fn fun f => { f with answer := [] })
  else .next (s.onFunc q.fn fun f => { f with answer := leBytes f.apFault.toNat 8 }.apFaultRead)

end Sys2Proof.Machine
end

