-- ==== Sys2Proof/Machine/Raster.lean ====
section
/-!
DEFINITION. Sys2Proof/Machine/Raster.lean: the rasteriser applies fragments (spec/19_geometry_and_rays.md R333 to R336).
-/
namespace Sys2Proof.Machine

/-- A submission changed by number. -/
def State.onRast (s : State) (id : Nat) (f : RastSub → RastSub) : State :=
  { s with rastSubs := s.rastSubs.map fun o => if o.id = id then f o else o }

/-- A fragment has been applied or given up: submissions that are over arrive, and a node instance whose last one it was completes. -/
def State.rastAfter (s : State) (o : RastSub) : State := (s.rastSettle s.rastFuel).nodeMayEnd o.fn o.node

/-- RAST_FRAGMENT_APPLY (R334, R336): the next fragment of submission `n` in cluster `c`. A fragment whose address fails is not
written, and the first such address stays with the submission. -/
def execRastFragmentApply (c n : Nat) (s : State) : Out :=
  match s.rastSubs.find? fun o => o.id == n && clusterOf o.core == c && s.rastMay o with
  | none => .next s
  | some o =>
    match o.nextPixel with
    | none => .next (s.rastAfter o)
    | some px =>
      let va := BitVec.ofNat 64 (o.pixelAddr px)
      let skip : State := ((s.endWalks o.panel none).onRast n fun x =>
        { x with next := px + 1, fault := some (x.fault.getD va) }).rastAfter o
      match s.lookAt o.panel o.fn o.core none va .write o.mode with
      | .miss => .next (s.startWalkAt o.panel o.fn o.core none 0 va .write o.mode)
      | .unbacked => .fault .unbacked
      | .declined => .next ({ s with rastSubs := s.rastSubs.filter fun x => x.id != n }.rastAfter o)
      | .tfault | .perm => .next skip
      | .phys pa _ =>
        .next ((((s.flushCore o.core).endWalks o.panel none).applyFragment o px pa |>.onRast n fun x => { x with next := px + 1 }).rastAfter o)

end Sys2Proof.Machine
end

