-- ==== Sys2Proof/Machine/Events.lean ====
section
/-!
DEFINITION. Sys2Proof/Machine/Events.lean: results becoming available and writes landing (R25, R28, R30, R84), parks that end (R95), and
what follows at once from a change of the part: waits that are over (R234, R285, R346), deferred steps, pools, rotations and resets.
-/
namespace Sys2Proof.Machine

/-! ## Results and writes -/

/-- Lanes of a skein trap outside an issue event: the entries count for selections from the next cycle (R131). -/
def Panel.enterLate (p : Panel) (k cycle : Nat) (hypEntry : Dword) (ts : List Trap) : Panel :=
  match p.skein? k with
  | none => p
  | some sk => (p.takeTraps k cycle hypEntry ts).onSkein k fun q => q.entered sk cycle

/-- Lanes of a skein take FPEXC when their result comes; a standing selection that would have followed is made anew (R84). -/
def State.landTraps (s : State) (panel k : Nat) (ts : List Trap) : State :=
  if ts.isEmpty then s
  else s.onPanel panel fun p =>
    if p.halt.isSome then p
    else (p.onSkein k fun sk => { sk with sel := none, waitStart := none }).enterLate k (s.cycle p.core) s.hypEntry ts

/-- The lanes of an outstanding write whose data is poisoned, and what POISON names for the first. -/
def VarWrite.poison (w : VarWrite) : Word × Dword := (laneMask (w.bad.map fun b => b.lane), (w.bad.head?.map fun b => b.tval).getD 0)

/-- RESULT_AVAILABLE (R25, R28, R33, R84, R309). (log entry 3: DESIGN CHOICE) -/
def execResultAvailable (p k : Nat) (s : State) : Out :=
  match s.panel? p with
  | none => .next s
  | some q =>
    match (q.skein? k).bind fun sk => sk.dueResult (s.cycle q.core) with
    | none => .next s
    | some r => .next (((s.onPanel p fun q => q.onSkein k fun sk => sk.landResult r).poisonHalt p k r.bad (BitVec.allOnes 64)).landTraps p k r.exc)

/-- The outstanding write numbered `n` of a skein, once everything it waits for has come. -/
def Skein.landable (k : Skein) (n : Nat) : Option VarWrite := k.outs.find? fun w => w.seq == n && w.awaits.isEmpty

/-- VARIABLE_WRITE_LAND (R28, R30, R33, R84, R219). -/
def execVariableWriteLand (p k n : Nat) (s : State) : Out :=
  match s.panel? p with
  | none => .next s
  | some q =>
    match (q.skein? k).bind fun sk => sk.landable n with
    | none => .next s
    | some w => .next (((s.onPanel p fun q => q.onSkein k fun sk => sk.landOut w).poisonHalt p k w.poison.1 w.poison.2).landTraps p k w.exc)

/-! ## Parks end (R95) -/

/-- The lane is unparked; selections see it from the next cycle (R131). -/
def Lane.unpark (a : Lane) (cycle : Nat) : Lane := { a with park := none, wake := cycle + 1 }

/-- The lane's count has reached zero. -/
def Lane.parkOver (a : Lane) (cycle : Nat) : Bool :=
  match a.park with
  | some (.till c) => decide (c ≤ cycle)
  | _ => false

/-- PARK_EXPIRE (R95). -/
def execParkExpire (p k l : Nat) (s : State) : Out :=
  match s.panel? p with
  | none => .next s
  | some q =>
    let cycle := s.cycle q.core
    if (q.skein? k).any (fun sk => (sk.lane l).parkOver cycle) then
      .next (s.onPanel p fun q => q.onSkein k fun sk => sk.onLane l fun a => a.unpark cycle)
    else .next s

/-- Every lane of the skein that is not exited is parked or held, and one is parked. (log entry 62: DEDUCED) -/
def Skein.allStill (k : Skein) : Bool :=
  k.lanes.all (fun a => a.exited || a.park.isSome || a.held.isSome || a.yielding) && k.lanes.any fun a => !a.exited && a.park.isSome

/-- PARK_ALL_STILL (R95). -/
def execParkAllStill (p k : Nat) (s : State) : Out :=
  match s.panel? p with
  | none => .next s
  | some q =>
    if (q.skein? k).any Skein.allStill then
      .next (s.onPanel p fun q => q.onSkein k fun sk =>
        { sk with lanes := sk.lanes.map fun a => if a.park.isSome && !a.exited then a.unpark (s.cycle q.core) else a })
    else .next s

/-! ## Waits that are over -/

/-- What a held lane's wait has come to: nothing yet, or it is over, with a trap or without. Waits at a barrier, an entry, a pipe or a
REPACK end with the event that ends them. A lane held at TWAIT does not resume a thread whose fault another lane has reported: the
TWAIT that resumes it is one that issues (R346, R347). A lane that waits on a marked object or record stops its panel, held as it is (R387,
R479). (log entry 69: DEDUCED) -/
def State.waitEnd (s : State) (p : Panel) (k l : Nat) (a : Lane) : State × Option (Option Trap) :=
  match a.waitDue, a.held with
  | some t, _ => (s, some (some ⟨l, t.1, t.2.1, t.2.2, false⟩))
  | none, some (.mbw panel off phase scope at_) =>
    let o := s.obj panel off
    if s.sickObj panel off then (s.poisonHalt p.id k (laneBit l) (BitVec.allOnes 64), none)
    else if objPhase o = phase then (s, none)
    else (s.acquire p.core p.fn scope, some (if objFlt o then some ⟨l, .tfeng, objFaddr o, at_, false⟩ else none))
  | none, some (.cpwait chan target scope at_) =>
    let c := p.chan chan
    if target ≤ c.ptr then (s.acquire p.core p.fn scope, some none)
    else if c.flt then (s, some (some ⟨l, .tfeng, c.faddr, at_, false⟩))
    else (s, none)
  | none, some (.twait record dst sa at_) =>
    let r := ((s.panel? p.id).getD p).ray record
    if r.flag 3 && r.flag 8 then (s, none)
    else match s.waitLane p.id k l record dst sa with
    | .go s1 => (s1, some none)
    | .trap s1 .poison v => (s1.poisonHalt p.id k (laneBit l) v, none)
    | .trap s1 c v => (s1, some (some ⟨l, c, v, at_, false⟩))
    | .hold s1 => (s1, none)
  | _, _ => (s, none)

/-- The lanes of a skein whose waits are over go on or trap; one that traps stands at its instruction again (R391). While an event that the
skein has issued waits for its translations, a trap is noted and comes after it (R217, R453). -/
def State.endWaits (s : State) (p : Panel) (k : Nat) (sk : Skein) : State × List Trap :=
  sk.lanes.zipIdx.foldl (fun (acc : State × List Trap) (x : Lane × Nat) =>
    if x.1.held.isNone then acc
    else
      let r := acc.1.waitEnd p k x.2 x.1
      match r.2 with
      | none => (r.1, acc.2)
      | some none => (r.1.releaseLanes p.id k [x.2], acc.2)
      | some (some t) =>
        if sk.reads.isSome then
          (r.1.onPanel p.id fun q => q.onSkein k fun q => q.onLane x.2 fun a => { a with waitDue := some (t.cause, t.tval, t.epc) }, acc.2)
        else ((r.1.releaseLanes p.id k [x.2]).onPanel p.id fun q => q.onSkein k fun q =>
          q.onLane x.2 fun a => { a with pc := t.epc, waitDue := none }, acc.2 ++ [t])) (s, [])

/-- The STEP traps that lanes owe and are free to take (R392, R95; log entry 10: DEDUCED). -/
def Skein.owedSteps (k : Skein) (taken : List Trap) : List Trap :=
  k.lanes.zipIdx.filterMap fun (x : Lane × Nat) =>
    match x.1.stepDue with
    | some v => if x.1.free && !(taken.any fun t => t.lane == x.2) then some ⟨x.2, .step, v, x.1.pc, false⟩ else none
    | none => none

/-- What is over for a skein's lanes takes effect; traps come after an event that has issued and waits for its translations (R217, R453). (log
entry 57: DEDUCED) -/
def State.settleSkein (s : State) (panel k : Nat) : State :=
  match s.panel? panel with
  | none => s
  | some p =>
    match p.skein? k with
    | none => s
    | some sk =>
      if !p.active || !(sk.lanes.any fun a => a.held.isSome || a.stepDue.isSome) then s
      else
        let r := s.endWaits p k sk
        let steps := if sk.reads.isSome then [] else (((r.1.panel? panel).bind fun q => q.skein? k).map fun sk => sk.owedSteps r.2).getD []
        let ts := r.2 ++ steps
        if ts.isEmpty then r.1
        else r.1.onPanel panel fun q =>
          (q.onSkein k fun sk => sk.onLanes (ts.map fun t => t.lane) fun _ a => { a with stepDue := none }).enterLate k
            (s.cycle p.core) s.hypEntry ts

/-- Every skein's waits. -/
def State.settleWaits (s : State) : State :=
  s.panels.foldl (fun s p => p.skeins.foldl (fun s k => s.settleSkein p.id k.ix) s) s

/-- The device is reset when a thermal trip's panels are gone (R478). (log entry 48: DEDUCED) -/
def State.settleTrip (s : State) : State :=
  if s.tripped.isEmpty || s.panels.any (fun p => s.tripped.contains (dieOf p.core)) then s else s.coldReset

/-- What follows at once from any change. -/
def State.settle (s : State) : State :=
  let s1 := s.settleWaits
  let s2 := if s1.fns.any fun f => !f.patterns.isEmpty then s1.settleTriggers else s1
  s2.settleHeads.settleClusters.settleResets.settleTrip

end Sys2Proof.Machine
end

