-- ==== Sys2Proof/Machine/Dispatch.lean ====
section
/-!
DEFINITION. Sys2Proof/Machine/Dispatch.lean: one arm per constructor of Instr, each a direct call of that row's meaning.
-/
namespace Sys2Proof.Machine

def exec (i : Instr) (s : State) : Host.Outcome State Fault Refusal :=
  match i with
  | .nop z => Sys2Proof.Machine.execNop z s
  | .bra z => Sys2Proof.Machine.execBra z s
  | .brx z => Sys2Proof.Machine.execBrx z s
  | .call z => Sys2Proof.Machine.execCall z s
  | .callx z => Sys2Proof.Machine.execCallx z s
  | .ret z => Sys2Proof.Machine.execRet z s
  | .exit z => Sys2Proof.Machine.execExit z s
  | .park z => Sys2Proof.Machine.execPark z s
  | .yield z => Sys2Proof.Machine.execYield z s
  | .setfp z m => Sys2Proof.Machine.execSetfp z m s
  | .syscall z => Sys2Proof.Machine.execSyscall z s
  | .hcall z => Sys2Proof.Machine.execHcall z s
  | .tret z => Sys2Proof.Machine.execTret z s
  | .bkpt z => Sys2Proof.Machine.execBkpt z s
  | .srd z => Sys2Proof.Machine.execSrd z s
  | .srdElem z => Sys2Proof.Machine.execSrdElem z s
  | .swr z => Sys2Proof.Machine.execSwr z s
  | .swrFpmode z => Sys2Proof.Machine.execSwrFpmode z s
  | .swrFpflags z => Sys2Proof.Machine.execSwrFpflags z s
  | .swrVpc z => Sys2Proof.Machine.execSwrVpc z s
  | .swrElemVpc z => Sys2Proof.Machine.execSwrElemVpc z s
  | .swrPanelPreq z => Sys2Proof.Machine.execSwrPanelPreq z s
  | .dbgRead p => Sys2Proof.Machine.execDbgRead p s
  | .dbgWrite p => Sys2Proof.Machine.execDbgWrite p s
  | .dbgDrain p => Sys2Proof.Machine.execDbgDrain p s
  | .dbgDrainComplete p => Sys2Proof.Machine.execDbgDrainComplete p s
  | .tlbiVa z => Sys2Proof.Machine.execTlbiVa z s
  | .tlbiAll z => Sys2Proof.Machine.execTlbiAll z s
  | .tlbiProbe z => Sys2Proof.Machine.execTlbiProbe z s
  | .htlbiIpa z => Sys2Proof.Machine.execHtlbiIpa z s
  | .htlbiAll z => Sys2Proof.Machine.execHtlbiAll z s
  | .ctxsave z => Sys2Proof.Machine.execCtxsave z s
  | .ctxload z => Sys2Proof.Machine.execCtxload z s
  | .tevt z => Sys2Proof.Machine.execTevt z s
  | .iadd a => Sys2Proof.Machine.execIadd a s
  | .isub a => Sys2Proof.Machine.execIsub a s
  | .imul a => Sys2Proof.Machine.execImul a s
  | .imulh a => Sys2Proof.Machine.execImulh a s
  | .imad a => Sys2Proof.Machine.execImad a s
  | .imadw a => Sys2Proof.Machine.execImadw a s
  | .idiv a => Sys2Proof.Machine.execIdiv a s
  | .irem a => Sys2Proof.Machine.execIrem a s
  | .imin a => Sys2Proof.Machine.execImin a s
  | .imax a => Sys2Proof.Machine.execImax a s
  | .iabs a => Sys2Proof.Machine.execIabs a s
  | .ineg a => Sys2Proof.Machine.execIneg a s
  | .icmp a => Sys2Proof.Machine.execIcmp a s
  | .sel a => Sys2Proof.Machine.execSel a s
  | .mov a => Sys2Proof.Machine.execMov a s
  | .lea a => Sys2Proof.Machine.execLea a s
  | .and a => Sys2Proof.Machine.execAnd a s
  | .or a => Sys2Proof.Machine.execOr a s
  | .xor a => Sys2Proof.Machine.execXor a s
  | .not a => Sys2Proof.Machine.execNot a s
  | .andn a => Sys2Proof.Machine.execAndn a s
  | .shl a => Sys2Proof.Machine.execShl a s
  | .shr a => Sys2Proof.Machine.execShr a s
  | .sar a => Sys2Proof.Machine.execSar a s
  | .rol a => Sys2Proof.Machine.execRol a s
  | .popc a => Sys2Proof.Machine.execPopc a s
  | .clz a => Sys2Proof.Machine.execClz a s
  | .ctz a => Sys2Proof.Machine.execCtz a s
  | .brev a => Sys2Proof.Machine.execBrev a s
  | .bfx a => Sys2Proof.Machine.execBfx a s
  | .bfi a => Sys2Proof.Machine.execBfi a s
  | .prmt a => Sys2Proof.Machine.execPrmt a s
  | .iaddc a => Sys2Proof.Machine.execIaddc a s
  | .iclamp a => Sys2Proof.Machine.execIclamp a s
  | .fadd a => Sys2Proof.Machine.execFadd a s
  | .fsub a => Sys2Proof.Machine.execFsub a s
  | .fmul a => Sys2Proof.Machine.execFmul a s
  | .ffma a => Sys2Proof.Machine.execFfma a s
  | .fmin a => Sys2Proof.Machine.execFmin a s
  | .fmax a => Sys2Proof.Machine.execFmax a s
  | .fcmp a => Sys2Proof.Machine.execFcmp a s
  | .fcls a => Sys2Proof.Machine.execFcls a s
  | .fclsTest a => Sys2Proof.Machine.execFclsTest a s
  | .frnd a => Sys2Proof.Machine.execFrnd a s
  | .fscl a => Sys2Proof.Machine.execFscl a s
  | .fextExp a => Sys2Proof.Machine.execFextExp a s
  | .fextMant a => Sys2Proof.Machine.execFextMant a s
  | .fdot2 a => Sys2Proof.Machine.execFdot2 a s
  | .cvt a => Sys2Proof.Machine.execCvt a s
  | .frcp a => Sys2Proof.Machine.execFrcp a s
  | .frsq a => Sys2Proof.Machine.execFrsq a s
  | .fsqrt a => Sys2Proof.Machine.execFsqrt a s
  | .fdiv a => Sys2Proof.Machine.execFdiv a s
  | .fexp2 a => Sys2Proof.Machine.execFexp2 a s
  | .flog2 a => Sys2Proof.Machine.execFlog2 a s
  | .fsint a => Sys2Proof.Machine.execFsint a s
  | .fcost a => Sys2Proof.Machine.execFcost a s
  | .kop a => Sys2Proof.Machine.execKop a s
  | .kpop a => Sys2Proof.Machine.execKpop a s
  | .kffs a => Sys2Proof.Machine.execKffs a s
  | .vote a => Sys2Proof.Machine.execVote a s
  | .shfl a => Sys2Proof.Machine.execShfl a s
  | .plyred a => Sys2Proof.Machine.execPlyred a s
  | .plyscan a => Sys2Proof.Machine.execPlyscan a s
  | .elect a => Sys2Proof.Machine.execElect a s
  | .plyset a => Sys2Proof.Machine.execPlyset a s
  | .barArv a => Sys2Proof.Machine.execBarArv a s
  | .barWait a => Sys2Proof.Machine.execBarWait a s
  | .barSync a => Sys2Proof.Machine.execBarSync a s
  | .ld m => Sys2Proof.Machine.execLd m s
  | .st m => Sys2Proof.Machine.execSt m s
  | .atom m => Sys2Proof.Machine.execAtom m s
  | .red m => Sys2Proof.Machine.execRed m s
  | .cas m => Sys2Proof.Machine.execCas m s
  | .fence m => Sys2Proof.Machine.execFence m s
  | .cinvLine m => Sys2Proof.Machine.execCinvLine m s
  | .cinvAll m => Sys2Proof.Machine.execCinvAll m s
  | .cwb m => Sys2Proof.Machine.execCwb m s
  | .pref m => Sys2Proof.Machine.execPref m s
  | .obres m => Sys2Proof.Machine.execObres m s
  | .obrel m => Sys2Proof.Machine.execObrel m s
  | .obld m => Sys2Proof.Machine.execObld m s
  | .obst m => Sys2Proof.Machine.execObst m s
  | .mbi m => Sys2Proof.Machine.execMbi m s
  | .mba m => Sys2Proof.Machine.execMba m s
  | .mbw m => Sys2Proof.Machine.execMbw m s
  | .mbt m => Sys2Proof.Machine.execMbt m s
  | .rngnext m => Sys2Proof.Machine.execRngnext m s
  | .pipepush m => Sys2Proof.Machine.execPipepush m s
  | .pipepop m => Sys2Proof.Machine.execPipepop m s
  | .pipeServe p pipe => Sys2Proof.Machine.execPipeServe p pipe s
  | .cpy z m => Sys2Proof.Machine.execCpy z m s
  | .copySectorWrite p chan => Sys2Proof.Machine.execCopySectorWrite p chan s
  | .cptrPtr z chan => Sys2Proof.Machine.execCptrPtr z chan s
  | .cptrTail z chan => Sys2Proof.Machine.execCptrTail z chan s
  | .cptrRst z chan => Sys2Proof.Machine.execCptrRst z chan s
  | .cptrFadr z chan => Sys2Proof.Machine.execCptrFadr z chan s
  | .cpwait z scope chan => Sys2Proof.Machine.execCpwait z scope chan s
  | .xfm z m => Sys2Proof.Machine.execXfm z m s
  | .xfmComplete c => Sys2Proof.Machine.execXfmComplete c s
  | .qnt z m => Sys2Proof.Machine.execQnt z m s
  | .dqnt z m => Sys2Proof.Machine.execDqnt z m s
  | .mma z => Sys2Proof.Machine.execMma z s
  | .mdist z => Sys2Proof.Machine.execMdist z s
  | .mcacc z => Sys2Proof.Machine.execMcacc z s
  | .mcfin z => Sys2Proof.Machine.execMcfin z s
  | .arrayStart core => Sys2Proof.Machine.execArrayStart core s
  | .matrixTileComplete core tile bad => Sys2Proof.Machine.execMatrixTileComplete core tile bad s
  | .mwait z h => Sys2Proof.Machine.execMwait z h s
  | .mwaitH z h => Sys2Proof.Machine.execMwaitH z h s
  | .mwaitAll z => Sys2Proof.Machine.execMwaitAll z s
  | .fbind z m => Sys2Proof.Machine.execFbind z m s
  | .fbindUnb z n => Sys2Proof.Machine.execFbindUnb z n s
  | .coll z m => Sys2Proof.Machine.execColl z m s
  | .collMatch op m => Sys2Proof.Machine.execCollMatch op m s
  | .collComplete op => Sys2Proof.Machine.execCollComplete op s
  | .snapX z => Sys2Proof.Machine.execSnapX z s
  | .snapY z => Sys2Proof.Machine.execSnapY z s
  | .edge z => Sys2Proof.Machine.execEdge z s
  | .tricls z cullb => Sys2Proof.Machine.execTricls z cullb s
  | .rast z => Sys2Proof.Machine.execRast z s
  | .rastSubmissionArrive c n => Sys2Proof.Machine.execRastSubmissionArrive c n s
  | .rastFragmentApply c n => Sys2Proof.Machine.execRastFragmentApply c n s
  | .trace z pcnt => Sys2Proof.Machine.execTrace z pcnt s
  | .traversalFetch p n => Sys2Proof.Machine.execTraversalFetch p n s
  | .tresumeCont z => Sys2Proof.Machine.execTresumeCont z s
  | .tresumeShort z => Sys2Proof.Machine.execTresumeShort z s
  | .tresumeCommit z => Sys2Proof.Machine.execTresumeCommit z s
  | .tresumeEnd z => Sys2Proof.Machine.execTresumeEnd z s
  | .tresumeAbort z => Sys2Proof.Machine.execTresumeAbort z s
  | .twait z => Sys2Proof.Machine.execTwait z s
  | .repack z => Sys2Proof.Machine.execRepack z s
  | .repackExecute p => Sys2Proof.Machine.execRepackExecute p s
  | .sclk z m => Sys2Proof.Machine.execSclk z m s
  | .scwait z => Sys2Proof.Machine.execScwait z s
  | .scpop z => Sys2Proof.Machine.execScpop z s
  | .scpub z => Sys2Proof.Machine.execScpub z s
  | .scinvDep z drop => Sys2Proof.Machine.execScinvDep z drop s
  | .scinvKey z drop => Sys2Proof.Machine.execScinvKey z drop s
  | .invalidationVisit w die set => Sys2Proof.Machine.execInvalidationVisit w die set s
  | .scstamp z => Sys2Proof.Machine.execScstamp z s
  | .swatchTagRepair die set way read => Sys2Proof.Machine.execSwatchTagRepair die set way read s
  | .resultAvailable p k => Sys2Proof.Machine.execResultAvailable p k s
  | .variableWriteLand p k n => Sys2Proof.Machine.execVariableWriteLand p k n s
  | .translationWalk n => Sys2Proof.Machine.execTranslationWalk n s
  | .stage2FaultResolve n fix => Sys2Proof.Machine.execStage2FaultResolve n fix s
  | .parkExpire p k l => Sys2Proof.Machine.execParkExpire p k l s
  | .parkAllStill p k => Sys2Proof.Machine.execParkAllStill p k s
  | .skeinRetire p k => Sys2Proof.Machine.execSkeinRetire p k s
  | .launch q w => Sys2Proof.Machine.execLaunch q w s
  | .launchStart fn => Sys2Proof.Machine.execLaunchStart fn s
  | .controlWordRead fn seq node => Sys2Proof.Machine.execControlWordRead fn seq node s
  | .patreg q w => Sys2Proof.Machine.execPatreg q w s
  | .registrationComplete fn => Sys2Proof.Machine.execRegistrationComplete fn s
  | .patunreg q w => Sys2Proof.Machine.execPatunreg q w s
  | .panelDispatch entry places => Sys2Proof.Machine.execPanelDispatch entry places s
  | .poolAging entry => Sys2Proof.Machine.execPoolAging entry s
  | .rangeSplit p place => Sys2Proof.Machine.execRangeSplit p place s
  | .preemptionRequest entry => Sys2Proof.Machine.execPreemptionRequest entry s
  | .cooperativeSave p => Sys2Proof.Machine.execCooperativeSave p s
  | .deadlineExpire p => Sys2Proof.Machine.execDeadlineExpire p s
  | .contextSaveDone p => Sys2Proof.Machine.execContextSaveDone p s
  | .panelResume n places => Sys2Proof.Machine.execPanelResume n places s
  | .sliceEnd c => Sys2Proof.Machine.execSliceEnd c s
  | .partitionChange fn clusters slices => Sys2Proof.Machine.execPartitionChange fn clusters slices s
  | .coreRemoval core => Sys2Proof.Machine.execCoreRemoval core s
  | .panelHalt p k m => Sys2Proof.Machine.execPanelHalt p k m s
  | .faultRecordWrite p => Sys2Proof.Machine.execFaultRecordWrite p s
  | .tagParityError m => Sys2Proof.Machine.execTagParityError m s
  | .functionCreate fn m => Sys2Proof.Machine.execFunctionCreate fn m s
  | .functionLevelReset fn => Sys2Proof.Machine.execFunctionLevelReset fn s
  | .dieLinkFailure a b => Sys2Proof.Machine.execDieLinkFailure a b s
  | .powerInterval die m => Sys2Proof.Machine.execPowerInterval die m s
  | .thermalTrip die => Sys2Proof.Machine.execThermalTrip die s
  | .boot m => Sys2Proof.Machine.execBoot m s
  | .coldReset => Sys2Proof.Machine.execColdReset s
  | .warmReset => Sys2Proof.Machine.execWarmReset s
  | .attestationRequest fn nonce m => Sys2Proof.Machine.execAttestationRequest fn nonce m s
  | .routeTableLoad m => Sys2Proof.Machine.execRouteTableLoad m s
  | .hostApertureRead q a n => Sys2Proof.Machine.execHostApertureRead q a n s
  | .hostApertureWrite q a data => Sys2Proof.Machine.execHostApertureWrite q a data s
  | .apbase q w => Sys2Proof.Machine.execApbase q w s
  | .apfault q => Sys2Proof.Machine.execApfault q s
  | .performedAtHomeL2 n => Sys2Proof.Machine.execPerformedAtHomeL2 n s
  | .cwbComplete n => Sys2Proof.Machine.execCwbComplete n s
  | .fabricFailure op => Sys2Proof.Machine.execFabricFailure op s

end Sys2Proof.Machine
end

