-- ==== Sys2Proof/Machine/Fetch.lean ====
section
/-!
DEFINITION. Sys2Proof/Machine/Fetch.lean: one attempt of a skein to issue: the fetch of its line (R17, R18, R254, R408), the line's checks
(R45 to R52), the decoded slot or paired group (R19, R48, R49), and what BTARGET leaves of the issue set (R50, R51).
-/
namespace Sys2Proof.Machine

/-! ## Lines (R45 to R48) -/

/-- A 64-byte line, its first byte lowest. -/
abbrev Line := BitVec 512

/-- The line word. -/
def lineWord (d : Line) : Nat := d.toNat % 2 ^ 32
/-- Slot `i` of a line: 12 bytes from byte 4 + 12 i. -/
def lineSlot (d : Line) (i : Nat) : BitVec 96 := BitVec.ofNat 96 (d.toNat / 2 ^ (32 + 96 * i))
/-- TGT of slot `i`. -/
def lineTgt (d : Line) (i : Nat) : Bool := (bits (lineWord d) 4 0).testBit i
/-- PAIR. -/
def linePair (d : Line) : Nat := bits (lineWord d) 8 5

/-- The lower slots of the pairs a template names (R47). -/
def pairSlots (n : Nat) : List Nat :=
  match n with
  | 1 => [0] | 2 => [1] | 3 => [2] | 4 => [3] | 5 => [0, 2] | 6 => [0, 3] | 7 => [1, 3] | _ => []

/-- The slots that issue together from slot `i` on. -/
def lineGroup (d : Line) (i : Nat) : List Nat :=
  if 4 < i then [] else if (pairSlots (linePair d)).contains i then [i, i + 1] else [i]

/-- LPAR, and SPAR of some slots (R45, R46). -/
def parityOk (d : Line) (slots : List Nat) : Bool :=
  !oddOnes (lineWord d) 32 && slots.all fun i => oddOnes (lineSlot d i).toNat 96 == (lineWord d).testBit (9 + i)

/-- An opcode of R48's vector instructions. -/
def pairsAlu (op : Nat) : Bool :=
  (decide (0x20 ≤ op) && decide (op ≤ 0x25)) || (decide (0x28 ≤ op) && decide (op ≤ 0x41)) || (decide (0x60 ≤ op) && decide (op ≤ 0x6C))

/-- A slot may be the vector member of a pair. -/
def pairVector (w : BitVec 96) : Bool := pairsAlu (bits w.toNat 95 88) && !w.getLsbD 47

/-- A slot may be the other member: a scalar form, or a control instruction. -/
def pairScalar (w : BitVec 96) : Bool :=
  (pairsAlu (bits w.toNat 95 88) && w.getLsbD 47) || [0x00, 0x01, 0x02, 0x03, 0x04, 0x05, 0x06, 0x07, 0x0D].contains (bits w.toNat 95 88)

/-- The line is well formed (R48). -/
def lineOk (d : Line) : Bool :=
  bits (lineWord d) 31 15 == 0 && decide (linePair d ≤ 7) && (pairSlots (linePair d)).all fun i =>
    ((pairVector (lineSlot d i) && pairScalar (lineSlot d (i + 1))) || (pairScalar (lineSlot d i) && pairVector (lineSlot d (i + 1))))
      && !lineTgt d (i + 1)

/-! ## The instruction cache (R18, R46, R254) -/

/-- A line as its home L2 holds it. -/
def State.homeLine (s : State) (pa : Nat) : Line := BitVec.ofNat 512 (s.mem.read pa 64)

/-- A line is filled into a core's instruction cache: 64 KiB of lines. -/
def State.fillLine (s : State) (core pa : Nat) (d : Line) : State :=
  { s with code := keepFirst (fun c => c.core == core) 1024
                     (⟨core, pa / 64, d⟩ :: s.code.filter fun c => !(c.core == core && c.line == pa / 64)) }

/-- The line a core fetches, `none` when its parity fails twice: a held copy that fails is fetched once more (R46). -/
def State.readLine (s : State) (core pa : Nat) (slots : Line → List Nat) : Option Line × State :=
  let new := s.homeLine pa
  let good (d : Line) : Bool := parityOk d (slots d)
  match s.code.find? fun c => c.core == core && c.line == pa / 64 with
  | some c =>
    if good c.data then (some c.data, s)
    else if good new then (some new, (s.fillLine core pa new).countCorrected (dieOf core))
    else (none, s.fillLine core pa new)
  | none => (if good new then some new else none, s.fillLine core pa new)

/-- What fetching the line of an event's PC comes to. -/
inductive Fetched where
  | phys (pa : Nat)
  | fault (va : Dword)
  | miss (va : Dword)
  | outside
  | unbacked
deriving DecidableEq, Repr

/-- Where the line of an event's PC lies (R52, R408); no line of the heap window is executable in any mode (R353). -/
def State.fetchAt (s : State) (fr : Frame) : Fetched :=
  let va := BitVec.ofNat 64 (lineOf fr.pc)
  if fr.mode = .hypervisor then
    let o := lineOf fr.pc % 2 ^ 57
    if (s.func fr.p.fn).inHeap va.toNat then .fault va
    else if o + 64 ≤ firmwareSize then .phys (firmwareBase (dieOf fr.p.core) + o) else .outside
  else
    match s.look fr.p (some fr.kx) va .fetch fr.mode with
    | .phys pa _ => .phys pa
    | .tfault | .perm => .fault va
    | .miss | .declined => .miss va
    | .unbacked => .unbacked

/-! ## Decoded slots -/

/-- What an instruction does as a member of a paired group; `none` for one that never pairs (R48). -/
def memberOf (i : Instr) : Option Member :=
  match i with
  | .nop z => some (memberNop z)
  | .bra z => some (memberBra z)
  | .brx z => some (memberBrx z)
  | .call z => some (memberCall z)
  | .callx z => some (memberCallx z)
  | .ret z => some (memberRet z)
  | .exit z => some (memberExit z)
  | .park z => some (memberPark z)
  | .setfp z m => some (memberSetfp z m)
  | .iadd x => some (memberIadd x)
  | .isub x => some (memberIsub x)
  | .imul x => some (memberImul x)
  | .imulh x => some (memberImulh x)
  | .imad x => some (memberImad x)
  | .imadw x => some (memberImadw x)
  | .imin x => some (memberImin x)
  | .imax x => some (memberImax x)
  | .iabs x => some (memberIabs x)
  | .ineg x => some (memberIneg x)
  | .icmp x => some (memberIcmp x)
  | .sel x => some (memberSel x)
  | .mov x => some (memberMov x)
  | .lea x => some (memberLea x)
  | .and x => some (memberAnd x)
  | .or x => some (memberOr x)
  | .xor x => some (memberXor x)
  | .not x => some (memberNot x)
  | .andn x => some (memberAndn x)
  | .shl x => some (memberShl x)
  | .shr x => some (memberShr x)
  | .sar x => some (memberSar x)
  | .rol x => some (memberRol x)
  | .popc x => some (memberPopc x)
  | .clz x => some (memberClz x)
  | .ctz x => some (memberCtz x)
  | .brev x => some (memberBrev x)
  | .bfx x => some (memberBfx x)
  | .bfi x => some (memberBfi x)
  | .prmt x => some (memberPrmt x)
  | .iaddc x => some (memberIaddc x)
  | .iclamp x => some (memberIclamp x)
  | .fadd x => some (memberFadd x)
  | .fsub x => some (memberFsub x)
  | .fmul x => some (memberFmul x)
  | .ffma x => some (memberFfma x)
  | .fmin x => some (memberFmin x)
  | .fmax x => some (memberFmax x)
  | .fcmp x => some (memberFcmp x)
  | .fcls x => some (memberFcls x)
  | .fclsTest x => some (memberFclsTest x)
  | .frnd x => some (memberFrnd x)
  | .fscl x => some (memberFscl x)
  | .fextExp x => some (memberFextExp x)
  | .fextMant x => some (memberFextMant x)
  | .fdot2 x => some (memberFdot2 x)
  | .cvt x => some (memberCvt x)
  | _ => none

/-- STALL of a slot (R34). -/
def slotStall (w : BitVec 96) : Nat := (Raw.ofNat w.toNat).stall

/-- An event that ends in word traps: it waits as every event does, then its lanes enter their handlers (R52). -/
def State.wordTraps (s : State) (stall : Nat) (ts : Frame → List Trap) : Out :=
  match s.openFrame with
  | .error f => .fault f
  | .ok fr => if fr.notReady then .next (s.holdEvent fr) else .next (s.closeEvent fr stall (nextPc fr.pc) [] [] (ts fr))

/-- ILLOP for every lane of the issue set (R52, R54). -/
def illopTraps (w : BitVec 96) (pair : Bool) (fr : Frame) : List Trap := fr.lanes.map fun l => ⟨l, .illop, slotHigh w, fr.pc, pair⟩

/-- One slot alone. -/
def State.runAlone (s : State) (w : BitVec 96) : Out :=
  match decode w with
  | .ok i => exec i s
  | .error _ => s.wordTraps (slotStall w) (illopTraps w false)

/-- The members of a pair whose higher slot does not decode: the lower member's trap comes first (R49). -/
def lowerFirst (m : Member) (w : BitVec 96) (fr : Frame) : List Trap :=
  firstTraps (fr.memberTraps m fr.pc fr.pc true ++ illopTraps w true fr)

/-- A paired group (R19, R49). (log entry 52: DEDUCED) -/
def State.runPair (s : State) (w0 w1 : BitVec 96) : Out :=
  let stall := max (slotStall w0) (slotStall w1)
  match decode w0 with
  | .error _ => s.wordTraps stall (illopTraps w0 true)
  | .ok a =>
    match memberOf a with
    | none => s.wordTraps stall (illopTraps w0 true)
    | some m0 =>
      match decode w1 with
      | .error _ => s.wordTraps stall (lowerFirst m0 w1)
      | .ok b =>
        match memberOf b with
        | none => s.wordTraps stall (lowerFirst m0 w1)
        | some m1 => runMembers [m0, m1] s

/-- The slots of an event run. -/
def State.runSlots (s : State) (d : Line) (slots : List Nat) : Out :=
  match slots with
  | [i, j] => s.runPair (lineSlot d i) (lineSlot d j)
  | i :: _ => s.runAlone (lineSlot d i)
  | [] => .next s

/-! ## One attempt -/

/-- The skein's event is over: nothing stands selected. -/
def State.eventDone (s : State) (panel k : Nat) : Bool :=
  match (s.panel? panel).bind fun p => p.skein? k with
  | some sk => sk.sel.isNone
  | none => true

/-- The skein's event has issued and waits for its translations (R217). -/
def State.eventIssued (s : State) (panel k : Nat) : Bool :=
  ((s.panel? panel).bind fun p => p.skein? k).any fun sk => sk.reads.isSome

/-- A skein's standing selection. -/
def State.setSel (s : State) (panel k : Nat) (ls : List Nat) : State :=
  s.onPanel panel fun p => p.onSkein k fun sk => { sk with sel := some ls }

/-- The lanes of an event that trap BTARGET: they came by a non-sequential change to a slot without its TGT bit (R50). -/
def Frame.badTargets (fr : Frame) (d : Line) : List Trap :=
  (fr.lanes.filter fun l => (fr.k.lane l).needTgt && !lineTgt d (slotOf fr.pc)).map fun l =>
    ⟨l, .btarget, (fr.k.lane l).lastChange, fr.pc, decide (1 < (lineGroup d (slotOf fr.pc)).length)⟩

/-- The event issues for the lanes that pass BTARGET; the others trap with it. Until it issues, the whole set stays selected. (log entry 51: DEDUCED) -/
def State.issueLine (s : State) (fr : Frame) (d : Line) : Out :=
  let slots := lineGroup d (slotOf fr.pc)
  let bad := fr.badTargets d
  let rest := fr.lanes.filter fun l => !(bad.map fun t => t.lane).contains l
  if bad.isEmpty then s.runSlots d slots
  else if rest.isEmpty then s.wordTraps ((slots.map fun i => slotStall (lineSlot d i)).foldl max 0) fun _ => bad
  else
    match (s.setSel fr.p.id fr.kx rest).runSlots d slots with
    | .next s1 =>
      if s1.eventDone fr.p.id fr.kx || s1.eventIssued fr.p.id fr.kx then .next (s1.onPanel fr.p.id fun p => p.takeTraps fr.kx fr.cycle fr.hypEntry bad)
      else .next (s1.setSel fr.p.id fr.kx fr.lanes)
    | o => o

/-- Skein `k` of a panel tries to make its next issue event: the line is fetched and checked in R52's order, then its slots run. At a PC that
names no slot, the slot of bits [2:0] is still checked for parity (log entries 50, 72: DEDUCED). An event that has issued and waits for its
translations goes on with its instruction (R217). -/
def State.attempt (s0 : State) (panel k : Nat) : Out :=
  let s : State := { s0 with focus := (panel, k) }
  match s.openFrame with
  | .error f => .fault f
  | .ok fr =>
    match fr.k.reads with
    | some r => exec r.instr s
    | none =>
    let all (c : Cause) (f : Frame) : List Trap := f.allTrap c (BitVec.ofNat 64 (lineOf f.pc))
    match s.fetchAt fr with
    | .unbacked => .fault .unbacked
    | .fault va => s.wordTraps 0 fun f => f.allTrap .tfif va
    | .miss va => .next ((s.startWalk fr.p (some k) (laneMask fr.lanes) va .fetch fr.mode).holdEvent fr)
    | .outside => .next (if fr.p.halt.isSome then s.holdEvent fr else s.firmwareCheck fr fr.lanes)
    | .phys pa =>
      match s.readLine fr.p.core pa fun d => lineGroup d (slotOf fr.pc) with
      | (none, s1) => s1.wordTraps 0 (all .ifecc)
      | (some d, s1) =>
        if !lineOk d then s1.wordTraps 0 (all .illine)
        else if !pcValid fr.pc then
          s1.wordTraps 0 fun f => f.lanes.map fun l => ⟨l, .btarget, (f.k.lane l).lastChange, f.pc, false⟩
        else s1.issueLine fr d

end Sys2Proof.Machine
end

