-- ==== Sys2Proof/Machine/Agenda.lean ====
section
/-!
DEFINITION. Sys2Proof/Machine/Agenda.lean: what the part does next on its own: the events that are due at once, those that may happen, the
placements the graph engine gives panels (R184), the choice of each pipe (R193), and the passing of a period (R396, R476, R477).
-/
namespace Sys2Proof.Machine

/-! ## Events due at once -/

/-- Results that are due, and parks that end (R25, R95). -/
def State.dueOfSkein (s : State) (p : Panel) (k : Skein) : List Instr :=
  let cycle := s.cycle p.core
  (if (k.dueResult cycle).isSome then [.resultAvailable p.id k.ix] else []) ++
    (if k.allStill then [.parkAllStill p.id k.ix] else []) ++
      ((List.range 32).filter fun l => (k.lane l).parkOver cycle).map fun l => .parkExpire p.id k.ix l

/-- What is due for a panel: its skeins' events, a repack (R348), a save it yields to or its deadline (R96, R427). -/
def State.dueOfPanel (s : State) (p : Panel) : List Instr :=
  p.skeins.flatMap (s.dueOfSkein p) ++ (if p.active && p.mayRepack then [.repackExecute p.id] else []) ++
    (if s.mayYield p then [.cooperativeSave p.id] else []) ++ (if s.expired p then [.deadlineExpire p.id] else [])

/-- A cluster's slice has ended (R421). -/
def State.sliceOver (s : State) (x : Nat × Rotation) : Bool :=
  decide (2 ≤ x.2.table.length) && !x.2.ending && (x.2.table[x.2.current]?).any fun t => decide (x.2.since + tick t.2 ≤ s.time)

/-- A pool entry has waited an aging interval (R181). -/
def State.agingDue (s : State) (e : PoolEntry) : Bool :=
  let f := s.func e.fn
  f.bandT != 0 && decide (e.level < f.bandHigh) && decide (e.since + tick f.bandT ≤ s.time)

/-- Everything due at once. -/
def State.dueNow (s : State) : List Instr :=
  s.panels.flatMap s.dueOfPanel ++ (s.clusters.filter s.sliceOver).map (fun x => .sliceEnd x.1) ++
    (s.pool.filter s.agingDue).map fun e => .poolAging e.id

/-! ## Placements (R184, R425) -/

/-- A pipe with room and a first granule there for one more skein: the pipe that has the fewest skeins of the panel, whose pipes so far are
`own` (R184). -/
def granuleFor (used : List (Nat × Nat × Nat)) (own : List Nat) (g : Nat) : Option (Nat × Nat) :=
  let load (i : Nat) : Nat := (own.filter fun j => j == i).length
  let open_ := (List.range 4).filterMap fun i =>
    let here := (used.filter fun u => u.1 == i).map fun u => u.2
    if 16 ≤ here.length then none else ((gapsFor here 64 g).head?).map fun a => (i, a)
  open_.foldl (fun b x => match b with
    | none => some x
    | some y => if load x.1 < load y.1 then some x else some y) none

/-- Pipes and granules for `n` more skeins of a panel. -/
def granulesFor (used : List (Nat × Nat × Nat)) (own : List Nat) (g : Nat) : Nat → Option (List (Nat × Nat))
  | 0 => some []
  | n + 1 =>
    match granuleFor used own g with
    | none => none
    | some x => (granulesFor ((x.1, x.2, g) :: used) (x.1 :: own) g n).map fun xs => x :: xs

/-- The offset of a range of which nothing is needed, or a gap for it. -/
def gapFor (used : List (Nat × Nat)) (limit n : Nat) : Option Nat := if n = 0 then some 0 else (gapsFor used limit n).head?

/-- Where the scratchpad and the rings of one panel lie on a core. -/
def State.scratchOn (s : State) (core : Nat) (h : Header) (rings : Nat) : Option (Nat × Nat) :=
  let use := s.scratchUse core
  (if h.scratchKib = 0 then [0] else gapsFor use 256 h.scratchKib).findSome? fun a =>
    (gapFor ((a, h.scratchKib) :: use) 256 ((rings + 1023) / 1024)).map fun r => (a, r)

/-- A place for one panel on a core, with its context at an offset of the save region. (log entry 58: DESIGN CHOICE) -/
def State.placeOn (s : State) (fn core : Nat) (h : Header) (rings slot : Nat) : Option Placement := do
  let xs ← granulesFor (s.granuleUse core) [] h.granules h.skeins
  let a ← s.scratchOn core h rings
  let o ← gapFor (s.opbufUse core) 384 h.opbufKib
  let pl : Placement := ⟨core, xs.map fun x => x.1, xs.map fun x => x.2, a.1, o, a.2, slot⟩
  if s.placeOk fn h rings pl then some pl else none

/-- Places for a list of panels of an entry on distinct cores of some list that admit them: the first way that takes them all. `taken` are
the parts of the save region that the panels before have. -/
def State.placeEach (s : State) (own : Option Nat) (fn : Nat) (cores : List Nat) :
    List (Header × Nat) → List Nat → List (Nat × Nat) → Option (List Placement)
  | [], _, _ => some []
  | d :: ds, used, taken =>
    let n := reserveBytes d.1 d.2
    (cores.filter fun c => !used.contains c && s.admits own c d.1).findSome? fun c =>
      (gapsFor (taken ++ s.saveUse fn) (s.func fn).saveSize n).findSome? fun slot =>
        match s.placeOn fn c d.1 d.2 slot with
        | none => none
        | some pl => (s.placeEach own fn cores ds (c :: used) ((slot, n) :: taken)).map fun ps => pl :: ps

/-- Places for an entry's next panel or gang, on a core first of all. -/
def State.placesFor (s : State) (e : PoolEntry) (core : Nat) (gang : Bool) (ds : List (Header × Nat)) : Option (List Placement) :=
  s.placeEach (some e.id) e.fn (if gang then core :: (s.coresOf (clusterOf core)).filter (fun c => c != core) else [core]) ds [] []

/-- What the pick of a core would dispatch or resume (R183, R436). -/
def State.dispatchOn (s : State) (core : Nat) : Option Instr :=
  match s.pick core with
  | none => none
  | some (e, _) =>
    match s.resumeGroup e with
    | q :: qs =>
      ((s.withoutSaved e.fn (q :: qs)).placesFor e core q.gang.isSome ((q :: qs).map fun x => (x.kernel, x.ringBytes))).map
        fun ps => .panelResume e.id ps
    | [] =>
      match s.nodeOf e.fn e.handle e.node with
      | none => none
      | some n =>
        let ds := if n.kind = 2 then n.demands else (n.kernels.head?).toList.map fun h => (h, 0)
        (s.placesFor e core (n.kind == 2) ds).map fun ps => .panelDispatch e.id ps

/-- The best donor for a core (R191). -/
def State.bestDonor (s : State) (core : Nat) : Option Panel :=
  (s.panels.filter (s.donor core)).foldl (fun b p => match b with
    | none => some p
    | some q => if donorBefore p q then some p else some q) none

/-- The range split a core would make (R191). -/
def State.splitOn (s : State) (core : Nat) : Option Instr :=
  if (s.pick core).isSome then none
  else (s.bestDonor core).bind fun p => ((s.placeEach none p.fn [core] [(p.kernel, 0)] [] []).bind List.head?).map fun pl => .rangeSplit p.id pl

/-- A pick of a core that chooses no entry and counts a fragmentation stall (R184). -/
def State.idlePick (s : State) (core : Nat) : Option Instr :=
  if (s.pick core).isNone && s.fragments core then some (.panelDispatch 0 [⟨core, [], [], 0, 0, 0, 0⟩]) else none

/-- What the graph engine may do with cores (R183, R191). -/
def State.coreEvents (s : State) : List Instr :=
  (if s.pool.isEmpty then [] else s.liveCores.filterMap s.dispatchOn ++ s.liveCores.filterMap s.idlePick) ++
    if s.panels.any fun p => p.range.isSome then s.liveCores.filterMap s.splitOn else []

/-- Entries that ask for a cooperative save (R426). -/
def State.requestEvents (s : State) : List Instr :=
  (s.pool.filter fun e => (s.func e.fn).margin != 0 && !s.fitsSomewhere e &&
    s.panels.any fun p => p.fn == e.fn && decide (p.level + (s.func e.fn).margin ≤ e.level) && p.gang.isNone && p.halt.isNone && !p.preq).map
      fun e => .preemptionRequest e.id

/-! ## Events that may happen -/

/-- Accesses, write-backs, walks and invalidations on their way (R203, R225, R412, R362). -/
def State.memoryEvents (s : State) : List Instr :=
  (s.inflight.filter s.oldest).map (fun a => .performedAtHomeL2 a.id) ++ s.writeBacks.map (fun w => .cwbComplete w.id) ++
    (s.walks.filter fun w => w.stage == .running).map (fun w => .translationWalk w.id) ++
    s.swWalks.filterMap fun v =>
      if !s.invStarted v then none
      else ((List.range (2 ^ 19)).find? fun n => !v.visited.contains n).map fun n => .invalidationVisit v.id (n / 2 ^ 17) (n % 2 ^ 17)

/-- What the engines may do next. -/
def State.engineEvents (s : State) : List Instr :=
  (s.copyOps.map fun o => (o.panel, o.chan)).eraseDups.map (fun x => .copySectorWrite x.1 (Fin.ofNat 8 x.2)) ++
    (s.xfms.map fun o => clusterOf o.core).eraseDups.map .xfmComplete ++
    ((s.mats.filter fun o => o.queued).map fun o => o.core).eraseDups.map (fun c =>
      match s.headMat c with
      | some _ => .arrayStart c
      | none => .matrixTileComplete c (((s.queueOf c).head?.map fun o => o.done).getD 0) []) ++
    (s.rastSubs.filterMap fun o =>
      if o.accepted && o.arrival.isNone then some (.rastSubmissionArrive (clusterOf o.core) o.id)
      else if s.rastMay o then some (.rastFragmentApply (clusterOf o.core) o.id) else none) ++
    (s.rays.filter fun t => (s.panel? t.panel).any fun p => p.saving.isNone).map (fun t => .traversalFetch t.panel t.record) ++
    (s.rings.filter fun r => r.pushReady.isSome || r.popReady.isSome).map (fun r => .pipeServe r.gang r.pipe) ++
    s.colls.filterMap fun o =>
      if o.ended.isSome || o.out.isSome then some (.collComplete o.id)
      else if o.desc.all (fun d => d.size == 1) then some (.collMatch o.id ⟨false, [], []⟩) else none

/-- What the panels may do next: writes land, skeins retire, saves and stops end, debug requests are served. -/
def State.panelEvents (s : State) (p : Panel) : List Instr :=
  p.skeins.flatMap (fun k =>
    (k.outs.filter fun w => w.awaits.isEmpty).map (fun w => .variableWriteLand p.id k.ix w.seq) ++
      if s.mayRetire p k.ix k then [.skeinRetire p.id k.ix] else []) ++
    (if p.saving.isSome && s.saveReady p then [.contextSaveDone p.id] else []) ++
    (if s.haltReady p then [.faultRecordWrite p.id] else []) ++
    match p.dbg with
    | none => []
    | some (_, true) => [.dbgDrainComplete p.id]
    | some (_, false) => if dbgOp p.dbgreq = 0 then [.dbgRead p.id] else if dbgOp p.dbgreq = 1 then [.dbgWrite p.id] else [.dbgDrain p.id]

/-- What a function's queues may do next (R168, R177, R487). -/
def State.funcEvents (s : State) (fn : Nat) : List Instr :=
  let f := s.func fn
  (if f.startable.isSome then [.launchStart fn] else []) ++ (if f.registering.isSome then [.registrationComplete fn] else []) ++
    f.launches.flatMap fun l => l.runs.zipIdx.filterMap fun (x : NodeRun × Nat) =>
      if x.1.phase == .ready && x.1.awaiting then some (.controlWordRead fn l.seq x.2) else none

/-- Everything that may happen next, but for issue and the passing of time. -/
def State.mayHappen (s : State) : List Instr :=
  s.memoryEvents ++ s.engineEvents ++ s.panels.flatMap s.panelEvents ++ (List.range s.fns.length).flatMap s.funcEvents ++ s.coreEvents ++
    s.requestEvents

/-! ## The pipes (R193) -/

/-- The skein may try to issue in this cycle (R26, R130, R387, R393, R405, R428). -/
def State.mayIssue (s : State) (p : Panel) (k : Skein) : Bool :=
  let cycle := s.cycle p.core
  decide (k.nextIssue ≤ cycle) && p.saving.isNone && p.halt.all (fun h => h.lets cycle k.ix) && !p.frozen k.ix && !s.stepsLeft p.id k.ix
    && (decide (p.thaw ≤ cycle) || k.stepped) && p.quiet.all (fun q => q == k.ix) && !(k.issueSet cycle).isEmpty

/-- A try of one skein: its panel and skein, and what came of it. -/
structure Try where
  panel : Panel
  skein : Skein
  out : Out

/-- The tries of the skeins that satisfy a test. -/
def State.tries (s : State) (f : Panel → Skein → Bool) : List Try :=
  s.panels.flatMap fun p => (p.skeins.filter fun k => s.mayIssue p k && f p k).map fun k => ⟨p, k, s.attempt p.id k.ix⟩

/-- The skein is ready: its event issues (R193). -/
def Try.ready (t : Try) : Bool :=
  match t.out with
  | .next s => s.eventDone t.panel.id t.skein.ix
  | _ => true

/-- R193's order: wait start, age, skein index, node instance, panel index. -/
def Try.before (cycle : Nat) (a b : Try) : Bool :=
  let key (t : Try) : List Nat := [t.skein.waitStart.getD cycle, t.panel.since, t.skein.ix, t.panel.node, t.panel.ix]
  decide (key a < key b)

/-- The pipe of a try. -/
def Try.place (t : Try) : Nat × Nat := (t.panel.core, t.skein.pipe)

/-- The try that a pipe takes. -/
def bestTry (cycle : Nat) (ts : List Try) : Option Try :=
  ts.foldl (fun b t => match b with
    | none => some t
    | some u => if t.before cycle u then some t else some u) none

/-- The instruction that a skein's event is, when its slot stands alone in the line it fetches. -/
def State.issuing (s0 : State) (panel k : Nat) : Option Instr :=
  let s : State := { s0 with focus := (panel, k) }
  match s.openFrame with
  | .error _ => none
  | .ok fr =>
    match s.fetchAt fr with
    | .phys pa =>
      match (s.readLine fr.p.core pa fun d => lineGroup d (slotOf fr.pc)).1 with
      | some d => (decode (lineSlot d (slotOf fr.pc))).toOption
      | none => none
    | _ => none

/-- The kinds of event that skeins of a panel make in ascending skein index when they fall in one cycle: arrivals at barriers (R146),
RNGNEXT (R191), OBRES (R227), CTXSAVE and CTXLOAD (R405). -/
def orderKind (i : Instr) : Option Nat :=
  match i with
  | .barArv _ | .barSync _ => some 0
  | .rngnext _ => some 1
  | .obres _ => some 2
  | .ctxsave _ | .ctxload _ => some 3
  | _ => none

/-- The kind of a try's event. -/
def State.tryKind (s : State) (t : Try) : Option Nat := (s.issuing t.panel.id t.skein.ix).bind orderKind

/-- Try `u` goes before `t`: a lower skein of the same panel with an event of the same kind. -/
def State.yields (s : State) (t u : Try) : Bool :=
  u.panel.id == t.panel.id && decide (u.skein.ix < t.skein.ix) && (s.tryKind t).isSome && s.tryKind u == s.tryKind t

/-- A higher skein of the panel has made an event of the try's kind in this cycle: the try comes too late for it (R146). -/
def State.late (s : State) (t : Try) : Bool :=
  s.made.any fun m => m.1 == t.panel.id && decide (t.skein.ix < m.2.1) && s.tryKind t == some m.2.2

/-- What the issue of an event of some kind leaves: its walks are forgotten, and the pipe has issued in this cycle (R193, R217). -/
def State.issued (s : State) (t : Try) (kind : Option Nat) : State :=
  { s.endWalks t.panel.id (some t.skein.ix) with
    used := t.place :: s.used
    made := (kind.toList.map fun k => (t.panel.id, t.skein.ix, k)) ++ s.made }

/-! ## Time -/

/-- Some lane's entry into a handler counts from the next cycle. -/
def Skein.entering (k : Skein) (cycle : Nat) : Bool := k.lanes.any fun a => a.entry.any fun e => decide (cycle < e.1)

/-- Wait starts after a cycle of a die (R193): a ready skein keeps its own or takes this cycle. A selection that a handler's entry in this
cycle has overtaken does not stand (R131, R453). -/
def State.noteWaits (s : State) (die : Nat) : State :=
  let ts := s.tries fun p _ => dieOf p.core == die
  let note (p : Panel) (k : Skein) : Skein :=
    if k.entering (s.cycle p.core) && k.reads.isNone then { k with waitStart := none, sel := none }
    else if ts.any (fun t => t.panel.id == p.id && t.skein.ix == k.ix && t.ready) then
      { k with waitStart := some (k.waitStart.getD (s.cycle p.core)) }
    else { k with waitStart := none }
  { s with panels := s.panels.map fun p => if dieOf p.core = die then { p with skeins := p.skeins.map (note p) } else p }

/-- A cycle of a die ends (R396): pipes may issue again, and starts of the matrix array enter their queues (R186, R292, R299). -/
def State.endCycle (s : State) (die : Nat) : State :=
  let s1 := if s.mats.isEmpty then s.noteWaits die else ((s.noteWaits die).enterQueues die).noteDelays die
  { s1 with
    used := s1.used.filter fun x => dieOf x.1 != die
    made := s1.made.filter fun x => (s1.panel? x.1).any fun (p : Panel) => dieOf p.core != die }.onDie die fun d => { d with cycle := (d.cycle + 1) % 2 ^ 64 }

/-- One period of a die: its clock runs at its own rate (R476, R477). -/
def State.dieTick (s : State) (die : Nat) : State :=
  let d := s.die die
  if d.acc + d.clock < 1500 then s.onDie die fun d => { d with acc := d.acc + d.clock }
  else (s.endCycle die).onDie die fun d => { d with acc := d.acc + d.clock - 1500 }

/-- The elements of a cache that stay for another period. -/
def retained {α : Type} (n : Nat) (xs : List α) : List α := (xs.zipIdx.filter fun x => Config.retains n x.2).map fun x => x.1

/-- Caches may replace what they hold (R203, R204, R415, R254). -/
def State.replaceCopies (s : State) : State :=
  { s with copies := retained s.free s.copies, code := retained (s.free + 1) s.code, tlbs := retained (s.free + 2) s.tlbs
           walkCopies := retained (s.free + 3) s.walkCopies, free := s.free + 4 }

/-- A period passes. -/
def State.tick (s : State) : State :=
  let s1 := (List.range s.dies.length).foldl State.dieTick s
  { s1.replaceCopies with time := s1.time + 1 }

/-- A try that does not issue changes something all the same: it selects its lanes or starts a walk. -/
def Try.moves (s : State) (t : Try) : Bool :=
  match t.out with
  | .next s1 => decide ({ s1 with focus := s.focus } ≠ s)
  | _ => false

/-- The tries that the pipes which have not issued in this cycle take (R193). -/
def State.firsts (s : State) (ts : List Try) : List Try :=
  let ready := ts.filter Try.ready
  (ready.map Try.place).eraseDups.filterMap fun x => bestTry (s.cycle x.1) (ready.filter fun t => t.place == x)

/-- The tries of pipes that have not issued in this cycle. -/
def State.openTries (s : State) : List Try := s.tries fun p k => !s.used.contains (p.core, k.pipe)

/-- The tries that may issue now: each open pipe's, but for those that come too late or yield (R146, R193). -/
def State.mayGo (s : State) : List Try :=
  let firsts := s.firsts (s.openTries.filter fun t => !s.late t)
  firsts.filter fun t => !firsts.any (s.yields t)

/-- A try issues. -/
def State.issueTry (s : State) (t : Try) (free : Nat) : Out :=
  match t.out with
  | .next s1 => .next ({ s1 with free := max s1.free free }.issued t (s.tryKind t))
  | o => o

/-- No pipe issues: a held skein makes what progress it can, or a period passes. -/
def State.idle (s : State) : Out :=
  match (s.openTries.filter fun t => !s.late t).find? (Try.moves s) with
  | some t => t.out
  | none => .next s.tick

/-- The pipes issue, and between their events lanes make their atomic steps (R218, R376); when no pipe issues, a held skein makes what progress
it can, or a period passes (R193). -/
def State.progress (s : State) : Out :=
  match s.mayGo, s.nextSteps with
  | [], [] => s.idle
  | [t], [] => s.issueTry t s.free
  | ts, as =>
    let i := Config.choice s.free % (ts.length + as.length + if ts.isEmpty then 1 else 0)
    match ts[i]?, as[i - ts.length]? with
    | some t, _ => s.issueTry t (s.free + 1)
    | none, some a => .next ({ s with free := s.free + 1 }.atomStep a)
    | none, none => ({ s with free := s.free + 1 } : State).idle

/-- A split waits while an RNGNEXT of its donor issues in the same cycle (R191). -/
def State.splitWaits (s : State) (e : Instr) : Bool :=
  match e with
  | .rangeSplit p _ => (s.firsts s.openTries).any fun t => t.panel.id == p && s.tryKind t == some 1
  | _ => false

/-- The next thing the part does on its own: what is due, or one of what may happen, or progress. (log entry 59: DESIGN CHOICE) -/
def State.act (s : State) : Out :=
  match s.dueNow with
  | e :: _ => exec e s
  | [] =>
    match s.mayHappen.filter fun e => !s.splitWaits e with
    | [] => s.progress
    | e :: es =>
      let s1 : State := { s with free := s.free + 1 }
      match (e :: es)[Config.choice s.free % (es.length + 2)]? with
      | some x => exec x s1
      | none => s1.progress

/-- What happens next: the environment's next event, or what the part does on its own. An instruction word is no event. (log entry 67: DESIGN CHOICE) -/
def State.turn (s : State) : Out :=
  match s.inputs with
  | e :: es => if e.slot?.isSome then .next { s with inputs := es } else exec e { s with inputs := es }
  | [] => s.act

/-- What follows at once from a change (R234, R285, R346, R421, R466, R478). -/
def settled (o : Out) : Out :=
  match o with
  | .next s => .next s.settle
  | .fault f => .fault f
  | .refused r => .refused r

/-! ## An instruction placed where a pipe fetches it (log entry 2: DESIGN CHOICE) -/

/-- A line that holds one word in slot 0, a legal target, with its parity (R45). -/
def lineFor (w : BitVec 96) : Nat :=
  let low := 1 + (if oddOnes w.toNat 96 then 512 else 0)
  low + (if oddOnes low 32 then 2 ^ 14 else 0) + 2 ^ 32 * w.toNat

/-- The kernel header of the panel that runs a placed word. -/
def wordHeader : Header where
  addr := 0xFC0
  vregs := 128
  sregs := 62
  skeins := 1
  gang := 1
  scratch := 65536
  opbuf := 65536
  barriers := 0xFFFF
  roles := 0
  traps := 0
  energy := 0
  pipes := 0
  constOff := 64
  constBytes := 0
  codeBytes := 64
  build := 0

/-- The panel that runs a placed word: one skein, 32 lanes at the entry, in user mode, on core 0. -/
def wordPanel (id cycle : Nat) : Panel :=
  Panel.start id 0 0 (2 ^ 16) 0 0 wordHeader wordHeader 0 0 cycle none none ⟨0, [0], [0], 0, 0, 0, 0⟩

/-- The page that maps the placed line: fetch, read and write in every mode. -/
def wordPage : Page := ⟨0x1000, 4096, 0x1000, true, true, true, 4⟩

end Sys2Proof.Machine
end

