-- ==== Sys2Proof/Machine/Step.lean ====
section
/-!
DEFINITION. Sys2Proof/Machine/Step.lean: one step of the part.
-/
namespace Sys2Proof.Machine

/-- One step: the next event of the environment, or else what the part does on its own, and what follows at once. -/
def step (s : State) : Host.Outcome State Fault Refusal := settled s.turn

/-- `s` with a slot's bits stored as the line that the one resident panel fetches next (log entry 2: DESIGN CHOICE). -/
def State.withFetchWord (s : State) (nbits w : Nat) : State :=
  { s with
    inputs := []
    used := []
    mem := s.mem.write 0x1000 64 (lineFor (BitVec.ofNat 96 (w % 2 ^ nbits)))
    code := []
    tlbs := [⟨0, 0, .combined wordPage⟩]
    panels := [wordPanel s.nextId (s.cycle 0)]
    nextId := s.nextId + 1 }

end Sys2Proof.Machine
end

