-- ==== Sys2Proof/Safety.lean ====
section
/-!
DEFINITION. Sys2Proof/Safety.lean: the terms in which the claims about the machine are stated: an issue event that nothing stops at
its gate, how it ends, what a lane holds, and the invariants.
-/
namespace Sys2Proof.Machine

/-! ## Issue events -/

/-- The frame of the event that the skein in focus makes, when nothing at the gate of instruction `i` stops it: the event opens, the
instruction passes R9 steps 1 to 3, nothing interlocks (R30) and no read is under-served (R27, R29). -/
def State.gate (s : State) (i : Instr) (z : Slot) (f : Form) (once : Bool) (need : Least) : Option Frame :=
  match s.openFrame with
  | .error _ => none
  | .ok fr =>
    if !fr.notReady && (fr.staticTrap false need f z (slotHigh (encode i))).isNone && !fr.locked once f z
        && (fr.shortLanes once f z).isEmpty then some fr
    else none

/-- The end of the event of an instruction that stands alone: transfers, lanes that stay, and traps. -/
def State.ended (s : State) (fr : Frame) (z : Slot) (goes : List (Nat × Dword × Dword)) (stays : List Nat) (traps : List Trap) : State :=
  s.closeEvent fr z.stall.val (nextPc fr.pc) goes stays traps

/-- The state with the event's skein changed. -/
def State.onOwn (s : State) (fr : Frame) (f : Skein → Skein) : State := s.onPanel fr.p.id fun p => p.onSkein fr.kx f

/-- The lanes of the issue set whose predicate is true. -/
def Frame.actives (fr : Frame) (z : Slot) : List Nat := fr.active z fr.lanes

/-- The skein a panel holds at a place. -/
def State.skeinAt (s : State) (panel k : Nat) : Option Skein := (s.panel? panel).bind fun p => p.skein? k

/-- A lane of a skein of a panel. -/
def State.laneAt (s : State) (panel k l : Nat) : Option Lane := (s.skeinAt panel k).bind fun q => q.lanes[l]?

/-- Two states hold the same global memory, scratchpads and operand buffers, byte for byte. -/
def State.SameBytes (s t : State) : Prop :=
  (∀ a, t.mem.get a = s.mem.get a) ∧
  ∀ id, ((t.panel? id).map fun p => (p.scratch, p.opbuf)) = ((s.panel? id).map fun p => (p.scratch, p.opbuf))

/-- The registers of a skein that instructions name, apart from result queues: vector, trap, scalar and mask registers. -/
def Skein.files (k : Skein) : List (Regs × Regs × Regs) × Regs × Regs × Regs × Regs :=
  (k.lanes.map fun a => (a.v, a.tSup, a.tHyp), k.k, k.s, k.xSup, k.xHyp)

/-! ## The counting loop of R231 -/

/-- The while loop of `arrive` in R231 with EXP = `e`, in at most the given number of turns: `n` arrivals are left to count, PEND is `d`
and PHASE is `p`. -/
def arriveLoop (e : Nat) : Nat → Nat → Nat → Nat → Nat × Nat
  | 0, _, d, p => (d, p)
  | turns + 1, n, d, p =>
    if n = 0 then (d, p)
    else
      let t := min n d
      if d - t = 0 then arriveLoop e turns (n - t) e ((p + 1) % 2 ^ 16) else arriveLoop e turns (n - t) (d - t) p

/-! ## Invariants -/

/-- The power state of a die that R475 and R476 allow. -/
def Die.PowerOk (d : Die) : Prop := 750 ≤ d.clock ∧ d.clock ≤ 1500 ∧ d.clock % 25 = 0 ∧ d.kappa ≤ 7

/-- Every die is in a legal power state. -/
def State.PowerOk (s : State) : Prop := ∀ d ∈ s.dies, d.PowerOk

/-- Every byte store has its canonical form: physical memory, what HBM4 itself holds, and each resident panel's scratchpad and operand
buffer. -/
def State.MemoryOk (s : State) : Prop :=
  s.mem.wf = true ∧ s.hbm.wf = true ∧ ∀ p ∈ s.panels, p.scratch.wf = true ∧ p.opbuf.wf = true

end Sys2Proof.Machine
end

