-- ==== Sys2Proof/Certificates/Slice0/Obligations.lean ====
section
/-!
DEFINITION. Sys2Proof/Certificates/Slice0/Obligations.lean: the statements about the model, for the provers. Each docstring names the
rules of spec/ it formalises. `s.gate i z f once need = some fr` says that nothing stops instruction `i` at its gate.
-/
open Sys2Proof Sys2Proof.Machine

/-! ## Encoding -/

/-- Every well-formed slot instruction is read back from its own word, with every operand at every value its encoding admits (R34, R36). -/
def Obligations.DecodeReadsEveryEncoding : Prop :=
  ∀ i : Instr, i.slot?.isSome = true → i.wf = true → decode (encode i) = .ok i

/-- A word that decodes is the encoding of what it decodes to, which is well formed: no bit of a word is dropped (R34). R35 and R36: no word
whose predicate is k0 inverted decodes, and LIT has no meaning in NOP, so no NOP with a nonzero LIT and no source field of 0xA6 does (one with such a field uses LIT: log
entry 64: DEDUCED). -/
def Obligations.DecodedWordIsItsEncoding : Prop :=
  (∀ (w : BitVec 96) (i : Instr), decode w = .ok i → encode i = w ∧ i.slot?.isSome = true ∧ i.wf = true ∧
    ¬ ((w.toNat / 2 ^ 81) % 8 = 0 ∧ (w.toNat / 2 ^ 80) % 2 = 1)) ∧
  ∀ z : Slot, z.lit ≠ 0 → z.usesLit = false → ∀ i, decode (encode (.nop z)) ≠ .ok i

/-- Words that the spec's worked examples write out (02_instruction_words, 05, 06, 08, 09, 11, 12, 13, 15, 16, 19, 20, 23, 24) decode to
the instructions they stand for. -/
def Obligations.WorkedExampleWordsDecode : Prop :=
  decode 0x20020401A6A518000000000A =
    .ok (.iadd ⟨⟨0, 1, false, .v 4, .v 1, .lit, .zero, 10⟩, false, .i32, .captured, false, 0, false, false, false, false⟩) ∧
  decode 0x2050C8C8A6A5B80000000001 =
    .ok (.iadd ⟨⟨5, 0, false, .s 8, .s 8, .lit, .zero, 1⟩, true, .n32, .captured, false, 0, false, false, false, false⟩) ∧
  decode 0x0105FFA5A5A5000000000000 =
    .ok (.bra ⟨0, 2, true, .none, .zero, .zero, .zero, 0⟩) ∧
  decode 0x403006030581380000000000 =
    .ok (.iaddc ⟨⟨3, 0, false, .v 6, .v 3, .v 5, .q 1, 0⟩, false, .n32, .captured, false, 0, false, false, false, false⟩) ∧
  decode 0x630006000102580000000000 =
    .ok (.ffma ⟨⟨0, 0, false, .v 6, .v 0, .v 1, .v 2, 0⟩, false, .f32, .captured, false, 0, false, false, false, false⟩) ∧
  decode 0x96040501A5A5180000000001 =
    .ok (.plyscan ⟨⟨0, 2, false, .v 5, .v 1, .zero, .zero, 1⟩, false, .i32, .captured, false, 0, false, false, false, false⟩) ∧
  decode 0xB100C8A5A5A5000000000000 =
    .ok (.rngnext ⟨⟨0, 0, false, .s 8, .zero, .zero, .zero, 0⟩, .global, .skein, .relaxed, .plain, .w8, 0⟩) ∧
  decode 0xA302FF0204A5001D00000000 =
    .ok (.red ⟨⟨0, 1, false, .none, .v 2, .v 4, .zero, 0⟩, .global, .skein, .relaxed, .plain, .w64, 5⟩) ∧
  decode 0xA500FFA5A5A50F0000000000 =
    .ok (.fence ⟨⟨0, 0, false, .none, .zero, .zero, .zero, 0⟩, .global, .die, .acqRel, .plain, .w8, 0⟩) ∧
  decode 0xA000080CA5A5202000000000 =
    .ok (.ld ⟨⟨0, 0, false, .v 8, .v 12, .zero, .zero, 0⟩, .panel, .skein, .relaxed, .plain, .w128, 0⟩) ∧
  decode 0xC000FFD4D6D8054A00000100 =
    .ok (.cpy ⟨0, 0, false, .none, .s 20, .s 22, .s 24, 0x100⟩ ⟨.global, .panel, .shape, 2, .bytes, .panel⟩) ∧
  decode 0xCD00FFA6A5A5000200000000 =
    .ok (.fbind ⟨0, 0, false, .none, .lit, .zero, .zero, 0⟩ ⟨0, 2⟩) ∧
  decode 0xE10004000206000000000000 =
    .ok (.edge ⟨0, 0, false, .v 4, .v 0, .v 2, .v 6, 0⟩) ∧
  decode 0xE8000802D4A5000000000000 =
    .ok (.sclk ⟨0, 0, false, .v 8, .v 2, .s 20, .zero, 0⟩ ⟨false, false, false⟩) ∧
  decode 0x0E0006A5A5A5000000000101 =
    .ok (.srd ⟨0, 0, false, .v 6, .zero, .zero, .zero, 0x101⟩) ∧
  decode 0x1100FFD4D6A5000000000000 =
    .ok (.htlbiIpa ⟨0, 0, false, .none, .s 20, .s 22, .zero, 0⟩)

/-! ## Reset and the step -/

/-- What the spec gives for reset: κ 7, 1.5 GHz, 650 W on each die, its counters zero (R475, R476, R481); every function absent (R419)
with its registers at their reset values (R398); every stamp zero and every tag entry INVALID (R354, R355); no panel resident. The two
invariants below hold of it. -/
def Obligations.ResetStateIsAsStated : Prop :=
  (∀ d ∈ State.reset.dies, d.clock = 1500 ∧ d.kappa = 7 ∧ d.budget = 650000 ∧ d.cycle = 0 ∧ d.corrected = 0 ∧ d.uncorr = 0 ∧
    d.fragStall = 0 ∧ d.mstartWait = 0 ∧ d.clkDown = 0 ∧ d.kappa0 = 0) ∧ State.reset.dies.length = 4 ∧
  (∀ f ∈ State.reset.fns, f.st = .absent ∧ f.bandT = 0 ∧ f.bandHigh = 47 ∧ f.bandLow = 0 ∧ f.scopes = 1 ∧ f.fault = 0 ∧ f.tbuf = 0 ∧
    f.twr = 0 ∧ f.trd = 0 ∧ f.tdrop = 0 ∧ f.fdrop = 0 ∧ ∀ n, f.grants.get n = 0) ∧ State.reset.fns.length = 65 ∧
  (∀ d, State.reset.stampOf d = 0) ∧ (∀ n, (State.reset.swTag n).st = .invalid) ∧ State.reset.panels = [] ∧
  State.reset.PowerOk ∧ State.reset.MemoryOk

/-- R476: no step takes a die's clock above 1.5 GHz or below 750 MHz, or κ above 7. -/
def Obligations.EveryStepKeepsPowerLimits : Prop :=
  ∀ s t : State, s.PowerOk → step s = .next t → t.PowerOk

/-- Global memory, HBM4 and every panel's scratchpad and operand buffer keep their canonical form (strictly rising addresses, no entry that an
unlisted address reads as) in every step. -/
def Obligations.EveryStepKeepsMemoryForm : Prop :=
  ∀ s t : State, s.MemoryOk → step s = .next t → t.MemoryOk

/-- A step runs the decoded instruction. One attempt of a skein runs the instruction that its line holds: when the line at the selected
lanes' PC is fetched with good parity and is well formed, the PC names a slot that stands alone, every lane may arrive there, and the slot
decodes to `i`, the attempt is `exec i` on the state with that skein in focus (R17, R50 to R52); and an event that has issued and waits for
its translations goes on with its own instruction (R217). A step whose only business is one skein's issue event is that attempt: the pipe
is marked used in this cycle, the event's walks are forgotten, and what follows at once from the change takes effect (R193, R217). -/
def Obligations.StepRunsDecodedInstruction : Prop :=
  (
  ∀ (s s1 : State) (panel k : Nat) (fr : Frame) (pa : Nat) (d : Line) (i : Instr),
    ({ s with focus := (panel, k) } : State).openFrame = .ok fr → fr.k.reads = none →
    ({ s with focus := (panel, k) } : State).fetchAt fr = .phys pa →
    ({ s with focus := (panel, k) } : State).readLine fr.p.core pa (fun d => lineGroup d (slotOf fr.pc)) = (some d, s1) →
    lineOk d = true → pcValid fr.pc = true → lineGroup d (slotOf fr.pc) = [slotOf fr.pc] →
    (∀ l ∈ fr.lanes, (fr.k.lane l).needTgt = true → lineTgt d (slotOf fr.pc) = true) →
    decode (lineSlot d (slotOf fr.pc)) = .ok i →
    s.attempt panel k = exec i s1) ∧
  (
  ∀ (s : State) (panel k : Nat) (fr : Frame) (r : ReadState),
    ({ s with focus := (panel, k) } : State).openFrame = .ok fr → fr.k.reads = some r →
    s.attempt panel k = exec r.instr { s with focus := (panel, k) }) ∧
  ∀ (s t : State) (x : Try),
    s.inputs = [] → s.dueNow = [] → s.mayHappen = [] → s.atoms = [] →
    s.openTries = [x] → s.late x = false → x.ready = true → x.out = .next t →
    step s = .next (({ t with free := max t.free s.free } : State).issued x (s.tryKind x)).settle

/-! ## Selecting and waiting -/

/-- R130: a lane is in the issue set exactly when it is live, in the highest mode of the live lanes, neither parked, held nor yielding,
and no lane of which that is true stands at a lower PC; a release and an entry into a handler are seen from the cycle after (R131). -/
def Obligations.SelectTakesLowestPcOfTopMode : Prop :=
  ∀ (k : Skein) (cycle l : Nat), l < 32 →
    let can (j : Nat) : Prop := j < 32 ∧ (k.lane j).free = true ∧ (k.lane j).seen cycle = true ∧
      ∀ m, m < 32 → (k.lane m).exited = false → ((k.lane m).modeAt cycle).code ≤ (k.lane j).mode.code
    (l ∈ k.select cycle ↔ can l ∧ ∀ j, can j → (k.lane l).pc.toNat ≤ (k.lane j).pc.toNat)


/-! ## Fixed-latency results (R19 to R29) -/

/-- An ALU or control instruction that may stand in a pair, standing alone with its gate open, answers the state that commits its one
member: IADD to ICLAMP of 0x20 to 0x41 but IDIV and IREM, FADD to CVT of 0x60 to 0x6C, NOP, BRA, BRX, CALL, CALLX, RET, EXIT, PARK and
SETFP (R19, R48); and so do KOP, KPOP, KFFS, VOTE, SHFL, PLYRED, PLYSCAN and ELECT. R30: when a read or the destination interlocks, and no
check of it traps, the skein stays at the instruction with its selection, and nothing else changes. -/
def Obligations.FixedLatencyInstructionsComplete : Prop :=
  (∀ (i : Instr) (m : Member) (s : State) (fr : Frame),
    memberOf i = some m → s.openFrame = .ok fr → fr.staticTrap false .user m.form m.slot m.hi = none →
    fr.locked m.once m.form m.slot = true → exec i s = .next (s.onOwn fr fun k => { k with sel := some fr.lanes })) ∧
  (∀ (i : Instr) (m : Member) (s : State) (fr : Frame), memberOf i = some m →
    s.gate i m.slot m.form m.once .user = some fr → exec i s = .next (s.commit fr [m])) ∧
  ∀ (x : Alu) (s : State) (fr : Frame),
    (s.gate (.kop x) x.slot (formKopOps x) x.sf .user = some fr → exec (.kop x) s = .next (s.commit fr [memberKop x])) ∧
    (s.gate (.kpop x) x.slot formMaskOps x.sf .user = some fr → exec (.kpop x) s = .next (s.commit fr [memberKpop x])) ∧
    (s.gate (.kffs x) x.slot formMaskOps x.sf .user = some fr → exec (.kffs x) s = .next (s.commit fr [memberKffs x])) ∧
    (s.gate (.vote x) x.slot formVoteOps x.sf .user = some fr → exec (.vote x) s = .next (s.commit fr [memberVote x])) ∧
    (s.gate (.shfl x) x.slot (formShflOps x) x.sf .user = some fr → exec (.shfl x) s = .next (s.commit fr [memberShfl x])) ∧
    (s.gate (.plyred x) x.slot (formPlyOps x.ty false) x.sf .user = some fr →
      exec (.plyred x) s = .next (s.commit fr [memberPlyred x])) ∧
    (s.gate (.plyscan x) x.slot (formPlyOps x.ty true) x.sf .user = some fr →
      exec (.plyscan x) s = .next (s.commit fr [memberPlyscan x])) ∧
    (s.gate (.elect x) x.slot { dst := .fixed true } x.sf .user = some fr →
      exec (.elect x) s = .next (s.commit fr [memberElect x])) ∧
    ∀ (z : Slot) (m : FpSet), ∀ i ∈ [Instr.iadd x, .isub x, .imul x, .imulh x, .imad x, .imadw x, .imin x, .imax x, .iabs x, .ineg x,
        .icmp x, .iclamp x, .sel x, .mov x, .lea x, .and x, .or x, .xor x, .not x, .andn x, .shl x, .shr x, .sar x, .rol x, .popc x,
        .clz x, .ctz x, .brev x, .bfx x, .bfi x, .prmt x, .iaddc x, .fadd x, .fsub x, .fmul x, .ffma x, .fmin x, .fmax x, .fcmp x,
        .fcls x, .fclsTest x, .frnd x, .fscl x, .fextExp x, .fextMant x, .fdot2 x, .cvt x, .nop z, .bra z, .brx z, .call z, .callx z,
        .ret z, .exit z, .park z, .setfp z m], (memberOf i).isSome = true

/-- What committing one member leaves (R19, R20, R22 to R26): with no FP trap enabled and no stepping, the skein's pending results end with
the member's, due `lat` cycles after the issue, with the register writes, the pushed cells and the flags its plan gives (no poisoned
fragment feeding it); a lane that the plan gives a value pushes into the bank of the event's mode, two entries for a 64-bit result, and no
other lane and no other bank shifts; the next event waits the stall; nothing stands selected; and an unexited lane of the issue set that
the plan does not move stands at `next_pc`. What a plan's cells and register writes are: high word first, the mask bit alone for a mask
register, and a register of the skein takes a scalar form's one result or, of a vector form, the lowest active lane's value (R8, R20, R137,
R138, R484; log entry 71 for a lane that traps). R84: with FP traps enabled, a lane whose own result raises an enabled flag has no write in
the pending result, stays at the instruction, and traps FPEXC with it: tval the enabled flags it raised, epc the instruction; its flags are
among those to be set. -/
def Obligations.CommittedResultPendsForItsLatency : Prop :=
  (
  ∀ (m : Member) (s : State) (fr : Frame) (k0 : Skein),
    s.openFrame = .ok fr → fr.staticTrap false .user m.form m.slot m.hi = none → fr.shortLanes m.once m.form m.slot = [] →
    fr.p.fpEnables fr.mode = 0 → fr.k.step = 0 → s.skeinAt fr.p.id fr.kx = some k0 →
    let pl := m.plan { fr with next := nextPc fr.pc } fr.lanes
    let pushers := pl.vals.map (fun v => v.1) ++ pl.passes.map fun v => v.1
    ∃ k1, (s.commit fr [m]).skeinAt fr.p.id fr.kx = some k1 ∧
      (pl.lat ≠ 0 → pl.links = [] → s.spoiled fr m.slot m.once m.cross fr.lanes = [] →
        ∃ r, k1.results = k0.results ++ [r] ∧ r.seq = k0.seq ∧ r.due = fr.cycle + pl.lat ∧
        r.regs = pl.regs fr (fr.leader m.slot) pl.vals ∧
        r.cells = pl.cells fr k0.seq (pl.vals.map (fun v => (v.1, pl.pushed v.2.1)) ++ pl.passes) ∧
        r.flags = orFlags (pl.vals.map fun v => v.2.2)) ∧
      (pl.links = [] → pushers.Nodup → ∀ (l : Nat) (a : Lane), k0.lanes[l]? = some a → ∃ b, k1.lanes[l]? = some b ∧
        (∀ md, md ≠ fr.mode → b.bank md = a.bank md) ∧
        b.bank fr.mode =
          if pl.dst ≠ .none ∧ l ∈ pushers then
            if pl.wide then bankPush (bankPush (a.bank fr.mode) (2 * k0.seq)) (2 * k0.seq + 1) else bankPush (a.bank fr.mode) (2 * k0.seq)
          else a.bank fr.mode) ∧
      k1.nextIssue = fr.cycle + 1 + m.slot.stall.val ∧ k1.sel = none ∧ k1.seq = k0.seq + 1 ∧
      ∀ l a, l ∈ fr.lanes → k0.lanes[l]? = some a → a.exited = false → l ∉ pl.exits → (∀ g ∈ pl.goes, g.1 ≠ l) →
        ∃ b, k1.lanes[l]? = some b ∧ b.pc = nextPc fr.pc ∧ b.needTgt = false) ∧
  (
  ∀ (pl : Plan) (fr : Frame) (lead n : Nat) (vs : List (Nat × Dword)) (us : List (Nat × Dword × Word)),
    (pl.dst = .none → pl.cells fr n vs = []) ∧
    (pl.dst ≠ .none → pl.cells fr n vs = vs.flatMap fun v =>
      if pl.wide then [⟨v.1, fr.mode, 2 * n, hiWord v.2⟩, ⟨v.1, fr.mode, 2 * n + 1, loWord v.2⟩] else [⟨v.1, fr.mode, 2 * n, loWord v.2⟩]) ∧
    (pl.dst = .none ∨ pl.dst = .push → pl.regs fr lead us = []) ∧
    (∀ r, pl.dst = .v r → pl.regs fr lead us = us.flatMap fun v =>
      if pl.wide then [(.v v.1 r, loWord v.2.1), (.v v.1 (r + 1), hiWord v.2.1)] else [(.v v.1 r, loWord v.2.1)]) ∧
    (∀ r, pl.dst = .k r → pl.regs fr lead us = (us.map fun v => (.k r v.1, loWord v.2.1)) ∧ ∀ y, pl.pushed y = y &&& 1) ∧
    (∀ r, pl.dst = .s r → pl.regs fr lead us = (if pl.once then us.take 1 else us.filter fun v => v.1 == lead).flatMap fun v =>
      if pl.wide then [(.s r, loWord v.2.1), (.s (r + 1), hiWord v.2.1)] else [(.s r, loWord v.2.1)])) ∧
  (
  ∀ (m : Member) (s : State) (fr : Frame) (k0 : Skein),
    s.openFrame = .ok fr → fr.staticTrap false .user m.form m.slot m.hi = none → fr.shortLanes m.once m.form m.slot = [] →
    fr.k.step = 0 → s.skeinAt fr.p.id fr.kx = some k0 → s.spoiled fr m.slot m.once m.cross fr.lanes = [] →
    let pl := m.plan { fr with next := nextPc fr.pc } fr.lanes
    let raised (v : Nat × Dword × Word) : Word := v.2.2 &&& BitVec.ofNat 32 (fr.p.fpEnables fr.mode % 32)
    let sick := pl.vals.filter fun v => raised v != 0
    pl.float = true → pl.lat ≠ 0 → pl.links = [] → (pl.vals.map fun v => v.1).Nodup →
    ∃ k1 r, (s.commit fr [m]).skeinAt fr.p.id fr.kx = some k1 ∧ k1.results = k0.results ++ [r] ∧
      r.exc = sick.map (fun v => ⟨v.1, .fpexc, (raised v).setWidth 64, fr.pc, false⟩) ∧
      r.regs = pl.regs fr (fr.leader m.slot) (pl.vals.filter fun v => raised v == 0) ∧
      r.flags = orFlags (pl.vals.map fun v => v.2.2) ∧ r.hold = (fr.p.fpEnables fr.mode != 0) ∧
      ∀ v ∈ sick, ∀ a, k0.lanes[v.1]? = some a → ∃ b, k1.lanes[v.1]? = some b ∧ b.pc = a.pc ∧ b.bank fr.mode = a.bank fr.mode)

/-- R25's table: the latency of each fixed-latency instruction. R22: what a lane with a false predicate passes to its queue, SA at its
operand width, zero-extended; in a scalar form what SA reads for the leader (R137). -/
def Obligations.FixedLatencyPlansFollowTheTables : Prop :=
  (
  ∀ (x : Alu) (fr : Frame) (ls : List Nat),
    (∀ i ∈ [Instr.iadd x, .isub x, .imin x, .imax x, .iabs x, .ineg x, .icmp x, .sel x, .mov x, .lea x, .and x, .or x, .xor x, .not x,
        .andn x, .shl x, .shr x, .sar x, .rol x, .popc x, .clz x, .ctz x, .brev x, .bfx x, .bfi x, .prmt x, .iclamp x],
      ∃ m, memberOf i = some m ∧ (m.plan fr ls).lat = if x.ty.width = 64 then 6 else 4) ∧
    (∃ m, memberOf (.iaddc x) = some m ∧ (m.plan fr ls).lat = 4) ∧
    (∀ m ∈ [memberKop x, memberKpop x, memberKffs x], (m.plan fr ls).lat = 4) ∧
    (∀ i ∈ [Instr.imul x, .imulh x, .imad x, .imadw x], ∃ m, memberOf i = some m ∧ (m.plan fr ls).lat = 6) ∧
    (∀ i ∈ [Instr.fadd x, .fsub x, .fmul x, .ffma x, .fmin x, .fmax x, .frnd x, .fscl x, .fextMant x],
      ∃ m, memberOf i = some m ∧ (m.plan fr ls).lat = if x.ty.packed then 8 else 6) ∧
    (∀ i ∈ [Instr.fcmp x, .fcls x, .fclsTest x, .fextExp x], ∃ m, memberOf i = some m ∧ (m.plan fr ls).lat = 6) ∧
    (∀ i ∈ [Instr.fdot2 x, .cvt x], ∃ m, memberOf i = some m ∧ (m.plan fr ls).lat = 8) ∧
    (∀ m ∈ [memberVote x, memberShfl x, memberElect x], (m.plan fr ls).lat = 8) ∧
    (∀ m ∈ [memberPlyred x, memberPlyscan x], (m.plan fr ls).lat = 12)) ∧
  (
  ∀ (x : Alu) (fr : Frame) (ls : List Nat),
    let passed (m : Member) (wa : Nat) : Prop := (m.plan fr ls).passes =
      (ls.filter fun l => !predOn x.slot fr.k l).map fun l =>
        (l, BitVec.ofNat 64 ((fr.opnds x m.form (if x.sf then fr.leader x.slot else l)).a.toNat % 2 ^ wa))
    (∀ i ∈ [Instr.iadd x, .isub x, .imul x, .imulh x, .imad x, .imin x, .imax x, .iabs x, .ineg x, .icmp x, .iclamp x, .sel x, .mov x,
        .lea x, .and x, .or x, .xor x, .not x, .andn x, .shl x, .shr x, .sar x, .rol x, .popc x, .clz x, .ctz x, .brev x, .bfx x, .bfi x,
        .prmt x, .fadd x, .fsub x, .fmul x, .ffma x, .fmin x, .fmax x, .fcmp x, .fcls x, .fclsTest x, .frnd x, .fscl x, .fextExp x,
        .fextMant x], ∃ m, memberOf i = some m ∧ passed m x.ty.width) ∧
    (∀ i ∈ [Instr.imadw x, .iaddc x, .fdot2 x], ∃ m, memberOf i = some m ∧ passed m 32) ∧
    (∃ m, memberOf (.cvt x) = some m ∧ passed m (tyOfCode x.slot.lit.toNat).width) ∧
    (∀ m ∈ [memberKop x, memberKpop x, memberKffs x, memberVote x, memberElect x], passed m 32) ∧
    (∀ m ∈ [memberShfl x, memberPlyred x, memberPlyscan x], passed m x.ty.width))

/-- The frame of a fixed-latency instruction of the ALU layout: when its event leaves a next state without traps, no register file, no
byte of memory, no scratchpad, no flag and no special register changes yet, and no other panel or skein changes at all. -/
def Obligations.AluEventLeavesRegistersAndMemory : Prop :=
  ∀ (m : Member) (i : Instr) (s : State) (fr : Frame) (k0 : Skein),
    (∃ x, i ∈ [Instr.iadd x, .isub x, .imul x, .imulh x, .imad x, .imadw x, .imin x, .imax x, .iabs x, .ineg x, .icmp x, .iclamp x, .sel x,
        .mov x, .lea x, .and x, .or x, .xor x, .not x, .andn x, .shl x, .shr x, .sar x, .rol x, .popc x, .clz x, .ctz x, .brev x, .bfx x,
        .bfi x, .prmt x, .iaddc x, .fadd x, .fsub x, .fmul x, .ffma x, .fmin x, .fmax x, .fcmp x, .fcls x, .fclsTest x, .frnd x, .fscl x,
        .fextExp x, .fextMant x, .fdot2 x, .cvt x]) →
    memberOf i = some m → s.gate i m.slot m.form m.once .user = some fr → fr.k.step = 0 → s.skeinAt fr.p.id fr.kx = some k0 →
    ∃ t, exec i s = .next t ∧ t.SameBytes s ∧ t.fns = s.fns ∧ t.dies = s.dies ∧ t.inflight = s.inflight ∧ t.copies = s.copies ∧
      (∀ id, id ≠ fr.p.id → t.panel? id = s.panel? id) ∧
      (∀ k, k ≠ fr.kx → t.skeinAt fr.p.id k = s.skeinAt fr.p.id k) ∧
      ∃ k1, t.skeinAt fr.p.id fr.kx = some k1 ∧ k1.files = k0.files ∧ k1.fpmode = k0.fpmode ∧ k1.fpflags = k0.fpflags ∧
        k1.ply = k0.ply ∧ k1.step = k0.step ∧ k1.bars = k0.bars ∧ k1.frags = k0.frags ∧ k1.outs = k0.outs ∧
        (k1.lanes.map fun a => (a.mode, a.exited, a.saveS, a.saveH, a.tdepth, a.origin)) =
          k0.lanes.map fun a => (a.mode, a.exited, a.saveS, a.saveH, a.tdepth, a.origin)

/-- R28 and R25: a due result becomes available. RESULT_AVAILABLE answers the state in which the earliest due result of the skein has
landed, and, when it carries no FPEXC, each queue cell that one of its pushes still holds takes that push's value and no other cell
changes, and the register that it writes holds the value and no other register of its file changes: a scalar register, a lane's vector
register, a lane's bit of a mask register. R28, R30: VARIABLE_WRITE_LAND. A write that waits for nothing and holds no poison lands in
its registers, and a read of them no longer interlocks on it; a pending fixed-latency result that an older instruction left for the
register is discarded. R84: a user lane that traps FPEXC with a result that lands, of fixed or of variable latency, enters the supervisor
handler with the trap's tval and epc. -/
def Obligations.ResultsLandInTheirRegisters : Prop :=
  (
  ∀ (s : State) (p : Panel) (k : Skein) (r : FixedResult) (id kx : Nat),
    s.panel? id = some p → p.skein? kx = some k → k.dueResult (s.cycle p.core) = some r → r.exc = [] →
    ∃ t k1, exec (.resultAvailable id kx) s = .next t ∧ t.skeinAt id kx = some k1 ∧
      r ∉ k1.results ∧ k1.fpflags = k.fpflags ||| (r.flags &&& 0x1FF) ∧
      ((r.cells.map fun c => (c.lane, c.mode, c.tag)).Nodup → ∀ (l : Nat) (a : Lane), k.lanes[l]? = some a →
        ∃ b, k1.lanes[l]? = some b ∧ ∀ (md : Mode) (n : Nat) (q : QCell), (a.bank md)[n]? = some q →
          (∀ c ∈ r.cells, c.lane = l → c.mode = md → c.tag = q.tag → (b.bank md)[n]? = some ⟨c.val, q.tag⟩) ∧
          ((∀ c ∈ r.cells, ¬ (c.lane = l ∧ c.mode = md ∧ c.tag = q.tag)) → (b.bank md)[n]? = some q)) ∧
      (∀ n x, r.regs = [(.s n, x)] → k1.s.get n = x ∧ ∀ m, m ≠ n → k1.s.get m = k.s.get m) ∧
      (∀ l n x a, r.regs = [(.v l n, x)] → k.lanes[l]? = some a →
        ∃ b, k1.lanes[l]? = some b ∧ b.v.get n = x ∧ ∀ m, m ≠ n → b.v.get m = a.v.get m) ∧
      ∀ n l x, r.regs = [(.k n l, x)] → n ≠ 0 → l < 32 → k1.maskBit n l = x.getLsbD 0 ∧
        ∀ m j, j < 32 → ¬ (m = n ∧ j = l) → k1.maskBit m j = k.maskBit m j) ∧
  (
  ∀ (s : State) (p : Panel) (k : Skein) (w : VarWrite) (id kx n r : Nat) (x : Word),
    s.panel? id = some p → p.skein? kx = some k → k.landable n = some w → w.exc = [] → w.bad = [] → w.vals = [(.s r, x)] →
    ∃ t k1, exec (.variableWriteLand id kx n) s = .next t ∧ t.skeinAt id kx = some k1 ∧ k1.s.get r = x ∧
      (∀ m, m ≠ r → k1.s.get m = k.s.get m) ∧ (∀ v ∈ k1.outs, v.seq ≠ n) ∧
      (∀ q ∈ k1.results, q.seq < n → ∀ y ∈ q.regs, y.1 ≠ .s r)) ∧
  (
  ∀ (s : State) (p : Panel) (k : Skein) (id kx : Nat) (t : Trap) (a : Lane),
    s.panel? id = some p → p.skein? kx = some k → p.halt = none → k.lanes[t.lane]? = some a → a.mode = .user → t.cause = .fpexc →
    let enters (o : Out) : Prop := ∃ u b, o = .next u ∧ u.laneAt id kx t.lane = some b ∧ b.mode = .supervisor ∧ b.pc = p.image.entry ∧
      b.saveS = ⟨t.epc, t.tval, causeWord .fpexc t.pair, 0⟩
    (∀ r, k.dueResult (s.cycle p.core) = some r → r.bad = 0 → t ∈ r.exc → (r.exc.map fun x => x.lane).Nodup →
      enters (exec (.resultAvailable id kx) s)) ∧
    ∀ n w, k.landable n = some w → w.bad = [] → t ∈ w.exc → (w.exc.map fun x => x.lane).Nodup →
      enters (exec (.variableWriteLand id kx n) s))

/-! ## Integer values (R72, R100 to R106) -/

/-- R72: an integer result is the exact value wrapped to the type's width, or under SAT the value clamped to the type's range. R100's
table: the value of each arithmetic instruction, for every active lane of a vector form from its own operands and of a scalar form from the
leader's (R24, R137). -/
def Obligations.IntegerArithmeticFollowsTheTable : Prop :=
  (
  ∀ (t : Ty) (v : Int), t ∈ [Ty.i8, .i16, .i32, .i64, .n8, .n16, .n32, .n64] →
    (((intResult t.signed t.width false v).toNat : Int) = v % (2 : Int) ^ t.width) ∧
    (t.signed = true → intVal t (intResult true t.width true v) =
      max (-(2 : Int) ^ (t.width - 1)) (min v ((2 : Int) ^ (t.width - 1) - 1))) ∧
    (t.signed = false → intVal t (intResult false t.width true v) = max 0 (min v ((2 : Int) ^ t.width - 1))) ∧
    (intResult t.signed t.width true v).toNat < 2 ^ t.width) ∧
  (
  ∀ (x : Alu) (fr : Frame) (ls : List Nat),
    let gives (m : Member) (g : Opnds → Dword) : Prop := (m.plan fr ls).vals =
      (fr.active x.slot ls).map fun l => (l, g (fr.opnds x m.form (if x.sf then fr.leader x.slot else l)), 0)
    let v (d : Dword) : Int := intVal x.ty d
    gives (memberIadd x) (fun o => intOut x (v o.a + v o.b)) ∧
    gives (memberIsub x) (fun o => intOut x (v o.a - v o.b)) ∧
    gives (memberImul x) (fun o => intOut x (v o.a * v o.b)) ∧
    (x.sub = 0 → gives (memberImulh x) (fun o => intOut x (v o.a * v o.b / (2 : Int) ^ x.ty.width))) ∧
    (x.sub = 1 → gives (memberImulh x) (fun o =>
      intOut x (v o.a * ((o.b.toNat % 2 ^ x.ty.width : Nat) : Int) / (2 : Int) ^ x.ty.width))) ∧
    gives (memberImad x) (fun o => intOut x (v o.a * v o.b + v o.c)) ∧
    gives (memberImadw x) (fun o => intResult x.ty.signed 64 x.sat (v o.a * v o.b + if x.ty.signed then o.c.toInt else o.c.toNat)) ∧
    gives (memberImin x) (fun o => intOut x (min (v o.a) (v o.b))) ∧
    gives (memberImax x) (fun o => intOut x (max (v o.a) (v o.b))) ∧
    gives (memberIabs x) (fun o => intOut x |v o.a|) ∧
    gives (memberIneg x) (fun o => intOut x (-v o.a)) ∧
    gives (memberIclamp x) (fun o => intOut x (min (max (v o.a) (v o.b)) (v o.c))) ∧
    (∀ rel : Int → Int → Bool,
      (x.sub = 0 ∧ rel = fun a b => decide (a = b)) ∨ (x.sub = 1 ∧ rel = fun a b => decide (a ≠ b)) ∨
      (x.sub = 2 ∧ rel = fun a b => decide (a < b)) ∨ (x.sub = 3 ∧ rel = fun a b => decide (a ≤ b)) ∨
      (x.sub = 4 ∧ rel = fun a b => decide (b < a)) ∨ (x.sub = 5 ∧ rel = fun a b => decide (b ≤ a)) →
      gives (memberIcmp x) (fun o => if rel (v o.a) (v o.b) then 1 else 0)))

/-- R103: the shifts by every amount, at and beyond the width too, and the counts of zeros and ones. R104: a field inserted by BFI is what
BFX extracts, and BFI leaves every other bit. R106: the two words of IADDC are the low word and the carry, or the difference and the
borrow. Each instruction of the table delivers its operation on its operands at the type's width, shift amounts and control words read as
32 bits. -/
def Obligations.BitOperationsFollowTheTable : Prop :=
  (
  ∀ (n a b : Nat), 0 < n → a < 2 ^ n →
    (b < n → shlValue n a b = a * 2 ^ b % 2 ^ n ∧ shrValue n a b = a / 2 ^ b ∧
      (sarValue n a b : Int) = sext a n / 2 ^ b % 2 ^ n) ∧
    (n ≤ b → shlValue n a b = 0 ∧ shrValue n a b = 0 ∧ sarValue n a b = if a.testBit (n - 1) then 2 ^ n - 1 else 0) ∧
    (∀ i, i < n → (rolValue n a b).testBit ((i + b) % n) = a.testBit i) ∧
    (∀ i, i < n → (reverseBits a n).testBit i = a.testBit (n - 1 - i)) ∧
    (a = 0 → leadingZeros a n = n ∧ trailingZeros a n = n ∧ countOnes a n = 0) ∧
    (a ≠ 0 → 2 ^ (n - 1 - leadingZeros a n) ≤ a ∧ a < 2 ^ (n - leadingZeros a n) ∧
      a % 2 ^ trailingZeros a n = 0 ∧ a.testBit (trailingZeros a n) = true)) ∧
  (
  ∀ (n a b w : Nat), a < 2 ^ n → b < 2 ^ n →
    let p := min (w % 256) n
    let e := min (w / 256 % 256) (n - p)
    bfxValue n (bfiValue n a b w) w false = b % 2 ^ e ∧
    ∀ i, (i < p ∨ p + e ≤ i) → (bfiValue n a b w).testBit i = a.testBit i) ∧
  (
  ∀ (a b c : Nat), a < 2 ^ 32 → b < 2 ^ 32 → c < 2 →
    ((loWord (iaddcValue false a b c)).toNat + 2 ^ 32 * (hiWord (iaddcValue false a b c)).toNat = a + b + c) ∧
    (((loWord (iaddcValue true a b c)).toNat : Int) - 2 ^ 32 * ((hiWord (iaddcValue true a b c)).toNat : Int) = (a : Int) - b - c) ∧
    (hiWord (iaddcValue true a b c)).toNat < 2) ∧
  (
  ∀ (x : Alu) (fr : Frame) (ls : List Nat),
    let gives (m : Member) (g : Opnds → Dword) : Prop := (m.plan fr ls).vals =
      (fr.active x.slot ls).map fun l => (l, g (fr.opnds x m.form (if x.sf then fr.leader x.slot else l)), 0)
    let n := x.ty.width
    let cut (d : Dword) : Nat := d.toNat % 2 ^ n
    (∀ y ∈ [(memberShl x, shlValue), (memberShr x, shrValue), (memberSar x, sarValue), (memberRol x, rolValue)],
      gives y.1 (fun o => BitVec.ofNat 64 (y.2 n (cut o.a) (o.b.toNat % 2 ^ 32)))) ∧
    (∀ y ∈ [(memberPopc x, countOnes), (memberClz x, leadingZeros), (memberCtz x, trailingZeros), (memberBrev x, reverseBits)],
      gives y.1 (fun o => BitVec.ofNat 64 (y.2 (cut o.a) n))) ∧
    gives (memberBfx x) (fun o => BitVec.ofNat 64 (bfxValue n (cut o.a) o.b.toNat (x.sub == 1))) ∧
    gives (memberBfi x) (fun o => BitVec.ofNat 64 (bfiValue n (cut o.a) (cut o.b) o.c.toNat)) ∧
    gives (memberIaddc x) (fun o => iaddcValue (x.sub == 1) (o.a.toNat % 2 ^ 32) (o.b.toNat % 2 ^ 32) (o.c.toNat % 2)))

/-- R102, R103, R105: the logic instructions bit by bit, SEL on its 32-bit condition, MOV with its modifiers, LEA's wrapped address, and
the four bytes of PRMT. R152, R153: the truth values of KOP, and what KPOP and KFFS find in the bits of a mask register that belong to a
lane's ply, a scalar form in the leader's (R137). -/
def Obligations.LogicAndMovesFollowTheTables : Prop :=
  (
  ∀ (x : Alu) (fr : Frame) (ls : List Nat),
    let gives (m : Member) (g : Opnds → Dword) : Prop := (m.plan fr ls).vals =
      (fr.active x.slot ls).map fun l => (l, g (fr.opnds x m.form (if x.sf then fr.leader x.slot else l)), 0)
    gives (memberAnd x) (fun o => o.a &&& o.b) ∧ gives (memberOr x) (fun o => o.a ||| o.b) ∧ gives (memberXor x) (fun o => o.a ^^^ o.b) ∧
    gives (memberAndn x) (fun o => o.a &&& ~~~o.b) ∧
    gives (memberNot x) (fun o => BitVec.ofNat 64 (2 ^ x.ty.width - 1 - o.a.toNat % 2 ^ x.ty.width)) ∧
    gives (memberSel x) (fun o => if o.c.toNat % 2 ^ 32 = 0 then o.b else o.a) ∧
    (x.aneg = false → x.aabs = false → gives (memberMov x) (fun o => o.a)) ∧
    gives (memberMov x) (fun o => movValue x o.a) ∧
    gives (memberLea x) (fun o => leaValue x o.a o.b) ∧
    gives (memberPrmt x) (fun o => BitVec.ofNat 64 (prmtValue (o.a.toNat % 2 ^ 32) (o.b.toNat % 2 ^ 32) (o.c.toNat % 2 ^ 32)))) ∧
  (
  ∀ (x : Alu) (a b : Dword) (i : Nat),
    (x.ty = .f32 → (movValue x a).getLsbD i = if i = 31 then ((a.getLsbD i && !x.aabs) != x.aneg) else a.getLsbD i) ∧
    (x.ty = .f16x2 ∨ x.ty = .bf16x2 →
      (movValue x a).getLsbD i = if i = 31 ∨ i = 15 then ((a.getLsbD i && !x.aabs) != x.aneg) else a.getLsbD i) ∧
    ((leaValue x a b).toNat : Int) =
      ((a.toNat : Int) + (if x.ty = .i64 then (b.setWidth 32).toInt else ((b.setWidth 32).toNat : Int)) * (2 : Int) ^ x.sub.val) %
        (2 : Int) ^ x.ty.width) ∧
  (
  ∀ (a b c i : Nat), a < 2 ^ 32 → b < 2 ^ 32 → c < 2 ^ 32 → i < 4 →
    let s := (b * 2 ^ 32 + a) / 256 ^ (c / 256 ^ i % 8) % 256
    let d := prmtValue a b c / 256 ^ i % 256
    (c / 256 ^ i / 8 % 4 = 0 → d = s) ∧ (c / 256 ^ i / 8 % 4 = 1 → ∀ n, n < 8 → d.testBit n = s.testBit (7 - n)) ∧
    (c / 256 ^ i / 8 % 4 = 2 → d = 0) ∧ (c / 256 ^ i / 8 % 4 = 3 → d = 255) ∧ prmtValue a b c < 2 ^ 32) ∧
  (
  ∀ (x : Alu) (fr : Frame) (ls : List Nat) (r : Fin 8), fr.k.ply ∈ [2, 4, 8, 16, 32] →
    let on := fr.active x.slot ls
    let w := fr.k.ply
    let from_ (l : Nat) : Nat := if x.sf then fr.leader x.slot else l
    let delivers (m : Member) (g : Nat → Nat → Prop) : Prop := (m.plan fr ls).vals.map (fun v => (v.1, v.2.2)) = on.map (fun l => (l, 0)) ∧
      ∀ v ∈ (m.plan fr ls).vals, g (from_ v.1) v.2.1.toNat
    let bit (l j : Nat) : Bool := (fr.k.mask r.val).getLsbD (l / w * w + j)
    delivers (memberKop x) (fun l n =>
      let a := (fr.opnds x (formKopOps x) l).a ≠ 0
      let b := (fr.opnds x (formKopOps x) l).b ≠ 0
      (n = 0 ∨ n = 1) ∧ (x.sub = 0 → (n = 1 ↔ a ∧ b)) ∧ (x.sub = 1 → (n = 1 ↔ a ∨ b)) ∧ (x.sub = 2 → (n = 1 ↔ ¬ (a ↔ b))) ∧
      (x.sub = 3 → (n = 1 ↔ a ∧ ¬ b)) ∧ (x.sub = 4 → (n = 1 ↔ ¬ a)) ∧ (x.sub = 5 → (n = 1 ↔ a))) ∧
    (x.slot.sa = .k r →
      delivers (memberKpop x) (fun l n =>
        (x.sub = 0 → n = ((List.range w).filter (bit l)).length) ∧ (x.sub = 1 → n = ((List.range (l % w)).filter (bit l)).length)) ∧
      delivers (memberKffs x) (fun l n =>
        let finds (lo : Nat) : Prop := ((∀ j, lo ≤ j → j < w → bit l j = false) → n = 0xFFFFFFFF) ∧
          ∀ j, lo ≤ j → j < w → bit l j = true → (∀ i, lo ≤ i → i < j → bit l i = false) → n = j
        (x.sub = 0 → finds 0) ∧ (x.sub = 1 → finds (l % w + 1)) ∧
        (x.sub = 2 → ((∀ j, j < w → bit l j = false) → n = 0xFFFFFFFF) ∧
          ∀ j, j < w → bit l j = true → (∀ i, j < i → i < w → bit l i = false) → n = j))))

/-- A variable-latency instruction of the ALU layout, its gate open and some lane active, leaves its write outstanding and every lane
goes on: IDIV, IREM (R101) and FRCP, FRSQ, FSQRT, FDIV, FEXP2, FLOG2, FSINT and FCOST (R21, R122). R101: the quotient and remainder, their
identity and sign, and the cases of a zero divisor and of the least value by −1. That a vector form may name an s or x destination is log
entry 81 (DEDUCED). -/
def Obligations.VariableLatencyAluFollowsItsRules : Prop :=
  (
  ∀ (x : Alu) (s : State) (fr : Frame), fr.actives x.slot ≠ [] →
    let late (i : Instr) (form : Form) (wide float : Bool) (g : AluFn) : Prop :=
      s.gate i x.slot form x.sf .user = some fr →
        let w := s.lateOut x wide float g fr (fr.actives x.slot)
        exec i s = .next ((s.onOwn fr fun k => k.addOut w).ended fr x.slot [] (w.exc.map fun t => t.lane) [])
    let special (i : Instr) (two : Bool) (g : Fmt → Bool → Nat → Nat → FRes) : Prop :=
      late i (formSpecialOps x two) false true (floatFn x (formSpecialOps x two) fun c a b _ => g (fmtOf x.ty) c.ftz a b)
    late (.idiv x) (formDivOps x.ty) (x.ty.width == 64) false (pureFn x (formDivOps x.ty) fun o => idivQuot x.ty o.a o.b) ∧
    late (.irem x) (formDivOps x.ty) (x.ty.width == 64) false (pureFn x (formDivOps x.ty) fun o => idivRem x.ty o.a o.b) ∧
    special (.frcp x) false (fun f z a _ => fRcp f z a) ∧ special (.frsq x) false (fun f z a _ => fRsq f z a) ∧
    special (.fsqrt x) false (fun f z a _ => fSqrt f z a) ∧ special (.fdiv x) true fDiv ∧
    special (.fexp2 x) false (fun f z a _ => fExp2 f z a) ∧ special (.flog2 x) false (fun f z a _ => fLog2 f z a) ∧
    special (.fsint x) false (fun f z a _ => fSint f z a) ∧ special (.fcost x) false (fun f z a _ => fCost f z a)) ∧
  (
  ∀ (t : Ty) (a b : Dword), t ∈ [Ty.i8, .i16, .i32, .i64, .n8, .n16, .n32, .n64] →
    let n := t.width
    (b.toNat % 2 ^ n = 0 → (idivQuot t a b).toNat = 2 ^ n - 1 ∧ (idivRem t a b).toNat = a.toNat % 2 ^ n) ∧
    (b.toNat % 2 ^ n ≠ 0 → t.signed = true → intVal t a = -(2 : Int) ^ (n - 1) → intVal t b = -1 →
      intVal t (idivQuot t a b) = intVal t a ∧ intVal t (idivRem t a b) = 0) ∧
    (b.toNat % 2 ^ n ≠ 0 → ¬ (t.signed = true ∧ intVal t a = -(2 : Int) ^ (n - 1) ∧ intVal t b = -1) →
      intVal t a = intVal t (idivQuot t a b) * intVal t b + intVal t (idivRem t a b) ∧
      (intVal t (idivRem t a b)).natAbs < (intVal t b).natAbs ∧
      (intVal t (idivRem t a b) ≠ 0 → (intVal t (idivRem t a b) < 0 ↔ intVal t a < 0))))

/-- R77: a nonzero exact value of magnitude n/d is rounded once to FP32, FP16 or BF16. Toward zero the result is the greatest magnitude of
the format at most n/d, away from zero the least at least n/d, to nearest the nearest with ties to even; beyond the largest number it is
Inf, or toward zero the largest; and NX is raised exactly when the result differs. -/
def Obligations.FloatRoundingIsCorrect : Prop :=
  ∀ (f : Fmt) (rm : Rnd) (neg : Bool) (n d : Nat), f ∈ [fmt32, fmt16, fmtB16] → 0 < n → 0 < d →
    let value (m : Nat) : Nat := if m / 2 ^ f.fb = 0 then m else (2 ^ f.fb + m % 2 ^ f.fb) * 2 ^ (m / 2 ^ f.fb - 1)
    let r := roundRatio f { rm := rm, ftz := false } false neg n d
    let mag := r.1 % f.signBit
    let x := n * 2 ^ (f.bias + f.fb - 1)
    let inf := (2 ^ f.eb - 1) * 2 ^ f.fb
    r.1 = (if neg then f.signBit else 0) + mag ∧ mag ≤ inf ∧
    ((rm = .rtz ∨ rm = .rdn ∧ neg = false ∨ rm = .rup ∧ neg = true) →
      value mag * d ≤ x ∧ mag < inf ∧ (mag + 1 < inf → x < value (mag + 1) * d)) ∧
    ((rm = .rdn ∧ neg = true ∨ rm = .rup ∧ neg = false) →
      0 < mag ∧ value (mag - 1) * d < x ∧ (mag < inf → x ≤ value mag * d)) ∧
    (rm = .rne →
      (mag < inf → 2 * x ≤ (value mag + value (mag + 1)) * d ∧ (2 * x = (value mag + value (mag + 1)) * d → mag % 2 = 0)) ∧
      (0 < mag → (value (mag - 1) + value mag) * d ≤ 2 * x ∧ ((value (mag - 1) + value mag) * d = 2 * x → mag % 2 = 0))) ∧
    (r.2 &&& flagNX = 0 ↔ mag < inf ∧ value mag * d = x)

/-- R82, R113 to R115: NaN operands and the invalid operations of FADD, FSUB and FMUL; FMIN and FMAX give an operand, with −0 below +0;
and FCMP compares, for FP32, FP16 and BF16. R116: the class word. R119: the exponent and the significand that FEXT takes apart. -/
def Obligations.FloatSpecialOperandsFollowTheRules : Prop :=
  ∀ (f : Fmt) (c : RoundCfg) (a b : Nat), f ∈ [fmt32, fmt16, fmtB16] → a < 2 * f.signBit → b < 2 * f.signBit →
    let inf := (2 ^ f.eb - 1) * 2 ^ f.fb
    let nan (x : Nat) : Prop := inf < x % f.signBit
    let nv : Word := if a % f.signBit ≤ inf ∧ b % f.signBit ≤ inf then 0
      else if (inf < a % f.signBit ∧ a.testBit (f.fb - 1) = false) ∨ (inf < b % f.signBit ∧ b.testBit (f.fb - 1) = false) then 1 else 0
    let place (x : Nat) : Int := if x < f.signBit then (x : Int) else (f.signBit : Int) - x - 1
    let level (x : Nat) : Int := if x < f.signBit then (x : Int) else (f.signBit : Int) - x
    ((nan a ∨ nan b) → fAdd f c a b = (f.nan, nv) ∧ fSub f c a b = (f.nan, nv) ∧ fMul f c a b = (f.nan, nv)) ∧
    (a = inf → b = inf → fAdd f c a (f.signBit + b) = (f.nan, 1) ∧ fSub f c a b = (f.nan, 1) ∧ fAdd f c a b = (inf, 0)) ∧
    (a % f.signBit = 0 → b % f.signBit = inf → fMul f c a b = (f.nan, 1)) ∧
    (nan a → nan b → ∀ isMax, fMinMax f isMax a b = (f.nan, nv)) ∧
    (nan a → ¬ nan b → ∀ isMax, fMinMax f isMax a b = (b, nv) ∧ fMinMax f isMax b a = (b, nv)) ∧
    (¬ nan a → ¬ nan b →
      fMinMax f false a b = ((if place a < place b then a else b), 0) ∧ fMinMax f true a b = ((if place b < place a then a else b), 0)) ∧
    (∀ sub, sub < 8 → (fCmp f sub a b).1 = 1 ∨ (fCmp f sub a b).1 = 0) ∧
    ((fCmp f 0 a b).1 = 1 ↔ ¬ nan a ∧ ¬ nan b ∧ level a = level b) ∧ ((fCmp f 1 a b).1 = 1 ↔ nan a ∨ nan b ∨ level a ≠ level b) ∧
    ((fCmp f 2 a b).1 = 1 ↔ ¬ nan a ∧ ¬ nan b ∧ level a < level b) ∧ ((fCmp f 3 a b).1 = 1 ↔ ¬ nan a ∧ ¬ nan b ∧ level a ≤ level b) ∧
    ((fCmp f 4 a b).1 = 1 ↔ ¬ nan a ∧ ¬ nan b ∧ level b < level a) ∧ ((fCmp f 5 a b).1 = 1 ↔ ¬ nan a ∧ ¬ nan b ∧ level b ≤ level a) ∧
    ((fCmp f 6 a b).1 = 1 ↔ nan a ∨ nan b) ∧ ((fCmp f 7 a b).1 = 1 ↔ ¬ nan a ∧ ¬ nan b) ∧
    (∀ sub, 2 ≤ sub → sub ≤ 5 → (fCmp f sub a b).2 = if a % f.signBit ≤ inf ∧ b % f.signBit ≤ inf then 0 else 1) ∧
    (∀ sub, sub < 8 → ¬ (2 ≤ sub ∧ sub ≤ 5) → (fCmp f sub a b).2 = nv) ∧
    (let m := a % f.signBit
     let of_ (neg pos : Nat) : Nat := if a < f.signBit then pos else neg
     let v (x : Nat) : Nat := if x / 2 ^ f.fb = 0 then x else (2 ^ f.fb + x % 2 ^ f.fb) * 2 ^ (x / 2 ^ f.fb - 1)
     let nv1 : Word := if a.testBit (f.fb - 1) then 0 else 1
     classWord f a = (if inf < m then (if a.testBit (f.fb - 1) then 2 else 1) else if m = inf then of_ 4 512 else if m = 0 then of_ 32 64
       else if m < 2 ^ f.fb then of_ 16 128 else of_ 8 256) ∧
     (inf < m → fExtExp f a = (0x7FFFFFFF, nv1) ∧ fExtMant f a = (f.nan, nv1)) ∧
     (m = inf → fExtExp f a = (0x7FFFFFFF, 0) ∧ fExtMant f a = (a, 0)) ∧ (m = 0 → fExtExp f a = (0x80000000, 0) ∧ fExtMant f a = (a, 0)) ∧
     (0 < m → m < inf →
       fExtExp f a = ((((Nat.log2 (v m) : Int) - (f.bias + f.fb - 1 : Nat)) % 2 ^ 32).toNat, 0) ∧ (fExtMant f a).2 = 0 ∧
       ((fExtMant f a).1 < f.signBit ↔ a < f.signBit) ∧
       v ((fExtMant f a).1 % f.signBit) * 2 ^ Nat.log2 (v m) = v m * 2 ^ (f.bias + f.fb - 1)))

/-- R85 to R87, R113, R116 to R120: a float result is the exact value rounded once. For finite operands with a nonzero exact result, FADD,
FSUB, FMUL, FFMA, FSCL, FDOT2 and the conversions to a float format give what R77's rounding (the statement above) gives for that value; an
exact zero sum has R113's sign; FRND and the conversions to an integer round to the integer that the mode names, with R86's limits (but for
STO); and each float instruction delivers its operation on its modified and flushed operands, element by element (R75, R79, R111), a scalar
form on the leader's (R137). A scale beyond ±600 rounds as ±600 does. -/
def Obligations.FloatResultsAreRoundedExactValues : Prop :=
  let unit (f : Fmt) : Nat := 2 ^ (f.bias + f.fb - 1)
  let fin (f : Fmt) (x : Nat) : Prop :=
    x < 2 * f.signBit ∧ if f.top = .e4m3 then x % f.signBit ≠ f.signBit - 1 else x % f.signBit < (2 ^ f.eb - 1) * 2 ^ f.fb
  let num (f : Fmt) (x : Nat) : Int :=
    let m := x % f.signBit
    (if x < f.signBit then 1 else -1) *
      ((if m / 2 ^ f.fb = 0 then m else (2 ^ f.fb + m % 2 ^ f.fb) * 2 ^ (m / 2 ^ f.fb - 1) : Nat) : Int)
  let rounds (f : Fmt) (c : RoundCfg) (sat : Bool) (r : FRes) (z : Int) (den : Nat) : Prop :=
    z ≠ 0 → ∃ n d, 0 < n ∧ 0 < d ∧ n * den = z.natAbs * d ∧ r = roundRatio f c sat (decide (z < 0)) n d
  let nearest (rm : Rnd) (z : Int) (den : Nat) (i : Int) : Prop :=
    (rm = .rtz → i = z.tdiv den) ∧ (rm = .rdn → i = z / den) ∧ (rm = .rup → i = -(-z / den)) ∧
    (rm = .rne → 2 * |i * den - z| ≤ den ∧ (2 * |i * den - z| = den → i % 2 = 0)) ∧ rm ∈ [Rnd.rtz, .rdn, .rup, .rne]
  (
  ∀ (f : Fmt) (c : RoundCfg) (a b d : Nat) (k : Int), f ∈ [fmt32, fmt16, fmtB16] → fin f a → fin f b → fin f d →
    rounds f c false (fAdd f c a b) (num f a + num f b) (unit f) ∧
    rounds f c false (fSub f c a b) (num f a - num f b) (unit f) ∧
    rounds f c false (fMul f c a b) (num f a * num f b) (unit f * unit f) ∧
    rounds f c false (fFma f c a b d) (num f a * num f b + num f d * unit f) (unit f * unit f) ∧
    (0 ≤ k → k ≤ 600 → rounds f c false (fScl f c a k) (num f a * 2 ^ k.toNat) (unit f)) ∧
    (k < 0 → -600 ≤ k → rounds f c false (fScl f c a k) (num f a) (unit f * 2 ^ (-k).toNat)) ∧
    fScl f c a k = fScl f c a (max (-600) (min k 600)) ∧
    (num f a + num f b = 0 →
      fAdd f c a b = (if a % f.signBit = 0 ∧ a = b then a else if c.rm = .rdn then f.signBit else 0, 0)) ∧
    (num f a * num f b = 0 → fMul f c a b = (if (a < f.signBit ↔ b < f.signBit) then 0 else f.signBit, 0)) ∧
    ∀ i, nearest c.rm (num f a) (unit f) i →
      (fRnd f c a).2 = 0 ∧ fin f (fRnd f c a).1 ∧ num f (fRnd f c a).1 = i * unit f ∧ ((fRnd f c a).1 < f.signBit ↔ a < f.signBit)) ∧
  (
  ∀ (g : Fmt) (c : RoundCfg) (a0 b0 a1 b1 d : Nat), g ∈ [fmt16, fmtB16] → fin g a0 → fin g b0 → fin g a1 → fin g b1 → fin fmt32 d →
    rounds fmt32 c false (fDot2 g c a0 b0 a1 b1 d)
      ((num g a0 * num g b0 + num g a1 * num g b1) * unit fmt32 + num fmt32 (flushBits fmt32 c.ftz d) * (unit g * unit g))
      (unit g * unit g * unit fmt32)) ∧
  (
  ∀ (g f : Fmt) (c : RoundCfg) (sat : Bool) (a : Nat) (v : Int), g ∈ [fmt32, fmt16, fmtB16, fmtE4M3, fmtE5M2] → fin g a →
    rounds f c sat (cvtFloat g f c sat a) (num g a) (unit g) ∧ rounds f c sat (cvtFromInt f c sat v) v 1 ∧
    cvtFromInt f c sat 0 = (0, 0) ∧
    ∀ (signed : Bool) (n : Nat) (i : Int), 0 < n → nearest c.rm (num g a) (unit g) i →
      let r := cvtToInt g c signed n a
      (intMin signed n ≤ i → i ≤ intMax signed n → (r.1 : Int) = i % 2 ^ n ∧ (r.2 = if i * unit g = num g a then 0 else flagNX)) ∧
      (intMax signed n < i → (r.1 : Int) = intMax signed n ∧ r.2 = flagNV) ∧
      (i < intMin signed n → (r.1 : Int) = intMin signed n % 2 ^ n ∧ r.2 = flagNV)) ∧
  (
  ∀ (x : Alu) (fr : Frame) (ls : List Nat),
    let f := fmtOf x.ty
    let on := fr.active x.slot ls
    let from_ (l : Nat) : Nat := if x.sf then fr.leader x.slot else l
    let one (m : Member) (g : RoundCfg → Nat → Nat → Nat → FRes) (l k : Nat) : FRes :=
      let o := fr.opnds x m.form l
      let c := fr.roundCfg x x.ty.packed l k
      g c (flushBits f c.ftz (modBits f x.aneg x.aabs (floatElem x.ty o.a k)))
        (flushBits f c.ftz (modBits f x.bneg x.babs (floatElem x.ty o.b k))) (flushBits f c.ftz (floatElem x.ty o.c k))
    let gives (m : Member) (g : RoundCfg → Nat → Nat → Nat → FRes) : Prop := (m.plan fr ls).vals = on.map fun l =>
      if x.ty.packed then
        (l, BitVec.ofNat 64 ((one m g (from_ l) 0).1 + 65536 * (one m g (from_ l) 1).1), (one m g (from_ l) 0).2 ||| (one m g (from_ l) 1).2)
      else (l, BitVec.ofNat 64 (one m g (from_ l) 0).1, (one m g (from_ l) 0).2)
    gives (memberFadd x) (fun c a b _ => fAdd f c a b) ∧ gives (memberFsub x) (fun c a b _ => fSub f c a b) ∧
    gives (memberFmul x) (fun c a b _ => fMul f c a b) ∧ gives (memberFfma x) (fun c a b d => fFma f c a b d) ∧
    gives (memberFmin x) (fun _ a b _ => fMinMax f false a b) ∧ gives (memberFmax x) (fun _ a b _ => fMinMax f true a b) ∧
    gives (memberFcmp x) (fun _ a b _ => fCmp f x.sub.val a b) ∧ gives (memberFrnd x) (fun c a _ _ => fRnd f c a) ∧
    gives (memberFextExp x) (fun _ a _ _ => fExtExp f a) ∧ gives (memberFextMant x) (fun _ a _ _ => fExtMant f a) ∧
    (let cls (m : Member) (l : Nat) : Nat := classWord f (modBits f x.aneg x.aabs (floatElem x.ty (fr.opnds x m.form (from_ l)).a 0))
     ((memberFcls x).plan fr ls).vals = on.map (fun l => (l, BitVec.ofNat 64 (cls (memberFcls x) l), 0)) ∧
     ((memberFclsTest x).plan fr ls).vals = on.map (fun l => (l, if ∃ i ∈ List.range 10, (cls (memberFclsTest x) l).testBit i = true ∧
       (fr.opnds x (memberFclsTest x).form (from_ l)).b.getLsbD i = true then 1 else 0, 0))) ∧
    ((memberFscl x).plan fr ls).vals = on.map (fun l => (l, floatFn x (memberFscl x).form (fun c a _ _ =>
      fScl f c a (((fr.opnds x (memberFscl x).form (from_ l)).b.setWidth 32).toInt)) fr on (from_ l))) ∧
    ((memberFdot2 x).plan fr ls).vals = on.map (fun l =>
      let o := fr.opnds x (memberFdot2 x).form (from_ l)
      let r := fDot2 f (fr.roundCfg x false (from_ l) 0)
        (modBits f x.aneg x.aabs (floatElem x.ty o.a 0)) (modBits f x.bneg x.babs (floatElem x.ty o.b 0))
        (modBits f x.aneg x.aabs (floatElem x.ty o.a 1)) (modBits f x.bneg x.babs (floatElem x.ty o.b 1)) (o.c.toNat % 2 ^ 32)
      (l, BitVec.ofNat 64 r.1, r.2)) ∧
    ((memberCvt x).plan fr ls).vals = on.map fun l =>
      let o := fr.opnds x (memberCvt x).form (from_ l)
      let st := tyOfCode x.slot.lit.toNat
      let g := fmtOf st
      let c (k : Nat) := fr.roundCfg x x.ty.packed (from_ l) k
      let a (k : Nat) := flushBits g (c 0).ftz (modBits g x.aneg x.aabs (floatElem st o.a k))
      let b := flushBits g (c 0).ftz (modBits g x.bneg x.babs (floatElem st o.b 0))
      (l, match cvtForm st x.ty with
        | some .floatFloat => (BitVec.ofNat 64 (cvtFloat g f (c 0) x.sat (a 0)).1, (cvtFloat g f (c 0) x.sat (a 0)).2)
        | some .unpack => (BitVec.ofNat 64 (cvtFloat g f (c 0) x.sat (a x.sub.val)).1, (cvtFloat g f (c 0) x.sat (a x.sub.val)).2)
        | some .pack =>
          (BitVec.ofNat 64 ((cvtFloat g f (c 0) x.sat (a 0)).1 + 65536 * (cvtFloat g f (c 1) x.sat b).1),
            (cvtFloat g f (c 0) x.sat (a 0)).2 ||| (cvtFloat g f (c 1) x.sat b).2)
        | some .repack =>
          (BitVec.ofNat 64 ((cvtFloat g f (c 0) x.sat (a 0)).1 + 65536 * (cvtFloat g f (c 1) x.sat (a 1)).1),
            (cvtFloat g f (c 0) x.sat (a 0)).2 ||| (cvtFloat g f (c 1) x.sat (a 1)).2)
        | some .floatInt =>
          (BitVec.ofNat 64 (cvtToInt g (c 0) x.ty.signed x.ty.width (a 0)).1, (cvtToInt g (c 0) x.ty.signed x.ty.width (a 0)).2)
        | some .intFloat =>
          (BitVec.ofNat 64 (cvtFromInt f (c 0) x.sat (intVal st o.a)).1, (cvtFromInt f (c 0) x.sat (intVal st o.a)).2)
        | none => (0, 0)))

/-- R122 to R125: the special functions where an operand is a NaN, an infinity, a zero or of the wrong sign, and where the result is exact
(FEXP2 of an integer, FLOG2 of a power of two, FSINT and FCOST of quarter turns); and the quotients and roots, which are the exact value
rounded once to nearest: FRCP and FDIV as R77 rounds the quotient, FSQRT and FRSQ the number next to the root. The model takes FEXP2 of an
argument beyond ±1000 as of ±1000. -/
def Obligations.SpecialFunctionsQuotientsAndRoots : Prop :=
  ∀ (f : Fmt) (z : Bool) (a b : Nat), f ∈ [fmt32, fmt16, fmtB16] → a < 2 * f.signBit → b < 2 * f.signBit →
    let S : Nat := f.signBit
    let inf : Nat := (2 ^ f.eb - 1) * 2 ^ f.fb
    let one : Nat := f.bias * 2 ^ f.fb
    let U : Nat := 2 ^ (f.bias + f.fb - 1)
    let V (m : Nat) : Nat := if m / 2 ^ f.fb = 0 then m else (2 ^ f.fb + m % 2 ^ f.fb) * 2 ^ (m / 2 ^ f.fb - 1)
    let signal (x : Nat) : Prop := inf < x % S ∧ x.testBit (f.fb - 1) = false
    let nv (p : Bool) : Word := if p then 1 else 0
    let signed (neg : Bool) (m : Nat) : Nat := if neg then S + m else m
    let xor : Bool := decide (a < S) != decide (b < S)
    let fin (x : Nat) : Prop := 0 < x % S ∧ x % S < inf
    let A : Nat := V (a % S)
    let B : Nat := V (b % S)
    let rne : RoundCfg := { rm := .rne, ftz := z }
    let rounds (r : FRes) (neg : Bool) (x y : Nat) : Prop :=
      ∃ n d, 0 < n ∧ 0 < d ∧ n * y = x * d ∧ r = roundRatio f rne false neg n d
    (inf < a % S → ∀ g ∈ [fRcp, fRsq, fSqrt, fExp2, fLog2, fSint, fCost], g f z a = (f.nan, nv (!a.testBit (f.fb - 1)))) ∧
    (a = inf → fRcp f z a = (0, 0) ∧ fRsq f z a = (0, 0) ∧ (∀ g ∈ [fSqrt, fExp2, fLog2], g f z a = (inf, 0)) ∧
      ∀ g ∈ [fSint, fCost], g f z a = (f.nan, 1)) ∧
    (a = S + inf → fRcp f z a = (S, 0) ∧ fExp2 f z a = (0, 0) ∧ ∀ g ∈ [fRsq, fSqrt, fLog2, fSint, fCost], g f z a = (f.nan, 1)) ∧
    (a % S = 0 → (∀ g ∈ [fRcp, fRsq], g f z a = (a + inf, 2)) ∧ fLog2 f z a = (S + inf, 2) ∧
      (∀ g ∈ [fSqrt, fSint], g f z a = (a, 0)) ∧ ∀ g ∈ [fExp2, fCost], g f z a = (one, 0)) ∧
    (S < a → a % S < inf → ∀ g ∈ [fRsq, fSqrt, fLog2], g f z a = (f.nan, 1)) ∧
    (a = one → (∀ g ∈ [fRcp, fRsq, fSqrt, fCost], g f z a = (one, 0)) ∧ (∀ g ∈ [fLog2, fSint], g f z a = (0, 0)) ∧
      fExp2 f z a = (one + 2 ^ f.fb, 0)) ∧
    ((inf < a % S ∨ inf < b % S) → (fDiv f z a b).1 = f.nan ∧ ((fDiv f z a b).2 = 1 ∨ (fDiv f z a b).2 = 0) ∧
      ((fDiv f z a b).2 = 1 ↔ signal a ∨ signal b)) ∧
    ((a % S = 0 ∧ b % S = 0 ∨ a % S = inf ∧ b % S = inf) → fDiv f z a b = (f.nan, 1)) ∧
    (fin a → b % S = 0 → fDiv f z a b = (signed xor inf, 2)) ∧
    (a % S = inf → b % S < inf → fDiv f z a b = (signed xor inf, 0)) ∧
    (a % S < inf → b % S = inf → fDiv f z a b = (signed xor 0, 0)) ∧
    (a % S = 0 → fin b → fDiv f z a b = (signed xor 0, 0)) ∧
    (fin a → fin b → rounds (fDiv f z a b) xor A B) ∧
    (fin a → rounds (fRcp f z a) (decide (S ≤ a)) U A) ∧
    (a < S → fin a →
      (∃ q, fSqrt f z a = (q, if V q ^ 2 = A * U then 0 else 16) ∧ 0 < q ∧ q < inf ∧
        (V (q - 1) + V q) ^ 2 < 4 * A * U ∧ 4 * A * U < (V q + V (q + 1)) ^ 2) ∧
      ∃ q, fRsq f z a = (q, if A * V q ^ 2 = U ^ 3 then 0 else 16) ∧ 0 < q ∧ q < inf ∧
        A * (V (q - 1) + V q) ^ 2 < 4 * U ^ 3 ∧ 4 * U ^ 3 < A * (V q + V (q + 1)) ^ 2) ∧
    (fin a → U ∣ A →
      let k : Int := if a < S then (A / U : Nat) else -(A / U : Nat)
      let w := max (-1000) (min k 1000)
      fExp2 f z a = roundRatio f rne false false (2 ^ w.toNat) (2 ^ (-w).toNat) ∧
      ((f.bias : Int) < k → fExp2 f z a = (inf, 20)) ∧
      (k ≤ f.bias → -(f.bias + f.fb - 1 : Nat) ≤ k → z = false ∨ f ≠ fmt32 ∨ -(f.bias : Int) < k → (fExp2 f z a).2 = 0)) ∧
    (fin a → a < S → ∀ j : Nat, A = 2 ^ j →
      let k : Int := (j : Int) - (f.bias + f.fb - 1 : Nat)
      (fLog2 f z a).2 = 0 ∧ fLog2 f z a = if k = 0 then (0, 0) else roundRatio f rne false (decide (k < 0)) k.natAbs 1) ∧
    (fin a → U ∣ 4 * A →
      (4 * A / U % 4 = 0 ∨ 4 * A / U % 4 = 2 → fSint f z a = (signed (decide (S ≤ a)) 0, 0)) ∧
      (4 * A / U % 4 = 1 → fSint f z a = (signed (decide (S ≤ a)) one, 0)) ∧
      (4 * A / U % 4 = 3 → fSint f z a = (signed (decide (a < S)) one, 0)) ∧
      fCost f z a = (if 4 * A / U % 4 = 0 then one else if 4 * A / U % 4 = 2 then S + one else 0, 0))

/-- R122: FEXP2, FLOG2, FSINT and FCOST of a finite operand where the function's value is not exact: the result is what R77's rounding to
nearest gives for every number of an interval with the function's value inside, and NX is raised. The premise that one of the five precisions
tried decides the rounding, which the model takes to hold of every operand, is log entry 6 (DEDUCED). -/
def Obligations.TranscendentalsRoundTheRealValue : Prop :=
  ∀ (f : Fmt) (z : Bool) (a : Nat), f ∈ [fmt32, fmt16, fmtB16] → a < 2 * f.signBit →
    let S : Nat := f.signBit
    let m : Nat := a % S
    let U : Nat := 2 ^ (f.bias + f.fb - 1)
    let A : Nat := if m / 2 ^ f.fb = 0 then m else (2 ^ f.fb + m % 2 ^ f.fb) * 2 ^ (m / 2 ^ f.fb - 1)
    let neg : Bool := decide (S ≤ a)
    let value : ℝ := (if neg then -1 else 1) * (A : ℝ) / (U : ℝ)
    let rounds (r : FRes) (v : ℝ) : Prop := ∃ (minus : Bool) (lo hi d : Nat), 0 < lo ∧ 0 < d ∧ (minus = true ↔ v < 0) ∧
      (lo : ℝ) / d < |v| ∧ |v| < (hi : ℝ) / d ∧
      let at_ (n : Nat) : FRes := roundRatio f { rm := .rne, ftz := z } false minus n d
      r.1 = (at_ lo).1 ∧ r.1 = (at_ hi).1 ∧ r.2 = (at_ lo).2 ||| (at_ hi).2 ||| 16
    let decides (g : Nat → Option FRes) : Prop := ∃ i, i < 5 ∧ (g (640 * 2 ^ i)).isSome = true
    0 < m → m < (2 ^ f.eb - 1) * 2 ^ f.fb →
    (¬ U ∣ A →
      let whole : Int := (if neg then -(A : Int) else A) / U
      let frac : Nat := ((if neg then -(A : Int) else A) % U).toNat
      (-1000 ≤ whole → whole ≤ 1000 → decides (exp2At f z frac U whole)) → rounds (fExp2 f z a) ((2 : ℝ) ^ value)) ∧
    (neg = false → (∀ j, A ≠ 2 ^ j) → decides (log2At f z A (Nat.log2 A) (Nat.log2 A - (f.bias + f.fb - 1 : Nat) : Int)) →
      rounds (fLog2 f z a) (Real.logb 2 value)) ∧
    (¬ U ∣ 4 * A →
      let q : Nat := 4 * A / U
      (decides (turnAt f z (q % 2 == 1) (neg != decide (2 ≤ q % 4)) (4 * A % U) U) → rounds (fSint f z a) (Real.sin (2 * Real.pi * value))) ∧
      (decides (turnAt f z (q % 2 == 0) (q % 4 == 1 || q % 4 == 2) (4 * A % U) U) → rounds (fCost f z a) (Real.cos (2 * Real.pi * value))))

/-- R152, R154 to R158: what KOP, VOTE, ELECT, SHFL, PLYRED and PLYSCAN deliver to each active lane, from the active lanes of its own ply in
ascending order (KOP from the lane's own operands, in a scalar form from the leader's). A float fold over one value keeps it as it is (R158),
but for a NaN, which becomes the canonical one and raises NV when it is signalling (R81, R82; log entry 77: DEDUCED). -/
def Obligations.ParallelResultsFollowTheTables : Prop :=
  ∀ (x : Alu) (fr : Frame) (ls : List Nat), fr.k.ply ∈ [2, 4, 8, 16, 32] → ls.Nodup → ls.Pairwise (· < ·) →
    let w := fr.k.ply
    let on := fr.active x.slot ls
    let mates (l : Nat) : List Nat := on.filter fun j => j / w == l / w
    let delivers (m : Member) (g : (Nat → Opnds) → Nat → Dword × Word → Prop) : Prop :=
      (m.plan fr ls).vals.map (fun v => v.1) = on ∧
        ∀ v ∈ (m.plan fr ls).vals, g (fun l => fr.opnds x m.form (if x.sf then fr.leader x.slot else l)) v.1 v.2
    delivers (memberKop x) (fun o l r => r.2 = 0 ∧
      (x.sub = 0 → (r.1 = if (o l).a ≠ 0 ∧ (o l).b ≠ 0 then 1 else 0)) ∧ (x.sub = 1 → (r.1 = if (o l).a ≠ 0 ∨ (o l).b ≠ 0 then 1 else 0)) ∧
      (x.sub = 2 → (r.1 = if ((o l).a = 0 ↔ (o l).b = 0) then 0 else 1)) ∧
      (x.sub = 3 → (r.1 = if (o l).a ≠ 0 ∧ (o l).b = 0 then 1 else 0)) ∧
      (x.sub = 4 → (r.1 = if (o l).a = 0 then 1 else 0)) ∧ (x.sub = 5 → (r.1 = if (o l).a = 0 then 0 else 1))) ∧
    (x.sf = false →
    delivers (memberVote x) (fun o l r =>
      let a (j : Nat) : Nat := (o j).a.toNat % 2 ^ 32
      let set := (mates l).filter fun j => a j != 0
      r.2 = 0 ∧
      (x.sub = 0 → (r.1 = if ∀ j ∈ mates l, a j ≠ 0 then 1 else 0)) ∧ (x.sub = 1 → (r.1 = if ∃ j ∈ mates l, a j ≠ 0 then 1 else 0)) ∧
      (x.sub = 2 → (r.1 = if ∃ j ∈ mates l, a j ≠ 0 then 0 else 1)) ∧
      (x.sub = 3 → (r.1 = if ∀ j ∈ mates l, a j = a l then 1 else 0)) ∧
      (x.sub = 4 → ∀ n, n < 64 → (r.1.getLsbD n = true ↔ ∃ j ∈ set, j % w = n)) ∧
      (x.sub = 5 → r.1.toNat = set.length) ∧
      (x.sub = 6 → (set = [] → r.1 = 0xFFFFFFFF) ∧ ∀ j js, set = j :: js → r.1.toNat = j % w) ∧
      (x.sub = 7 → (set = [] → r.1 = 0xFFFFFFFF) ∧ ∀ j js, set = js ++ [j] → r.1.toNat = j % w)) ∧
    delivers (memberElect x) (fun _ l r => r = (if ∀ j ∈ mates l, l ≤ j then 1 else 0, 0)) ∧
    delivers (memberShfl x) (fun o l r =>
      let b : Nat := (o l).b.toNat % 2 ^ 32
      let i : Nat := l % w
      let takes (j : Int) : Prop := r = if 0 ≤ j ∧ j < w ∧ l / w * w + j.toNat ∈ on then ((o (l / w * w + j.toNat)).a, 0) else ((o l).a, 0)
      (x.sub = 0 → takes b) ∧ (x.sub = 1 → takes ((i ^^^ b : Nat) : Int)) ∧ (x.sub = 2 → takes ((i + b) % w : Nat)) ∧
      (x.sub = 3 → takes ((i : Int) - b)) ∧ (x.sub = 4 → takes ((i : Int) + b)) ∧ (x.sub = 5 → takes ((w : Int) - 1 - i))) ∧
    (let fold (o : Nat → Opnds) (l : Nat) (js : List Nat) (r : Dword × Word) : Prop :=
        let v (j : Nat) : Int := intVal x.ty (o j).a
        let f := fmtOf x.ty
        let c := fr.roundCfg x false l 0
        let fv (j : Nat) : Nat := flushBits f c.ftz (floatElem x.ty (o j).a 0)
        ∀ j rest, js = j :: rest →
          (x.ty.isFloat = false → r.2 = 0 ∧
            (x.sub = 0 → r.1 = intOut x (js.map v).sum) ∧
            (x.sub = 1 → r.1 = intOut x ((rest.map v).foldl min (v j))) ∧ (x.sub = 2 → r.1 = intOut x ((rest.map v).foldl max (v j))) ∧
            (x.ty.signed = false → x.sat = false → ∀ n, n < x.ty.width →
              (x.sub = 3 → (r.1.getLsbD n = true ↔ ∀ i ∈ js, (o i).a.getLsbD n = true)) ∧
              (x.sub = 4 → (r.1.getLsbD n = true ↔ ∃ i ∈ js, (o i).a.getLsbD n = true)) ∧
              (x.sub = 5 → (r.1.getLsbD n = true ↔ (js.filter fun i => (o i).a.getLsbD n).length % 2 = 1)))) ∧
          (x.ty.isFloat = true → x.ty ≠ .e4m3 →
            let g (y z : Nat) : FRes := if x.sub = 0 then fAdd f c y z else fMinMax f (x.sub != 1) y z
            let one : FRes := if (2 ^ f.eb - 1) * 2 ^ f.fb < fv j % f.signBit then (f.nan, if (fv j).testBit (f.fb - 1) then 0 else 1)
              else (fv j, 0)
            let all := (rest.map fv).foldl (fun acc z => ((g acc.1 z).1, acc.2 ||| (g acc.1 z).2)) one
            r = (BitVec.ofNat 64 all.1, all.2))
     delivers (memberPlyred x) (fun o l r => fold o l (mates l) r) ∧
     delivers (memberPlyscan x) (fun o l r =>
      (x.slot.lit = 0 → fold o l ((mates l).filter fun j => decide (j ≤ l)) r) ∧
      (x.slot.lit = 1 → fold o l ((mates l).filter fun j => decide (j < l)) r ∧
        ((∀ j ∈ mates l, l ≤ j) → r.2 = 0 ∧
          (x.sub = 0 → r.1 = if x.ty.isFloat then BitVec.ofNat 64 (fmtOf x.ty).signBit else 0) ∧
          (x.sub = 1 → r.1 = if x.ty.isFloat then BitVec.ofNat 64 ((fmtOf x.ty).inf false)
            else BitVec.ofInt 64 (intMax x.ty.signed x.ty.width % 2 ^ x.ty.width)) ∧
          (x.sub = 2 → r.1 = if x.ty.isFloat then BitVec.ofNat 64 ((fmtOf x.ty).inf true)
            else BitVec.ofInt 64 (intMin x.ty.signed x.ty.width % 2 ^ x.ty.width)) ∧
          (x.ty.isFloat = false → x.sub = 3 → r.1.toNat = 2 ^ x.ty.width - 1) ∧
          (x.ty.isFloat = false → x.sub = 4 ∨ x.sub = 5 → r.1 = 0))))))

/-! ## Traps -/

/-- R29: with the checking scoreboard on, a lane that makes an under-served read traps STALLSHORT: tval and return PC are the reading
instruction's PC, and a user lane enters the supervisor handler (a halted panel takes no trap, R390). R217, R201: a lane of LD or ST whose
access is misaligned traps ALIGN with its address, in global memory and in the scratchpads, whatever the other lanes' accesses are, once none
of them waits for a translation; and where every lane's access to global memory is misaligned, none is made. An LD that acts through its
leader traps every lane of the issue set with the leader's address (R139, R216). -/
def Obligations.UnderServedAndMisalignedAccessesTrap : Prop :=
  (
  ∀ (i : Instr) (m : Member) (s : State) (fr : Frame) (l : Nat) (a : Lane),
    memberOf i = some m → s.openFrame = .ok fr → fr.notReady = false → fr.p.halt = none →
    fr.staticTrap false .user m.form m.slot m.hi = none → fr.locked m.once m.form m.slot = false →
    l ∈ fr.shortLanes m.once m.form m.slot → s.laneAt fr.p.id fr.kx l = some a → a.mode = .user →
    ∃ t b, exec i s = .next t ∧ t.laneAt fr.p.id fr.kx l = some b ∧ b.mode = .supervisor ∧ b.pc = fr.p.image.entry ∧
      b.saveS = ⟨fr.pc, fr.pc, 6, 0⟩ ∧ b.needTgt = true) ∧
  (
  ∀ (m : Mem) (s : State) (fr : Frame) (l : Nat) (a : Lane), m.space = .global → l ∈ fr.actives m.slot →
    s.laneAt fr.p.id fr.kx l = some a → a.mode = .user → fr.p.halt = none → (∀ j ∈ fr.actives m.slot, fr.addr m 32 j % sizeBytes m.size ≠ 0) →
    let trapped (i : Instr) (form : Form) : Prop := s.gate i m.slot form false .user = some fr →
      ∃ t b, exec i s = .next t ∧ t.SameBytes s ∧ t.inflight = s.inflight ∧ t.laneAt fr.p.id fr.kx l = some b ∧
        b.mode = .supervisor ∧ b.saveS = ⟨fr.pc, BitVec.ofNat 64 (fr.addr m 32 l), 7, 0⟩ ∧ b.pc = fr.p.image.entry
    (actsOnce m.slot = false → trapped (.ld m) (formLoad m .base)) ∧ trapped (.st m) { a := .base, b := datumKind m.size }) ∧
  (
  ∀ (m : Mem) (s : State) (fr : Frame) (kind : AccessKind) (l j : Nat) (a : Lane), m.space ∈ [.global, .panel, .cluster] →
    s.laneAt fr.p.id fr.kx l = some a → a.mode = .user → fr.p.halt = none →
    let n := sizeBytes m.size
    let reach (i : Nat) : Reach := s.reach fr m.space m.scope kind (fr.addr m 32 i) n
    (∀ i ∈ fr.actives m.slot, reach i ≠ .machineCheck ∧ reach i ≠ .unbacked ∧ ∀ va, reach i ≠ .miss va) →
    j ∈ fr.actives m.slot → fr.addr m 32 j % n ≠ 0 →
    let trapped (i : Instr) (form : Form) (once : Bool) : Prop := s.gate i m.slot form once .user = some fr →
      ∃ t b, exec i s = .next t ∧ t.laneAt fr.p.id fr.kx l = some b ∧ b.mode = .supervisor ∧ b.pc = fr.p.image.entry ∧
        b.saveS = ⟨fr.pc, if m.space = .global then BitVec.ofNat 64 (fr.addr m 32 j)
          else spaceTval (if m.space = .cluster then 2 else 1) 0 (fr.addr m 32 j), 7, 0⟩
    (kind = .read → actsOnce m.slot = false → l = j → trapped (.ld m) (formLoad m (baseKind m.space)) false) ∧
    (kind = .read → actsOnce m.slot = true → j = fr.leader m.slot → l ∈ fr.lanes → trapped (.ld m) (formLoad m (baseKind m.space)) true) ∧
    (kind = .write → relWaits m fr s = false → l = j → trapped (.st m) { a := baseKind m.space, b := datumKind m.size } false))

/-- R9, R37, R399: a well-formed privileged instruction in user mode traps PRIV in every lane of the issue set, with tval slot[95:32] and
nothing else done: TRET, TLBI, HTLBI, CTXSAVE, CTXLOAD, SRD of an element, SWR of a register that only a higher mode may write, and SRD of
one that only a higher mode may read. -/
def Obligations.PrivilegedInstructionsTrapInUserMode : Prop :=
  ∀ (z : Slot) (s : State) (fr : Frame), s.openFrame = .ok fr → fr.notReady = false → fr.mode = .user →
    (∀ i ∈ [Instr.tret z, .tlbiVa z, .tlbiAll z, .tlbiProbe z, .htlbiIpa z, .htlbiAll z, .ctxsave z, .ctxload z, .srdElem z, .swrVpc z,
        .swrElemVpc z], i.wf = true →
      exec i s = .next (s.ended fr z [] [] (fr.allTrap .priv (slotHigh (encode i))))) ∧
    (∀ r, regRow z.regNumber = some r → r.write ≠ .user → r.write ≠ .never → (Instr.swr z).wf = true →
      exec (.swr z) s = .next (s.ended fr z [] [] (fr.allTrap .priv (slotHigh (encode (.swr z)))))) ∧
    ∀ r, regRow z.regNumber = some r → r.read ≠ .user → r.read ≠ .never → (Instr.srd z).wf = true →
      exec (.srd z) s = .next (s.ended fr z [] [] (fr.allTrap .priv (slotHigh (encode (.srd z)))))

/-- R382 and R391: what taking a cause does to a lane. The routed mode's save set takes the return PC, tval, cause and old mode with NEST
clear, its bank is cleared and the lane stands at its entry; a second trap into supervisor mode becomes DOUBLE; a second one into
hypervisor mode is not taken; and nothing else of the lane changes. -/
def Obligations.TrapEntryFollowsTakeTrap : Prop :=
  ∀ (l : Lane) (sup hyp : Dword) (t : Trap),
    let r := (l.takeTrap sup hyp t).1
    (route l.mode t.cause = some .supervisor → (l.mode ≠ .supervisor ∨ nestOfS l.saveS.status = true) →
      (l.takeTrap sup hyp t).2 = none ∧
      r.saveS = ⟨t.epc, t.tval, causeWord t.cause t.pair, BitVec.ofNat 32 l.mode.code⟩ ∧ nestOfS r.saveS.status = false ∧
      r.mode = .supervisor ∧ r.pc = sup ∧ r.lastChange = BitVec.allOnes 64 ∧ r.needTgt = true ∧
      (∀ n, n < 8 → r.qSup[n]? = some ⟨0, 0⟩) ∧ r.qUser = l.qUser ∧ r.qHyp = l.qHyp ∧ r.saveH = l.saveH) ∧
    (route l.mode t.cause = some .hypervisor → (l.mode ≠ .hypervisor ∨ nestOfH l.saveH.status = true) →
      (l.takeTrap sup hyp t).2 = none ∧ r.saveH.epc = t.epc ∧ r.saveH.tval = t.tval ∧ r.saveH.cause = causeWord t.cause t.pair ∧
      r.saveH.status.toNat % 4 = l.mode.code ∧ nestOfH r.saveH.status = false ∧
      (r.saveH.status.getLsbD 3 = true ↔ t.cause = .step) ∧
      r.mode = .hypervisor ∧ r.pc = hyp ∧ r.lastChange = BitVec.allOnes 64 ∧ r.needTgt = true ∧
      (∀ n, n < 8 → r.qHyp[n]? = some ⟨0, 0⟩) ∧ r.qUser = l.qUser ∧ r.qSup = l.qSup ∧ r.saveS = l.saveS) ∧
    (route l.mode t.cause = some .supervisor → l.mode = .supervisor → nestOfS l.saveS.status = false →
      (l.takeTrap sup hyp t).2 = none ∧ r.saveH.epc = t.epc ∧ r.saveH.cause = causeWord .double t.pair ∧
      r.saveH.tval = BitVec.ofNat 64 t.cause.code ∧ r.saveH.status.toNat % 4 = 1 ∧ nestOfH r.saveH.status = false ∧
      r.saveH.status.getLsbD 3 = false ∧ r.saveS = l.saveS ∧ r.mode = .hypervisor ∧ r.pc = hyp ∧ r.lastChange = BitVec.allOnes 64 ∧
      r.needTgt = true ∧ (∀ n, n < 8 → r.qHyp[n]? = some ⟨0, 0⟩) ∧ r.qUser = l.qUser ∧ r.qSup = l.qSup) ∧
    (route l.mode t.cause = some .hypervisor → l.mode = .hypervisor → nestOfH l.saveH.status = false →
      l.takeTrap sup hyp t = (l, some t.cause)) ∧
    (r.v = l.v ∧ r.tSup = l.tSup ∧ r.tHyp = l.tHyp ∧ r.exited = l.exited ∧ r.tdepth = l.tdepth ∧ r.origin = l.origin)

/-- R385 and R404: TRET completes. An active lane in supervisor or hypervisor mode takes its saved mode and PC, to arrive there by a
non-sequential change made by the TRET; its save sets and banks stay; a lane whose predicate is false goes on in its mode. In user mode
every lane of the issue set of a well-formed TRET traps PRIV. The event keeps no reads: R217 gives them to memory instructions alone. -/
def Obligations.TrapReturnRestoresModeAndPc : Prop :=
  (∀ (z : Slot) (s : State) (fr : Frame), s.openFrame = .ok fr → fr.notReady = false → fr.mode = .user → (Instr.tret z).wf = true →
    exec (.tret z) s = .next (s.ended fr z [] [] (fr.allTrap .priv (slotHigh (encode (.tret z)))))) ∧
  ∀ (z : Slot) (s : State) (fr : Frame) (l : Nat) (a : Lane), s.gate (.tret z) z {} false .supervisor = some fr → l ∈ fr.lanes →
    fr.k.lanes[l]? = some a → a.exited = false → fr.k.step = 0 → fr.k.reads = none →
    ∃ t b, exec (.tret z) s = .next t ∧ t.laneAt fr.p.id fr.kx l = some b ∧
      b.saveS = a.saveS ∧ b.saveH = a.saveH ∧ b.qUser = a.qUser ∧ b.qSup = a.qSup ∧ b.qHyp = a.qHyp ∧ b.v = a.v ∧
      (predOn z fr.k l = true → a.mode = .supervisor → b.mode = modeOfCode (a.saveS.status.toNat % 2) ∧ b.pc = a.saveS.epc ∧
        b.lastChange = fr.pc ∧ b.needTgt = true) ∧
      (predOn z fr.k l = true → a.mode = .hypervisor → b.mode = modeOfCode (a.saveH.status.toNat % 4) ∧ b.pc = a.saveH.epc ∧
        b.lastChange = fr.pc ∧ b.needTgt = true) ∧
      (predOn z fr.k l = false → b.mode = a.mode ∧ b.pc = nextPc fr.pc ∧ b.needTgt = false)

/-! ## Control -/

/-- R92 and R93: BRA, BRX, CALL, CALLX and RET. An active lane stands at its target by a non-sequential change made by the instruction,
any other lane at `next_pc`; and a link register takes `next_pc`, low word first. -/
def Obligations.BranchesMoveTheActiveLanes : Prop :=
  ∀ (z : Slot) (s : State) (fr : Frame) (l : Nat) (a : Lane), l ∈ fr.lanes → s.laneAt fr.p.id fr.kx l = some a → a.exited = false →
    fr.k.step = 0 →
    let lands (t : State) (dest : Dword) : Prop := ∃ b, t.laneAt fr.p.id fr.kx l = some b ∧ b.mode = a.mode ∧
      (predOn z fr.k l = true → b.pc = dest ∧ b.lastChange = fr.pc ∧ b.needTgt = true) ∧
      (predOn z fr.k l = false → b.pc = nextPc fr.pc ∧ b.needTgt = false)
    let links (t : State) : Prop :=
      (∀ r, z.dst = .v r → predOn z fr.k l = true → ∃ b, t.laneAt fr.p.id fr.kx l = some b ∧
        b.v.get r.val = loWord (nextPc fr.pc) ∧ b.v.get (r.val + 1) = hiWord (nextPc fr.pc)) ∧
      (∀ r, z.dst = .s r → predOn z fr.k l = true → ∃ k, t.skeinAt fr.p.id fr.kx = some k ∧
        k.s.get r.val = loWord (nextPc fr.pc) ∧ k.s.get (r.val + 1) = hiWord (nextPc fr.pc))
    let far : Dword := branchTarget fr.pc z.lit
    let there : Dword := fr.read z l z.sa true false
    (s.gate (.bra z) z {} false .user = some fr → ∃ t, exec (.bra z) s = .next t ∧ lands t far) ∧
    (s.gate (.brx z) z { a := .jump } false .user = some fr → ∃ t, exec (.brx z) s = .next t ∧ lands t there) ∧
    (s.gate (.ret z) z { a := .jump } false .user = some fr → ∃ t, exec (.ret z) s = .next t ∧ lands t there) ∧
    (s.gate (.call z) z { dst := .link } false .user = some fr → ∃ t, exec (.call z) s = .next t ∧ lands t far ∧ links t) ∧
    (s.gate (.callx z) z { dst := .link, a := .jump } false .user = some fr →
      ∃ t, exec (.callx z) s = .next t ∧ lands t there ∧ links t)

/-- R403: SYSCALL, HCALL and BKPT complete by their entry: an active user lane stands at the entry point its cause is routed to, with
tval LIT and the return PC `next_pc` (BKPT: the instruction); a lane whose predicate is false goes on. R94 to R98: what NOP, EXIT, PARK,
YIELD and SETFP leave of a lane of the issue set that the event moves on, and of skein.fpmode. That a save set discarded by an EXIT in a
handler reads as zero, and that an exited lane's pc stays at its EXIT, are the model's choices (log entries 8 and 20). -/
def Obligations.SystemCallsExitParkYieldAndSetfp : Prop :=
  (
  ∀ (z : Slot) (s : State) (fr : Frame) (l : Nat) (a : Lane), l ∈ fr.lanes → s.laneAt fr.p.id fr.kx l = some a → a.mode = .user →
    a.exited = false → fr.k.step = 0 → fr.p.halt = none →
    (s.gate (.syscall z) z {} false .user = some fr → ∃ t b, exec (.syscall z) s = .next t ∧ t.laneAt fr.p.id fr.kx l = some b ∧
      (predOn z fr.k l = true → b.mode = .supervisor ∧ b.pc = fr.p.image.entry ∧
        b.saveS = ⟨nextPc fr.pc, z.lit.setWidth 64, 8, 0⟩) ∧
      (predOn z fr.k l = false → b = { a with pc := nextPc fr.pc, needTgt := false })) ∧
    (s.gate (.hcall z) z {} false .user = some fr → ∃ t b, exec (.hcall z) s = .next t ∧ t.laneAt fr.p.id fr.kx l = some b ∧
      (predOn z fr.k l = true → b.mode = .hypervisor ∧ b.pc = s.hypEntry ∧
        b.saveH = ⟨nextPc fr.pc, z.lit.setWidth 64, 9, 0⟩) ∧
      (predOn z fr.k l = false → b = { a with pc := nextPc fr.pc, needTgt := false })) ∧
    (s.gate (.bkpt z) z {} false .user = some fr → ∃ t b, exec (.bkpt z) s = .next t ∧ t.laneAt fr.p.id fr.kx l = some b ∧
      (predOn z fr.k l = true → b.mode = .supervisor ∧ b.pc = fr.p.image.entry ∧ b.saveS = ⟨fr.pc, z.lit.setWidth 64, 10, 0⟩) ∧
      (predOn z fr.k l = false → b = { a with pc := nextPc fr.pc, needTgt := false }))) ∧
  (
  ∀ (z : Slot) (s : State) (fr : Frame) (l : Nat) (a : Lane), l ∈ fr.lanes → s.laneAt fr.p.id fr.kx l = some a → a.exited = false →
    fr.k.step = 0 →
    let went : Lane := { a with pc := nextPc fr.pc, needTgt := false }
    let after (i : Instr) (on off : Lane) : Prop := s.gate i z {} false .user = some fr →
      ∃ t, exec i s = .next t ∧ t.laneAt fr.p.id fr.kx l = some (if predOn z fr.k l then on else off)
    after (.nop z) went went ∧
    after (.exit z) (if fr.mode = .user then { a with exited := true } else { a with exited := true, saveS := .zero, saveH := .zero }) went ∧
    after (.park z) { went with park := some (if z.lit = 0 then .still else .till (fr.cycle + z.lit.toNat)) } went ∧
    (fr.p.preq = true → after (.yield z) { went with yielding := true } went) ∧
    (fr.p.preq = false → after (.yield z) went went) ∧
    ∀ m : FpSet, after (.setfp z m) went went ∧
      (s.gate (.setfp z m) z {} false .user = some fr → fr.actives z ≠ [] →
        ∃ t k, exec (.setfp z m) s = .next t ∧ t.skeinAt fr.p.id fr.kx = some k ∧
          ftzOf k.fpmode = (if m.wftz then m.ftz else ftzOf fr.k.fpmode) ∧
          k.fpmode.toNat % 4 = (if m.wrm then m.rm.val else fr.k.fpmode.toNat % 4)))

/-! ## System registers -/

/-- R400: SRD completes by leaving its write outstanding, with each active lane's own value of the register (or the leader's), and SRD of
an element reads the pc of the lane that SB names. R401, R402, R386 and R426: SWR completes. Lane registers take each lane's own datum; a
register written once takes the leader's; a vpc write moves each active lane, or the one lane that SB names. R398 and R401: a function
register reads back what a legal write gave it, reserved bits apart, and other registers keep. What a write of vf.band does to pool entries
already made is log entry 12, and the timer that a cleared panel.preq keeps is log entry 14 (both DEDUCED). -/
def Obligations.RegisterAccessesComplete : Prop :=
  (
  ∀ (z : Slot) (s : State) (fr : Frame),
    (∀ r, regRow z.regNumber = some r →
      s.gate (.srd z) z { dst := srdDst z.regNumber } (srdOnce z) r.read = some fr →
      (z.regNumber = 0x101 → s.flagsPending fr = false) →
      exec (.srd z) s = .next ((s.addWrite fr
        (srdWrite fr z z.regNumber (fr.actives z) fun l => s.sysRead fr l z.regNumber)).ended fr z [] [] [])) ∧
    (s.gate (.srdElem z) z { dst := .late64, b := .scalar } (srdOnce z) .supervisor = some fr → fr.actives z ≠ [] →
      (fr.read32 z (fr.leader z) z.sb).toNat < 32 →
      exec (.srdElem z) s = .next ((s.addWrite fr (srdWrite fr z 0x020 (fr.actives z) fun _ =>
        (fr.k.lane (fr.read32 z (fr.leader z) z.sb).toNat).pc)).ended fr z [] [] []))) ∧
  (
  ∀ (z : Slot) (s : State) (fr : Frame), fr.actives z ≠ [] →
    let n := z.regNumber
    let lead := fr.read z (fr.leader z) z.sa (regWide n) false
    (∀ r, regRow n = some r → s.gate (.swr z) z { a := swrSrc n } (regScope n != .lane) r.write = some fr →
      (regScope n = .lane →
        exec (.swr z) s = .next ((s.onOwn fr fun k => k.onLanes (fr.actives z) fun l a =>
          a.sysWrite n (fr.read z l z.sa (regWide n) false)).ended fr z [] [] [])) ∧
      (regScope n ≠ .lane → sysIllegal (s.func fr.p.fn) n lead = false → (n = 0x210 → fr.p.dbg = none) →
        exec (.swr z) s = .next ((s.sysWrite fr n lead).ended fr z [] [] [])) ∧
      (regScope n ≠ .lane → sysIllegal (s.func fr.p.fn) n lead = true →
        exec (.swr z) s = .next (s.ended fr z [] [] (fr.allTrap .illopnd (saTval z))))) ∧
    (∀ r, regRow 0x100 = some r → s.gate (.swrFpmode z) z { a := swrSrc 0x100 } true r.write = some fr →
      exec (.swrFpmode z) s = .next ((s.onOwn fr fun k =>
        { k with fpmode := fr.read32 z (fr.leader z) z.sa &&& 7 }).ended fr z [] [] [])) ∧
    (∀ r, regRow 0x101 = some r → s.gate (.swrFpflags z) z { a := swrSrc 0x101 } true r.write = some fr →
      exec (.swrFpflags z) s = .next ((s.onOwn fr fun k =>
        { k with fpflags := fr.read32 z (fr.leader z) z.sa &&& 0x1FF }).ended fr z [] [] [])) ∧
    (∀ r, regRow 0x020 = some r → s.gate (.swrVpc z) z { a := swrSrc 0x020 } false r.write = some fr →
      exec (.swrVpc z) s = .next (s.ended fr z ((fr.actives z).map fun l => (l, fr.read z l z.sa true false, fr.pc)) [] [])) ∧
    (∀ r, regRow 0x020 = some r → s.gate (.swrElemVpc z) z { a := .pairNoLit, b := .scalar } true r.write = some fr →
      let e := (fr.read32 z (fr.leader z) z.sb).toNat
      e < 32 → (fr.k.lane e).exited = false → (fr.k.lane e).mode.code ≤ fr.mode.code →
      exec (.swrElemVpc z) s = .next (
        if fr.lanes.contains e then s.ended fr z [(e, fr.read z (fr.leader z) z.sa true false, fr.pc)] [] []
        else (s.onOwn fr fun k => k.onLane e fun a => a.jump (fr.read z (fr.leader z) z.sa true false) fr.pc).ended fr z [] [] [])) ∧
    (∀ r, regRow 0x200 = some r → s.gate (.swrPanelPreq z) z { a := swrSrc 0x200 } true r.write = some fr →
      exec (.swrPanelPreq z) s = .next ((s.setPreq fr.p ((fr.read32 z (fr.leader z) z.sa).getLsbD 0)).ended fr z [] [] []))) ∧
  (
  ∀ (f : Func) (num : Nat) (a : Dword), num < 2 ^ 32 →
    let after (n : Nat) : Dword := (f.sysWrite n a).sysRead num n
    after 0x402 = a &&& 0xFFFF3F3F ∧ after 0x403 = a &&& 3 ∧ after 0x404 = a &&& 0x01FFFFFFFFFFF000 ∧
    after 0x406 = a &&& 0x01FFFFFFFFFFF00F ∧ after 0x409 = a &&& 0xFFFFFFFF ∧ (after 0x400 >>> 32) = (a >>> 32) &&& 0x01FFFFFF ∧
    (∀ n, 0x440 ≤ n → n < 0x480 → after n = a &&& 0xFFFFFFFF) ∧
    ∀ n m, n ∈ [0x400, 0x402, 0x403, 0x404, 0x406, 0x409] → m ∈ [0x400, 0x402, 0x403, 0x404, 0x406, 0x408, 0x409, 0x40A, 0x40B] →
      m ≠ n → (f.sysWrite n a).sysRead num m = f.sysRead num m)

/-- R416 to R418 and R417: TLBI, HTLBI and PROBE complete, some lane active: a release at device scope, the sweep of what is covered,
and no access through it still on its way; a page count of 0 or above 2^31 traps ILLOPND; PROBE writes its record into the scratchpad. -/
def Obligations.TranslationMaintenanceCompletes : Prop :=
  ∀ (z : Slot) (s : State) (fr : Frame), fr.actives z ≠ [] →
    let va := (fr.read z (fr.leader z) z.sa true false).toNat / 4096 * 4096
    let pages := (fr.read32 z (fr.leader z) z.sb).toNat
    let swept (i : Instr) (f : Form) (need : Least) (c : Cover) : Prop :=
      s.gate i z f true need = some fr → s.releaseWaits fr.p.core .device = false →
        (s.sweep fr.p.fn c).drainWaits fr.p.fn c = false →
        exec i s = .next ((s.sweep fr.p.fn c).ended fr z [] [] []) ∧
          (∀ e ∈ (s.sweep fr.p.fn c).tlbs, ¬ (e.fn = fr.p.fn ∧ c.tlb e = true)) ∧
          ∀ w ∈ (s.sweep fr.p.fn c).walkCopies, ¬ (w.fn = fr.p.fn ∧ c.read w.entry = true)
    (1 ≤ pages → pages ≤ 2 ^ 31 → swept (.tlbiVa z) formTlbiRange .supervisor (.va va (4096 * pages))) ∧
    swept (.tlbiAll z) {} .supervisor .firstAll ∧
    (1 ≤ pages → pages ≤ 2 ^ 31 → swept (.htlbiIpa z) formTlbiRange .hypervisor (.ipa va (4096 * pages))) ∧
    swept (.htlbiAll z) {} .hypervisor .all ∧
    (pages = 0 ∨ 2 ^ 31 < pages →
      (s.gate (.tlbiVa z) z formTlbiRange true .supervisor = some fr →
        exec (.tlbiVa z) s = .next (s.ended fr z [] [] (fr.allTrap .illopnd (sbTval z)))) ∧
      (s.gate (.htlbiIpa z) z formTlbiRange true .hypervisor = some fr →
        exec (.htlbiIpa z) s = .next (s.ended fr z [] [] (fr.allTrap .illopnd (sbTval z))))) ∧
    (s.gate (.tlbiProbe z) z formTlbiRange true .supervisor = some fr →
      let off := pages
      let r := (walkBoth (s.walkEnv fr.p.fn (dieOf fr.p.core) false) (s.func fr.p.fn).root1.toNat (s.func fr.p.fn).root2.toNat
        (fr.read z (fr.leader z) z.sa true false).toNat).2
      off % 16 = 0 → off + 16 ≤ fr.p.kernel.scratch → (∀ w, r = .error w → w.kind ≠ 6) →
      exec (.tlbiProbe z) s = .next (((s.onPanel fr.p.id fun p =>
        { p with scratch := p.scratch.write off 16 (probeRecord r) }).heal (.scratch fr.p.id) off 16).ended fr z [] [] []))

/-- R405 and R407: CTXSAVE writes the panel's whole context into the area's pages, CTXLOAD takes the panel's state from a context that
fits it, and TEVT writes its entry or counts it as dropped. Markers of poisoned bytes go with both (log entry 79: DEDUCED). -/
def Obligations.ContextAndTraceComplete : Prop :=
  ∀ (z : Slot) (s : State) (fr : Frame), fr.actives z ≠ [] →
    let a := fr.read z (fr.leader z) z.sa true false
    let idle : State := (s.unquiet fr).endWalks fr.p.id (some fr.kx)
    (∀ pas, s.gate (.ctxsave z) z { a := .scalarPair } true .hypervisor = some fr → a.toNat % 4096 = 0 →
      s.pagesOf fr .write a.toNat (s.areaOf fr.p / 4096) = .ok pas →
      s.panelBusy fr.p = false → s.releaseWaits fr.p.core .device = false →
      exec (.ctxsave z) s = .next (((idle.setPages (idle.contextOf fr.p { kind := 2, reason := 0xFF, issuer := some fr.kx })
        (idle.areaMarks fr.p) pas).dropPages fr.p.core pas).ended fr z [] [] [])) ∧
    (∀ first pas, s.gate (.ctxload z) z { a := .scalarPair } true .hypervisor = some fr → a.toNat % 4096 = 0 →
      s.pagesOf fr .read a.toNat 1 = .ok first → s.pagesOf fr .read a.toNat (loadArea fr s first / 4096) = .ok pas →
      s.panelBusy fr.p = false → s.releaseWaits fr.p.core .device = false → fr.p.fits (gatherPages idle.mem pas) = true →
      let m := gatherPages idle.mem pas
      let s1 := idle.acquire fr.p.core fr.p.fn .device
      let s2 : State := { s1 with rays := s1.rays.filter fun t => t.panel != fr.p.id }
      let s3 := (s2.onPanel fr.p.id fun p => p.reload fr.kx fr.lanes m fr.cycle idle.time).loadRings fr.p m
      ∀ q, s3.panel? fr.p.id = some q →
        exec (.ctxload z) s = .next (((s3.loadThreads q m).loadMarks q (some a.toNat) pas).ended fr z [] [] [])) ∧
    (s.gate (.tevt z) z { a := .noLit } true .user = some fr →
      let f := s.func fr.p.fn
      exec (.tevt z) s = .next (
        match s.traceSlot fr.p.fn (dieOf fr.p.core) with
        | none => (s.onFunc fr.p.fn fun f => { f with tdrop := f.tdrop + 1 }).ended fr z [] [] []
        | some (pa, mark) =>
          ((s.writeReach fr false 16 (traceEntry fr.cycle z.lit.toNat (fr.k.ix % 32 + fr.mode.code * 32) (fr.leader z)
              (fr.read32 z (fr.leader z) z.sa).toNat)
            (.phys (BitVec.ofNat 64 (bits f.tbuf.toNat 56 12 * 4096 + 16 * f.twr.toNat)) pa mark)).onFunc fr.p.fn
              fun f => f.traced true).ended fr z [] [] []))

/-! ## Plies and barriers (R145 to R148, R160 to R162) -/

/-- PLYSET and BAR complete. PLYSET writes the skein's ply width. BAR arrives with its active lanes and its count, once what their earlier
atomics have read is known (R163, R244), waits, or does both, at a barrier that the kernel declares. R146 and R147: an arrival of no lane changes nothing; one whose count is not legal, differs from the
count that is fixed, or would pass it, traps BARCOUNT with the barrier unchanged; any other fixes the count, adds its lanes and makes the
skein's record PENDING. One that completes the count flips the barrier: g rises by one, E is unfixed, A is 0, every PENDING record is
DONE, and the lanes held at it are released where they stand. -/
def Obligations.BarriersComplete : Prop :=
  (
  ∀ (x : Alu) (s : State) (fr : Frame),
    (s.gate (.plyset x) x.slot {} false .user = some fr → fr.actives x.slot ≠ [] →
      exec (.plyset x) s = .next ((s.onOwn fr fun k => { k with ply := x.slot.lit.toNat }).ended fr x.slot [] [] [])) ∧
    (∀ p, s.gate (.barArv x) x.slot { a := .scalarOrLit, b := .scalarOrLit } true .user = some fr →
      (fr.actives x.slot ≠ [] → s.rmwFlying fr.p.id fr.kx = false) → fr.p.barAllowed (fr.barNumber x.slot) = true →
      fr.p.arrive fr.kx (fr.barNumber x.slot) (fr.barCount x.slot) (fr.actives x.slot).length fr.cycle = .ok p →
      exec (.barArv x) s = .next ((s.setPanel p).ended fr x.slot [] [] [])) ∧
    (s.gate (.barWait x) x.slot { a := .scalarOrLit, b := .unused } true .user = some fr →
      fr.p.barAllowed (fr.barNumber x.slot) = true →
      exec (.barWait x) s = .next ((s.setPanel
        (fr.p.waitBarrier fr.kx (fr.barNumber x.slot) (fr.actives x.slot))).ended fr x.slot [] [] [])) ∧
    (∀ v, fr.p.barAllowed (fr.barNumber x.slot) = true →
      fr.p.arrive fr.kx (fr.barNumber x.slot) (fr.barCount x.slot) (fr.actives x.slot).length fr.cycle = .error v →
      let traps := (fr.actives x.slot).map fun l => fr.trapAt l .barcount v
      (s.gate (.barArv x) x.slot { a := .scalarOrLit, b := .scalarOrLit } true .user = some fr →
        exec (.barArv x) s = .next (s.ended fr x.slot [] [] traps)) ∧
      (s.gate (.barSync x) x.slot { a := .scalarOrLit, b := .scalarOrLit } true .user = some fr →
        exec (.barSync x) s = .next (s.ended fr x.slot [] [] traps))) ∧
    ∀ p, s.gate (.barSync x) x.slot { a := .scalarOrLit, b := .scalarOrLit } true .user = some fr →
      (fr.actives x.slot ≠ [] → s.rmwFlying fr.p.id fr.kx = false) → fr.p.barAllowed (fr.barNumber x.slot) = true →
      fr.p.arrive fr.kx (fr.barNumber x.slot) (fr.barCount x.slot) (fr.actives x.slot).length fr.cycle = .ok p →
      exec (.barSync x) s = .next ((s.setPanel
        (p.waitBarrier fr.kx (fr.barNumber x.slot) (fr.actives x.slot))).ended fr x.slot [] [] [])) ∧
  (
  ∀ (p : Panel) (kx b c n cycle : Nat) (k : Skein), p.skein? kx = some k →
    let x := p.barrier b
    let r := p.arrive kx b c n cycle
    let bad : Prop := c < 1 ∨ 32 * p.kernel.skeins < c ∨ (∃ e, x.expect = some e ∧ e ≠ c) ∨ c < x.arrived + n
    (n = 0 → r = .ok p) ∧
    (n ≠ 0 → bad → ∃ v, r = .error v ∧ v.toNat % 2 ^ 16 = b % 16 ∧ v.toNat / 2 ^ 16 % 2 ^ 16 = c % 2 ^ 11 ∧
      v.toNat / 2 ^ 32 = x.expect.getD 0 % 2 ^ 11) ∧
    (n ≠ 0 → ¬ bad → ∃ q, r = .ok q ∧ (∀ d, d ≠ b → q.barrier d = p.barrier d) ∧
      (x.arrived + n < c → q.barrier b = ⟨x.gen, some c, x.arrived + n⟩ ∧
        ∃ k1, q.skein? kx = some k1 ∧ k1.barRecord b = .pending x.gen ∧ k1.lanes = k.lanes) ∧
      (x.arrived + n = c → q.barrier b = ⟨x.gen + 1, none, 0⟩ ∧
        ∀ j k0, p.skein? j = some k0 → ∃ k1, q.skein? j = some k1 ∧
          (j = kx ∨ (∃ g, k0.barRecord b = .pending g) → k1.barRecord b = .done) ∧
          (j ≠ kx → (∀ g, k0.barRecord b ≠ .pending g) → k1.barRecord b = k0.barRecord b) ∧
          k1.lanes = k0.lanes.map fun a => if a.heldBelow b (x.gen + 1) then { a with held := none, wake := cycle + 1 } else a)))

/-! ## Memory instructions (R211 to R235) -/

/-- LD, ST, ATOM, RED, CAS, CWB, OBLD, OBST, MBI, MBA and MBT complete: when every acting lane's access may be made and no release waits,
the accesses are made in ascending lane order and every lane goes on (R217, R218, R220 to R222, R225, R229, R232, R233, R235). A marked
object's phase is poisoned data, and an arrival leaves an object's markers (R219, R479; log entry 79: DEDUCED). -/
def Obligations.MemoryInstructionsComplete : Prop :=
  ∀ (m : Mem) (s : State) (fr : Frame),
    let access (i : Instr) (form : Form) (once : Bool) (reach : Nat → Reach) (waits : Bool)
        (act : List (Nat × Reach) → State → State) : Prop :=
      s.gate i m.slot form once .user = some fr →
        let rs := (fr.actors m.slot once fr.lanes).map fun l => (l, reach l)
        (∀ x ∈ rs, x.2.made = true) → (rs ≠ [] → waits = false) →
        exec i s = .next (((act rs s).endWalks fr.p.id (some fr.kx)).ended fr m.slot [] [] [])
    let at_ (kind : AccessKind) (w : Nat) (l : Nat) : Reach := s.reach fr m.space m.scope kind (fr.addr m w l) (sizeBytes m.size)
    let ob (l : Nat) : Reach := fr.reachOpbuf (obHandle m) (fr.obOffset m l) (sizeBytes m.size)
    let once := actsOnce m.slot
    let back : DstKind := .load (sizeWords m.size) true
    let obj (act : Frame → Nat → Nat → State → State) (rs : List (Nat × Reach)) (s : State) : State :=
      rs.foldl (fun s x => match x.2 with | .scratch q off => act fr q off s | _ => s) s
    access (.ld m) (formLoad m (baseKind m.space)) once (at_ .read 32) false (loadAct m fr) ∧
    access (.st m) { a := baseKind m.space, b := datumKind m.size } false (at_ .write 32) (relWaits m fr s) (storeAct m fr) ∧
    access (.atom m) { dst := back, a := baseKind m.space, b := datumKind m.size } once (at_ .write 30) (relWaits m fr s)
      (atomAct m (atomOp m) fr) ∧
    access (.red m) { a := baseKind m.space, b := datumKind m.size } once (at_ .write 30) (relWaits m fr s) (atomAct m (atomOp m) fr) ∧
    access (.cas m) { dst := back, a := baseKind m.space, b := datumKind m.size, c := datumKind m.size } once (at_ .write 30)
      (relWaits m fr s) (atomAct m .cas fr) ∧
    access (.obld m) (formLoad m .noLit) once ob false (loadAct m fr) ∧
    access (.obst m) { a := .noLit, b := datumKind m.size } false ob (relWaits m fr s) (storeAct m fr) ∧
    access (.cwb m) { a := .base } false (fun l => s.reach fr .global .skein .write (fr.addr m 32 l) 1) false
      (fun rs s => rs.foldl (fun s x => match x.2 with
        | .phys va pa mark => { s with nextId := s.nextId + 1
                                       writeBacks := s.writeBacks ++ [⟨s.nextId, fr.p.id, fr.kx, fr.p.core, fr.p.fn, va, mark.page, pa / 128⟩] }
        | _ => s) s) ∧
    access (.mbi m) { a := .scalarOrZero, b := .scalarOrZero } true (reachObj m fr s) false (obj fun fr q off s =>
      let c := (fr.read32 m.slot (fr.leader m.slot) m.slot.sb).toNat % 2 ^ 24
      s.setObj q off (objMake c c 0 0 0 0)) ∧
    access (.mba m) { a := .scalarOrZero, b := .scalarOrZero } true (reachObj m fr s) (fr.releaseWaits s m.scope)
      (obj fun fr q off s =>
        let n := if m.slot.sb = .zero then (fr.active m.slot fr.lanes).length
          else (fr.read32 m.slot (fr.leader m.slot) m.slot.sb).toNat % 2 ^ 24
        s.putObj q off (arriveObj (s.obj q off) n false 0)) ∧
    access (.mbt m) { dst := .lateScalar, a := .scalarOrZero } true (reachObj m fr s) false (obj fun fr q off s =>
      let o := s.obj q off
      let ts := fr.dstTargets (fr.leader m.slot) m.slot.dst 1
      let w := BitVec.ofNat 32 (objPhase o + if objFlt o then 2 ^ 31 else 0)
      (s.acquire fr.p.core fr.p.fn m.scope).addWrite fr { VarWrite.blank with
        targets := ts, vals := ts.map (fun t => (t, w)),
        bad := badTargets (fr.leader m.slot) ts (if s.sickObj q off then some (BitVec.allOnes 64) else none) })

/-- R197, R198, R207, R218 and R229: the bytes that ST to a scratchpad and OBST store, and their frame. Lanes act in ascending order, so
the highest one that reaches a byte gives it; every other byte of every scratchpad and operand buffer, all of global memory, and every
register keeps. -/
def Obligations.ScratchStoresWriteTheirBytes : Prop :=
  ∀ (m : Mem) (s : State) (fr : Frame),
    let n := sizeBytes m.size
    let value (l i : Nat) : Byte := BitVec.ofNat 8 (fr.storeValue m m.slot.sb l / 256 ^ i % 256)
    let kept (t : State) : Prop := t.mem = s.mem ∧ t.inflight = s.inflight ∧
      ∀ id k q, s.skeinAt id k = some q → ∃ q1, t.skeinAt id k = some q1 ∧ q1.files = q.files ∧ q1.fpflags = q.fpflags ∧
        q1.fpmode = q.fpmode ∧ q1.outs = q.outs ∧ q1.results = q.results
    (∀ r : Nat → Nat × Nat, s.gate (.st m) m.slot { a := baseKind m.space, b := datumKind m.size } false .user = some fr → fr.k.step = 0 →
      relWaits m fr s = false →
      (∀ l ∈ fr.actives m.slot, s.reach fr m.space m.scope .write (fr.addr m 32 l) n = .scratch (r l).1 (r l).2) →
      ∃ t, exec (.st m) s = .next t ∧ kept t ∧
        ∀ id p, s.panel? id = some p → ∃ q, t.panel? id = some q ∧ q.opbuf = p.opbuf ∧
          (∀ l i, l ∈ fr.actives m.slot → (r l).1 = id → i < n →
            (∀ j ∈ fr.actives m.slot, l < j → (r j).1 = id → (r l).2 + i < (r j).2 ∨ (r j).2 + n ≤ (r l).2 + i) →
            q.scratch.get ((r l).2 + i) = value l i) ∧
          ∀ a, (∀ l ∈ fr.actives m.slot, (r l).1 = id → a < (r l).2 ∨ (r l).2 + n ≤ a) → q.scratch.get a = p.scratch.get a) ∧
    (∀ o : Nat → Nat, s.gate (.obst m) m.slot { a := .noLit, b := datumKind m.size } false .user = some fr → fr.k.step = 0 →
      relWaits m fr s = false →
      (∀ l ∈ fr.actives m.slot, fr.reachOpbuf (obHandle m) (fr.obOffset m l) n = .opbuf (o l)) →
      ∃ t q, exec (.obst m) s = .next t ∧ kept t ∧ t.panel? fr.p.id = some q ∧ q.scratch = fr.p.scratch ∧
        (∀ id, id ≠ fr.p.id → t.panel? id = s.panel? id) ∧
        (∀ l i, l ∈ fr.actives m.slot → i < n →
          (∀ j ∈ fr.actives m.slot, l < j → o l + i < o j ∨ o j + n ≤ o l + i) → q.opbuf.get (o l + i) = value l i) ∧
        ∀ a, (∀ l ∈ fr.actives m.slot, a < o l ∨ o l + n ≤ a) → q.opbuf.get a = fr.p.opbuf.get a)

/-- R203: a store to global memory leaves memory as it is until it is performed, one access a lane on its way in ascending lane order, at
the physical address that its lane reaches; and no register changes. R250: a lane's later load sees its own store. With no atomic of the
core to those bytes on its way, a read of the bytes just stored, through L1 or past it, gives the stored bytes. R202, R214, R220: with
nothing of the core on its way and no copy of the sectors in its L1 or its die's remote-data cache, an LD of global memory leaves a write
outstanding with the bytes that memory holds, 8- and 16-bit values extended to 32 bits by zeros or by their sign, and changes no memory.
R203 and R204: an acquire at cluster scope or wider leaves no copy of the core's L1 but those of read-only pages and of kernel constants;
one whose scope leaves the die leaves none of the function's in the die's remote-data cache but those of read-only pages; neither drops
anything else or changes memory. -/
def Obligations.GlobalStoresLoadsAndAcquires : Prop :=
  (
  ∀ (m : Mem) (s : State) (fr : Frame) (pa : Nat → Nat) (va : Nat → Dword) (mark : Nat → PageMark),
    m.space = .global → s.gate (.st m) m.slot { a := .base, b := datumKind m.size } false .user = some fr → fr.k.step = 0 →
    relWaits m fr s = false →
    (∀ l ∈ fr.actives m.slot, s.reach fr .global m.scope .write (fr.addr m 32 l) (sizeBytes m.size) = .phys (va l) (pa l) (mark l)) →
    ∃ t, exec (.st m) s = .next t ∧ t.SameBytes s ∧ t.nextId = s.nextId + (fr.actives m.slot).length ∧
      (t.inflight.map fun a => (a.id, a.core, a.pa, a.op)) = (s.inflight.map fun a => (a.id, a.core, a.pa, a.op)) ++
        ((fr.actives m.slot).zipIdx.map fun (x : Nat × Nat) => (s.nextId + x.2, fr.p.core, pa x.1,
          HomeOp.store (leBytes (fr.storeValue m m.slot.sb x.1) (sizeBytes m.size)) (m.cpol == .bypass))) ∧
      ∀ id k q, s.skeinAt id k = some q → ∃ q1, t.skeinAt id k = some q1 ∧ q1.files = q.files ∧ q1.fpflags = q.fpflags ∧
        q1.fpmode = q.fpmode ∧ q1.outs = q.outs ∧ q1.results = q.results) ∧
  (
  ∀ (s : State) (a : Access) (bs : List Byte) (storeBypass loadBypass : Bool) (mark : PageMark),
    a.op = .store bs storeBypass → a.pa % 32 + bs.length ≤ 32 → bs ≠ [] →
    (∀ b ∈ s.inflight, b.core = a.core → b.touches a.pa bs.length = true → ∃ xs y, b.op = .store xs y) →
    ((s.issueAccess a).loadPhys a.core a.fn a.pa bs.length loadBypass mark).1 = leNat bs) ∧
  (
  ∀ (m : Mem) (s : State) (fr : Frame) (k0 : Skein) (pa : Nat → Nat) (va : Nat → Dword) (mark : Nat → PageMark),
    let on := fr.actors m.slot (actsOnce m.slot) fr.lanes
    let n := sizeBytes m.size
    m.space = .global → s.gate (.ld m) m.slot (formLoad m .base) (actsOnce m.slot) .user = some fr → fr.k.step = 0 →
    s.skeinAt fr.p.id fr.kx = some k0 → on ≠ [] → m.slot.dst ≠ .none →
    (∀ l ∈ on, s.reach fr .global m.scope .read (fr.addr m 32 l) n = .phys (va l) (pa l) (mark l) ∧ pa l % 32 + n ≤ 32) →
    (∀ b ∈ s.inflight, b.core ≠ fr.p.core) →
    (∀ c ∈ s.copies, ∀ l ∈ on, c.sector = pa l / 32 → c.place ≠ fr.p.core ∧ c.place ≠ 768 + dieOf fr.p.core) →
    let x (l : Nat) : Nat := ((List.range n).map fun i => (s.mem.get (pa l + i)).toNat * 256 ^ i).sum
    let wide (l : Nat) : Nat := if m.msub.val % 2 = 1 ∧ n < 4 ∧ 2 ^ (8 * n - 1) ≤ x l then x l + 2 ^ 32 - 2 ^ (8 * n) else x l
    ∃ t k1 w, exec (.ld m) s = .next t ∧ t.SameBytes s ∧ t.skeinAt fr.p.id fr.kx = some k1 ∧ k1.outs = k0.outs ++ [w] ∧
      w.vals = on.flatMap fun l => (fr.dstTargets l m.slot.dst (sizeWords m.size)).zip
        ((List.range (sizeWords m.size)).map fun i => BitVec.ofNat 32 (wide l / 2 ^ (32 * i)))) ∧
  (
  ∀ (s : State) (core fn : Nat) (sc : Scope),
    let t := s.acquire core fn sc
    t.mem = s.mem ∧ t.inflight = s.inflight ∧
    (scopeLeavesCore sc = true → core < 768 → ∀ c ∈ t.copies, c.place = core → c.mark.ro = true ∨ c.mark.const = true) ∧
    (scopeLeavesDie (s.func fn) sc = true → ∀ c ∈ t.copies, c.place = 768 + dieOf core → c.fn = fn → c.mark.ro = true) ∧
    ∀ c ∈ s.copies, (c.mark.ro = true ∨ (c.mark.const = true ∧ c.place ≠ 768 + dieOf core) ∨
      (c.place ≠ core ∧ (c.place ≠ 768 + dieOf core ∨ c.fn ≠ fn))) → c ∈ t.copies)

/-- R202, R203, R221 and R222: PERFORMED_AT_HOME_L2 of the core's oldest access to its bytes. A store's bytes stand in memory and every
other byte keeps, and they carry no poison marker (R479); an atomic's bytes become the operation's new value of the old ones, which its
instruction's write receives, its targets marked when a byte of them is poisoned (R219). That markers stand byte by byte and go when their byte
is written is log entry 79 (DEDUCED). -/
def Obligations.AccessIsPerformedAtItsHome : Prop :=
  ∀ (s : State) (n : Nat) (a : Access), (s.inflight.find? fun b => b.id == n) = some a → s.oldest a = true →
    ∃ t, exec (.performedAtHomeL2 n) s = .next t ∧ (∀ b ∈ t.inflight, b.id ≠ n) ∧
      (∀ bs bypass, a.op = .store bs bypass →
        (∀ i, i < bs.length → some (t.mem.get (a.pa + i)) = bs[i]?) ∧
        (∀ b, b < a.pa ∨ a.pa + bs.length ≤ b → t.mem.get b = s.mem.get b) ∧ t.poisoned .memory a.pa bs.length = false) ∧
      ∀ op size b c ret, a.op = .rmw op size b c ret →
        t.mem.read a.pa size = rmwNew op size (s.mem.read a.pa size) b c % 2 ^ (8 * size) ∧
        (∀ x, x < a.pa ∨ a.pa + size ≤ x → t.mem.get x = s.mem.get x) ∧
        ∀ r k w, ret = some r → s.skeinAt r.panel r.skein = some k → w ∈ k.outs → w.seq = r.seq →
          ∃ k1, t.skeinAt r.panel r.skein = some k1 ∧
            { w with vals := w.vals ++ r.targets.zip (wordsOf (s.mem.read a.pa size) r.targets.length), awaits := w.awaits.erase n
                     homes := w.homes ++ [homeDie a.pa]
                     bad := w.bad ++ badTargets r.lane r.targets (s.poisonAt .memory a.pa size a.va) } ∈ k1.outs

/-- R221's table and R222: the new value of each atomic on an n-byte word m with operand b: sums wrap, minima and maxima follow the kind,
`.sinc` stops at b, and CAS stores c only over an equal word; an FP32 sum is rounded to nearest even, FP32 minima and maxima pass NaN operands
by, and every NaN result is the canonical one. R218: a lane's step of a scratchpad atomic makes one read and one write of its bytes and of no
others. R231: counting `n` arrivals in closed form gives what the rule's loop gives. -/
def Obligations.AtomicsAndArrivalsFollowTheirRules : Prop :=
  (
  ∀ (n m b c : Nat), 0 < n → m < 2 ^ (8 * n) → b < 2 ^ (8 * n) →
    (∀ k, k < 2 → rmwNew (.atom 0 k) n m b c = (m + b) % 2 ^ (8 * n)) ∧
    rmwNew (.atom 1 0) n m b c = b ∧ rmwNew (.atom 2 0) n m b c = m &&& b ∧ rmwNew (.atom 3 0) n m b c = m ||| b ∧
    rmwNew (.atom 4 0) n m b c = m ^^^ b ∧
    rmwNew (.atom 5 0) n m b c = min m b ∧ rmwNew (.atom 6 0) n m b c = max m b ∧
    sext (rmwNew (.atom 5 1) n m b c) (8 * n) = min (sext m (8 * n)) (sext b (8 * n)) ∧
    sext (rmwNew (.atom 6 1) n m b c) (8 * n) = max (sext m (8 * n)) (sext b (8 * n)) ∧
    rmwNew (.atom 7 0) n m b c = (if m < b then m + 1 else m) ∧
    sext (rmwNew (.atom 7 1) n m b c) (8 * n) = (if sext m (8 * n) < sext b (8 * n) then sext m (8 * n) + 1 else sext m (8 * n)) ∧
    (m = b → rmwNew .cas n m b c = c) ∧ (m ≠ b → rmwNew .cas n m b c = m)) ∧
  (
  ∀ (m b c : Nat), m < 2 ^ 32 → b < 2 ^ 32 →
    let nan (x : Nat) : Prop := 0x7F800000 < x % 2 ^ 31
    let place (x : Nat) : Int := if x < 2 ^ 31 then (x : Int) else 2 ^ 31 - (x : Int) - 1
    let lo := rmwNew (.atom 5 2) 4 m b c
    let hi := rmwNew (.atom 6 2) 4 m b c
    (nan m ∨ nan b → rmwNew (.atom 0 2) 4 m b c = 0x7FC00000) ∧
    (¬ nan m → ¬ nan b → rmwNew (.atom 0 2) 4 m b c = (fAdd fmt32 { rm := .rne, ftz := false } m b).1) ∧
    (nan m → nan b → lo = 0x7FC00000 ∧ hi = 0x7FC00000) ∧ (nan m → ¬ nan b → lo = b ∧ hi = b) ∧ (¬ nan m → nan b → lo = m ∧ hi = m) ∧
    (¬ nan m → ¬ nan b → lo = (if place m < place b then m else b) ∧ hi = if place b < place m then m else b)) ∧
  (
  ∀ (s : State) (a : AtomStep) (q off : Nat) (p : Panel), a.place = .scratch q off → s.panel? q = some p → s.rays = [] →
    let t := s.atomStep a
    t.mem = s.mem ∧ t.atoms = s.atoms.filter (fun x => x.id != a.id) ∧ ∃ p1, t.panel? q = some p1 ∧
      p1.scratch.read off a.size = rmwNew a.op a.size (p.scratch.read off a.size) a.b a.c % 2 ^ (8 * a.size) ∧
      ∀ x, x < off ∨ off + a.size ≤ x → p1.scratch.get x = p.scratch.get x) ∧
  (
  ∀ (e d phase n : Nat), 0 < e → phase < 2 ^ 16 → arriveCount e d phase n = arriveLoop e (n + 1) n d phase)

/-- R223, R224, R226 to R228 and R234: FENCE, CINV, PREF, OBRES, OBREL and MBW complete. A fence that need not wait acquires; CINV drops
copies; PREF fills them; OBRES installs a record that meets R227's conditions; OBREL frees a handle that no operation names; MBW goes on
past a completed phase, acquiring, or holds its lanes. R225: CWB_COMPLETE, once the line's earlier stores of the core are at home, makes HBM4
hold the line as memory holds it and changes no other byte of HBM4. -/
def Obligations.CachesCompleteAndMoveLines : Prop :=
  (
  ∀ (m : Mem) (s : State) (fr : Frame),
    let z := m.slot
    (s.gate (.fence m) z {} false .user = some fr → fr.actives z ≠ [] → (s.func fr.p.fn).scopeDenied m.scope = false →
      relWaits m fr s = false → fenceWaits m fr s = false →
      exec (.fence m) s = .next ((if ordAcq m.ord then s.acquire fr.p.core fr.p.fn m.scope else s).ended fr z [] [] [])) ∧
    (s.gate (.cinvLine m) z { a := baseKind m.space } false .user = some fr →
      exec (.cinvLine m) s = .next (((fr.actives z).foldl (fun s l =>
        match s.tryPhys fr m.space (fr.addr m 32 l) with
        | some x => s.dropLine fr.p.core x.1
        | none => s) s).ended fr z [] [] [])) ∧
    (s.gate (.cinvAll m) z {} false .user = some fr → fr.actives z ≠ [] →
      exec (.cinvAll m) s = .next ((s.dropCopies fun c => c.place == fr.p.core ||
        (c.place == diePlace (dieOf fr.p.core) && c.fn == fr.p.fn)).ended fr z [] [] [])) ∧
    (s.gate (.pref m) z { a := baseKind m.space } false .user = some fr →
      exec (.pref m) s = .next (((fr.actives z).foldl (fun s l =>
        match s.tryPhys fr m.space (fr.addr m 32 l) with
        | some x => s.prefetch fr (m.msub == 0) x.1 x.2
        | none => s) s).ended fr z [] [] [])) ∧
    (s.gate (.obres m) z { a := .scalarQuad } true .user = some fr → fr.actives z ≠ [] →
      let ws := (fr.readWords z (fr.leader z) z.sa 4).foldr (fun w n => w.toNat + 2 ^ 32 * n) 0
      let r := BitVec.ofNat 128 ws ||| (1#128 <<< 28)
      (obresFails fr.p z.lit.toNat r = none → exec (.obres m) s = .next ((s.onPanel fr.p.id fun p =>
        { p with resv := cellSet 0 p.resv z.lit.toNat r }).ended fr z [] [] [])) ∧
      ∀ c, obresFails fr.p z.lit.toNat r = some c →
        exec (.obres m) s = .next (s.ended fr z [] [] (fr.allTrap .perm (spaceTval 4 z.lit.toNat c)))) ∧
    (s.gate (.obrel m) z {} true .user = some fr → fr.actives z ≠ [] → s.handleBusy fr.p.id z.lit.toNat = false →
      exec (.obrel m) s = .next ((s.onPanel fr.p.id fun p =>
        if resvValid (p.record z.lit.toNat) then p.freeHandle z.lit.toNat else p).ended fr z [] [] [])) ∧
    ∀ q off, s.gate (.mbw m) z { a := .scalarOrZero, b := .scalarOrZero } true .user = some fr → fr.actives z ≠ [] →
      reachObj m fr s (fr.leader z) = .scratch q off →
      s.sickObj q off = false →
      let o := s.obj q off
      let phase := (fr.read32 z (fr.leader z) z.sb).toNat % 2 ^ 16
      (objPhase o ≠ phase → objFlt o = false →
        exec (.mbw m) s = .next ((s.acquire fr.p.core fr.p.fn m.scope).ended fr z [] [] [])) ∧
      (objPhase o ≠ phase → objFlt o = true →
        exec (.mbw m) s = .next ((s.acquire fr.p.core fr.p.fn m.scope).ended fr z [] []
          ((fr.actives z).map fun l => fr.trapAt l .tfeng (objFaddr o)))) ∧
      (objPhase o = phase → exec (.mbw m) s = .next ((s.onOwn fr fun k => k.onLanes (fr.actives z) fun _ a =>
        { a with held := some (.mbw q off phase m.scope fr.pc) }).ended fr z [] [] []))) ∧
  (
  ∀ (s : State) (n : Nat) (w : WriteBack), (s.writeBacks.find? fun w => w.id == n) = some w →
    (∀ a ∈ s.inflight, ¬ (a.core = w.core ∧ a.id < w.id ∧ a.touches (128 * w.line) 128 = true)) →
    ∃ t, exec (.cwbComplete n) s = .next t ∧ t.mem = s.mem ∧ (∀ x ∈ t.writeBacks, x.id ≠ n) ∧
      (∀ i, i < 128 → t.hbm.get (128 * w.line + i) = s.mem.get (128 * w.line + i)) ∧
      ∀ a, a < 128 * w.line ∨ 128 * w.line + 128 ≤ a → t.hbm.get a = s.hbm.get a)

/-! ## Work in a panel (R187 to R192) -/

/-- R192: RNGNEXT completes with the chunk's start and length on their way to its registers; the chunk begins where the interval stood, is
as long as the grain or as what is left, and is taken from the interval; past the end it gives all ones and length 0. R189: PIPEPUSH and
PIPEPOP complete by joining their ring's queues, their active lanes held; PIPE_SERVE serves the oldest push while there is room for all its
entries, else the oldest pop while there are entries for all its lanes, entries leaving in the order in which they came. That every push and
pop queues with its lanes held, and that a push is served before a pop that could be served too, is log entry 42 (DEDUCED). -/
def Obligations.PanelWorkCompletes : Prop :=
  (
  (∀ (m : Mem) (s : State) (fr : Frame), s.gate (.rngnext m) m.slot { dst := .span } true .user = some fr → fr.actives m.slot ≠ [] →
    let c := fr.p.nextChunk
    let ws := (fr.dstTargets (fr.leader m.slot) m.slot.dst 3).zip [loWord c.1, hiWord c.1, c.2.1]
    exec (.rngnext m) s = .next (((s.onPanel fr.p.id fun p => { p with range := c.2.2 }).addWrite fr
      { VarWrite.blank with targets := ws.map (fun w => w.1), vals := ws }).ended fr m.slot [] [] [])) ∧
  ∀ (p : Panel) (lo hi g : Nat), p.range = some ⟨lo, hi, g⟩ → 0 < g → hi < 2 ^ 64 → g < 2 ^ 32 →
    (lo < hi → p.nextChunk.1.toNat = lo ∧ p.nextChunk.2.1.toNat = min g (hi - lo) ∧
      p.nextChunk.2.2 = some ⟨lo + min g (hi - lo), hi, g⟩ ∧ lo + min g (hi - lo) ≤ hi) ∧
    (hi ≤ lo → p.nextChunk = (BitVec.allOnes 64, 0, some ⟨lo, hi, g⟩))) ∧
  (
  (∀ (m : Mem) (s : State) (fr : Frame) (r : Ring),
    let n := m.slot.lit.toNat
    let e := s.pipeWords n
    let on := fr.actives m.slot
    s.panelRing fr.p n = some r → on ≠ [] → n < fr.p.kernel.pipes →
    (s.gate (.pipepush m) m.slot { a := .vregs e } false .user = some fr → s.releaseWaits fr.p.core .cluster = false →
      exec (.pipepush m) s = .next (((s.setRing { r with
          pushes := r.pushes ++ [⟨fr.p.id, fr.kx, on, on.map fun l => fr.readWords m.slot l m.slot.sa e, 0⟩] }).onPanel fr.p.id fun p =>
        p.onSkein fr.kx fun k => k.onLanes on fun _ a => { a with held := some (.pipepush n fr.pc) }).ended fr m.slot [] [] [])) ∧
    (∀ d, m.slot.dst = .v d → s.gate (.pipepop m) m.slot { dst := .vregs e 1 false } false .user = some fr →
      exec (.pipepop m) s = .next (((s.setRing { r with pops := r.pops ++ [⟨fr.p.id, fr.kx, on, [], d.val⟩] }).onPanel fr.p.id fun p =>
        p.onSkein fr.kx fun k => k.onLanes on fun _ a => { a with held := some (.pipepop n fr.pc) }).ended fr m.slot [] [] []))) ∧
  ∀ (s : State) (gang pipe : Nat) (r : Ring), s.ring? gang pipe = some r →
    (∀ w ws, r.pushes = w :: ws → r.entries.length + w.lanes.length ≤ 2 ^ r.dep →
      exec (.pipeServe gang pipe) s = .next ((s.setRing { r with entries := r.entries ++ w.words, pushes := ws }).releaseLanes
        w.panel w.skein w.lanes)) ∧
    (∀ w ws q, r.pops = w :: ws → (∀ v vs, r.pushes = v :: vs → 2 ^ r.dep < r.entries.length + v.lanes.length) →
      w.lanes.length ≤ r.entries.length → s.panel? w.panel = some q →
      let n := w.lanes.length
      let vals := popWrites w.dst w.lanes (r.entries.take n)
      let left : Ring := { r with entries := r.entries.drop n, pops := ws, head := (r.head + n) % 2 ^ r.dep }
      exec (.pipeServe gang pipe) s = .next ((((s.setRing left).releaseLanes w.panel w.skein w.lanes).onPanel w.panel fun q => q.onSkein w.skein fun k =>
        k.addOut { VarWrite.blank with targets := vals.map (fun x => x.1), vals := vals }).acquire q.core q.fn .cluster)))

/-! ## Copies and transforms (R274 to R291) -/

/-- R277 to R285: CPY, CPTR and CPWAIT complete. A CPY that passes its checks takes its stream range; CPTR reads the context or clears a
fault when nothing is outstanding; CPWAIT goes on past a position that the pointer has reached, traps on a fault, or holds. R280 to R282:
COPY_SECTOR_WRITE. The oldest copy of a channel writes its next piece and the pointer follows what is written; the last piece makes it
arrive. A place that fails sets FLT and FADDR, and every copy of the channel arrives faulted. That the channel finds its core's stores
performed is log entry 5. -/
def Obligations.CopiesComplete : Prop :=
  (
  ∀ (z : Slot) (s : State) (fr : Frame), fr.actives z ≠ [] →
    (∀ m pl o, s.gate (.cpy z m) z (formCpy m) true .user = some fr → fr.copyBad z m = none → (s.copiesOf fr.p.id m.chan.val).length < 16 →
      (if m.form = .records then s.copyRecords fr z m else s.copySides fr z m) = .ok (pl, o) → pl.pastFirmware = false →
      exec (.cpy z m) s = .next (((if m.form = .records then s.tookRecords else s).startCopy fr m pl o).ended fr z [] [] [])) ∧
    (∀ (m : CopyMod) (pl : CopyPlan) (o : ObjRef) (p : Panel), s.panel? fr.p.id = some p → (p.chan m.chan.val).flt = false →
      let t := s.startCopy fr m pl o
      ((t.panel? fr.p.id).map fun q => ((q.chan m.chan.val).tail, (q.chan m.chan.val).ptr)) =
        some (((p.chan m.chan.val).tail + pl.dst.bytes) % 2 ^ 63, (p.chan m.chan.val).ptr) ∧
      t.mem = s.mem ∧ t.copyOps.length = s.copyOps.length + 1) ∧
    (∀ chan : Fin 8,
      let c := fr.p.chan chan.val
      let gives (i : Instr) (v : Nat) : Prop := s.gate i z { dst := .lateScalar64 } true .user = some fr →
        let ws := (fr.dstTargets (fr.leader z) z.dst 2).zip [loWord (BitVec.ofNat 64 v), hiWord (BitVec.ofNat 64 v)]
        exec i s = .next ((s.addWrite fr { VarWrite.blank with targets := ws.map fun w => w.1, vals := ws }).ended fr z [] [] [])
      gives (.cptrPtr z chan) (c.ptr + if c.flt then 2 ^ 63 else 0) ∧ gives (.cptrTail z chan) c.tail ∧
      gives (.cptrFadr z chan) c.faddr.toNat ∧
      (s.gate (.cptrRst z chan) z {} true .user = some fr → s.copiesOf fr.p.id chan.val = [] →
        exec (.cptrRst z chan) s = .next ((if c.flt then s.setChan fr.p.id chan.val { c with ptr := c.tail, flt := false, faddr := 0 }
          else s).ended fr z [] [] [])) ∧
      ∀ scope, s.gate (.cpwait z scope chan) z { a := .scalarPair } true .user = some fr →
        (s.func fr.p.fn).scopeDenied scope = false →
        let v := (fr.read z (fr.leader z) z.sa true false).toNat % 2 ^ 63
        (v ≤ c.ptr → exec (.cpwait z scope chan) s = .next ((s.acquire fr.p.core fr.p.fn scope).ended fr z [] [] [])) ∧
        (c.ptr < v → c.flt = true → exec (.cpwait z scope chan) s =
          .next (s.ended fr z [] [] ((fr.actives z).map fun l => fr.trapAt l .tfeng c.faddr))) ∧
        (c.ptr < v → c.flt = false → exec (.cpwait z scope chan) s = .next ((s.onOwn fr fun k =>
          k.onLanes (fr.actives z) fun _ a => { a with held := some (.cpwait chan.val v scope fr.pc) }).ended fr z [] [] [])))) ∧
  (
  ∀ (s : State) (p : Panel) (o : CopyOp) (os : List CopyOp) (id : Nat) (chan : Fin 8),
    s.panel? id = some p → s.copiesOf id chan.val = o :: os →
    let s0 := s.flushCore p.core
    let ch := p.chan chan.val
    (∀ s1, s0.copyStep p o = .ok s1 →
      let s2 := (s1.setChan p.id chan.val { ch with ptr := (o.start + (o.done + o.piece)) % 2 ^ 63 }).endWalks p.id none
      (o.done + o.piece = o.len → exec (.copySectorWrite id chan) s = .next (s2.endCopy o false 0)) ∧
      (o.done + o.piece ≠ o.len → exec (.copySectorWrite id chan) s =
        .next { s2 with copyOps := s2.copyOps.map fun x => if x.id = o.id then { x with done := o.done + o.piece } else x })) ∧
    ∀ v, s0.copyStep p o = .error (.fault v) →
      ∃ t q, exec (.copySectorWrite id chan) s = .next t ∧ t.panel? p.id = some q ∧ (q.chan chan.val).flt = true ∧
        (ch.flt = false → (q.chan chan.val).faddr = v) ∧ ∀ x ∈ t.copyOps, x ∉ s.copiesOf p.id chan.val)

/-- R286, R290 and R291: XFM, QNT and DQNT complete. XFM that passes its checks leaves its operation with the engine; QNT quantises the 32
lanes' values as one block, inactive lanes as zero; DQNT gives each active lane the value of its code under the block's scale. R287 and
R289: XFM_COMPLETE. The oldest transform of a cluster whose every piece can be written leaves the engine with its flags set and its object
arrived at; one that fails at an address arrives faulted with that address; one that has read a marked byte stops its panel (R387). That
the engine finds its core's stores performed, and that a transform completes in one step, is log entry 5. -/
def Obligations.TransformsComplete : Prop :=
  (
  ∀ (z : Slot) (s : State) (fr : Frame),
    (∀ m o, s.gate (.xfm z m) z (formXfm m) true .user = some fr → fr.actives z ≠ [] → s.xfmBad fr z m = none →
      s.xfmStart fr z m = .ok o →
      exec (.xfm z m) s = .next (({ s.tookRecords with nextId := s.nextId + 1, xfms := s.xfms ++ [{ o with id := s.nextId }] } : State).ended
        fr z [] [] [])) ∧
    (∀ m : QntMod, s.gate (.qnt z m) z { dst := .vregs 1 1 false, a := .vregs 1, b := if m.rnd = .sto then .vregs 1 else .unused }
        false .user = some fr → fr.k.ply = 32 →
      let on := fr.actives z
      let value (l : Nat) : Sys2Proof.Machine.Num :=
        if l ∈ on then decodeFloat (fmtOf m.ty) (floatElem m.ty (fr.read z l z.sa false false) 0) else .zero false
      let cfg (l : Nat) : RoundCfg := { rm := roundingOf m.rnd fr.k.fpmode, ftz := false, rbits := 24,
                                        rb := if m.rnd = .sto ∧ l ∈ on then (fr.read32 z l z.sb).toNat else 0 }
      let q := quantise (qntFmt z) cfg ((List.range 32).map value)
      let ws := on.flatMap fun l => (fr.dstTargets l z.dst 1).map fun t =>
        (t, BitVec.ofNat 32 (q.codes.getD l 0 + 256 * q.scale + 65536 * q.extra))
      let out : VarWrite := { VarWrite.blank with targets := ws.map (fun w => w.1), vals := ws, flags := q.flags, raises := true }
      exec (.qnt z m) s = .next ((s.addWrite fr out).ended fr z [] [] [])) ∧
    ∀ m : QntMod, s.gate (.dqnt z m) z { dst := .vregs 1 1 false, a := .vregs 1 } false .user = some fr →
      let one (l : Nat) : FRes :=
        let w := (fr.read32 z l z.sa).toNat
        roundNum (fmtOf m.ty) { rm := roundingOf m.rnd fr.k.fpmode, ftz := ftzOf fr.k.fpmode } false
          (blockNum (qntFmt z) (w % 2 ^ fmtBits (qntFmt z)) (bits w 15 8) (bits w 23 16))
      let ws := (fr.actives z).flatMap fun l => (fr.dstTargets l z.dst 1).map fun t => (t, BitVec.ofNat 32 (one l).1)
      let flags := orFlags ((fr.actives z).map fun l => (one l).2)
      let out : VarWrite := { VarWrite.blank with targets := ws.map (fun w => w.1), vals := ws, flags := flags, raises := true }
      exec (.dqnt z m) s = .next ((s.addWrite fr out).ended fr z [] [] [])) ∧
  (
  ∀ (s : State) (c : Nat) (o : XfmOp) (p : Panel),
    (s.xfms.find? fun o => clusterOf o.core == c) = some o → s.panel? o.panel = some p →
    let s0 := s.flushCore o.core
    let run := XfmRun.go s0 p o (o.dst.pieces 0 (o.dst.bytes + 1))
      ⟨{ s0 with free := s0.free + o.frees + s0.rays.length }, 0, 0, [], none⟩
    (run.2 = none → exec (.xfmComplete c) s = .next (run.1.finish o false 0)) ∧
    (∀ v, run.2 = some (.fault v) → exec (.xfmComplete c) s = .next (run.1.finish o true v)) ∧
    ∀ (r : XfmRun) (faulted : Bool) (v : Dword), o.obj = none →
      (∀ x ∈ (r.finish o faulted v).xfms, x.id ≠ o.id) ∧ (r.finish o faulted v).mem = r.s.mem ∧
      (r.bad.isSome = true → ∀ q, (r.finish o faulted v).panel? o.panel = some q → q.halt.isSome = true) ∧
      ∀ k, r.s.skeinAt o.panel o.skein = some k → ∃ k1, (r.finish o faulted v).skeinAt o.panel o.skein = some k1 ∧
        k1.fpflags = k.fpflags ||| (r.flags &&& 0x1FF) ∧ k1.files = k.files)

/-! ## The matrix array (R292 to R320) -/

/-- MMA, MDIST, MCACC, MCFIN, FBIND and MWAIT complete: each active lane whose block passes R298 starts one operation, in lane order, and
the others trap, but a lane whose block is marked stops the panel (R479, log entry 79: DEDUCED); a started operation enters its core's queue
at the end of a cycle (log entry 29: DEDUCED); FBIND binds and unbinds a fragment slot; MWAIT acquires at panel scope once what it waits for
is over (R299, R305, R308, R310). -/
def Obligations.MatrixInstructionsComplete : Prop :=
  ∀ (z : Slot) (s : State) (fr : Frame),
    let starts (i : Instr) (kind : MatKind) : Prop := s.gate i z { a := .block } false .user = some fr →
      let sick : Prop := ∃ l ∈ fr.actives z, l < 32 ∧ ∃ v, s.blockCheck fr kind z l = .error (.poison, v)
      ∃ t : State, exec i s = .next (t.ended fr z [] [] ((fr.actives z).filterMap fun l => match s.blockCheck fr kind z l with
          | .error (.poison, _) => none
          | .error (c, v) => some (fr.trapAt l c v)
          | .ok _ => none)) ∧ t.mem = s.mem ∧ t.dies = s.dies ∧
        (∀ id, id ≠ fr.p.id → t.panel? id = s.panel? id) ∧
        (∀ q, t.panel? fr.p.id = some q → (sick → q.halt.isSome = true) ∧
          ((∀ l ∈ fr.actives z, ∀ v, s.blockCheck fr kind z l ≠ .error (.poison, v)) → ∃ p, s.panel? fr.p.id = some p ∧ q.halt = p.halt)) ∧
        (∀ k q, s.skeinAt fr.p.id k = some q → ∃ q1, t.skeinAt fr.p.id k = some q1 ∧ q1.files = q.files ∧ q1.lanes = q.lanes) ∧
        (t.mats.map fun o => (o.panel, o.skein, o.core, o.kind, o.blk, o.obj, o.queued, o.started)) =
          (s.mats.map fun o => (o.panel, o.skein, o.core, o.kind, o.blk, o.obj, o.queued, o.started)) ++
            (fr.actives z).filterMap fun l => match s.blockCheck fr kind z l with
              | .ok b => some (fr.p.id, fr.kx, fr.p.core, kind, b.1, b.2, false, false)
              | .error _ => none
    let waits (i : Instr) (ended : Prop) : Prop := s.gate i z {} true .user = some fr → fr.actives z ≠ [] → ended →
      exec i s = .next ((s.acquire fr.p.core fr.p.fn .panel).ended fr z [] [] [])
    starts (.mma z) .mma ∧ starts (.mdist z) .mdist ∧ starts (.mcacc z) .mcacc ∧ starts (.mcfin z) .mcfin ∧
    (∀ h, waits (.mwait z h) (fr.p.tileCount h.val z.lit.toNat = 0)) ∧
    (∀ h, waits (.mwaitH z h) (∀ u, u < 48 → fr.p.tileCount h.val u = 0)) ∧
    waits (.mwaitAll z) (∀ o ∈ s.mats, ¬ (o.panel = fr.p.id ∧ o.skein = fr.kx)) ∧
    (∀ m : FbindMod, s.gate (.fbind z m) z { a := .scalarOrLit } true .user = some fr → fr.actives z ≠ [] →
      let w := (fr.read32 z (fr.leader z) z.sa).toNat
      fbindFails fr.p m.handle.val w z = none →
      exec (.fbind z m) s = .next ((s.onOwn fr fun k =>
        k.bindFrag m.slotN.val (some ⟨m.handle.val, bits w 13 8, bits w 6 0⟩)).ended fr z [] [] [])) ∧
    ∀ n, s.gate (.fbindUnb z n) z {} true .user = some fr → fr.actives z ≠ [] →
      exec (.fbindUnb z n) s = .next ((s.onOwn fr fun k => k.bindFrag n.val none).ended fr z [] [] [])

/-- R186 and R292: ARRAY_START starts the head of a core's queue, once no older counted head of the die waits and fewer than sixteen
counted operations started in the die's last 150 cycles; MCFIN is not counted. R300, R304, R309 and R314: MATRIX_TILE_COMPLETE. The running
operation of a core makes its next step on its panel's operand buffer, sets the flags that the step raised, and lowers the counts of the
step's tiles; global memory and every register keep; after the last step the operation arrives. An element that a poisoned byte feeds
keeps its bytes, and the panel stops. -/
def Obligations.ArrayStartsAndSteps : Prop :=
  (
  ∀ (s : State) (core : Nat) (o : MatOp), s.headMat core = some o →
    let started : State := { s with mats := s.mats.map fun x => if x.id = o.id then { x with started := true } else x }
    (o.counted = false → exec (.arrayStart core) s = .next started) ∧
    (o.counted = true → (s.die (dieOf core)).mayStart = true →
      (∀ x ∈ s.mats, x.queued = true → x.counted = true → dieOf x.core = dieOf core → x.id < o.id →
        ∀ h, s.headMat x.core = some h → h.id ≠ x.id) →
      exec (.arrayStart core) s = .next (started.onDie (dieOf core) fun d =>
        { d with starts := (d.starts.filter fun c => decide (d.cycle < c + 150)) ++ [d.cycle] })) ∧
    (o.counted = true → (s.die (dieOf core)).mayStart = false → exec (.arrayStart core) s = .next s)) ∧
  (
  ∀ (s : State) (core tile : Nat) (bad : List Nat) (o : MatOp) (p : Panel),
    (s.queueOf core).head? = some o → s.panel? o.panel = some p → o.started = true → tile = o.done →
    let fs := s.matFeeds p o tile
    let dead := fs.1.map fun x => x.1
    let r := o.run p (bad ++ dead) tile
    let steps := stepTiles o.kind p o.blk
    let s0 := s.onPanel p.id fun q => ((steps.getD tile []).foldl (fun (q : Panel) t => q.onTile t (· - 1)) { q with opbuf := r.1 }).onSkein
      o.skein fun k => { k with fpflags := k.fpflags ||| (r.2 &&& 0x1FF) }
    let s1 := (fs.2.foldl (fun (s : State) x => s.heal (.opbuf p.id) x.1 x.2) s0).matPoison o dead bad
    (tile + 1 < steps.length → exec (.matrixTileComplete core tile bad) s =
      .next { s1 with mats := s1.mats.map fun x => if x.id = o.id then { x with done := tile + 1 } else x }) ∧
    (steps.length ≤ tile + 1 → exec (.matrixTileComplete core tile bad) s =
      .next ({ s1 with mats := s1.mats.filter fun x => x.id != o.id }.arriveRef o.obj false 0)) ∧
    (s.bad = [] → bad = [] → s1 = s0) ∧ (bad ++ dead ≠ [] → ∀ q, s1.panel? p.id = some q → q.halt.isSome = true) ∧
    s1.mem = s.mem ∧ ∀ id k q, s.skeinAt id k = some q → ∃ q1, s1.skeinAt id k = some q1 ∧ q1.files = q.files)

/-! ## Geometry (R326 to R336) -/

/-- R327 to R331: SNAP, EDGE, TRICLS and RAST complete. The first three leave each active lane's value outstanding; RAST submits one
triangle for each active lane whose descriptor is legal, in lane order, and traps the others, but a marked descriptor stops the panel (log
entry 79: DEDUCED); while 1,024 triangles of the cluster wait, it holds its skein; an event with more descriptors than there is room for
submits them all (log entry 30: DEDUCED). R329: the edge value is the cross product, and with the bias a
sample on an edge shared by two triangles lies inside exactly one of them. -/
def Obligations.GeometryInstructionsComplete : Prop :=
  (
  ∀ (z : Slot) (s : State) (fr : Frame),
    let gives (i : Instr) (form : Form) (words : Nat) (f : Nat → Dword) : Prop := s.gate i z form false .user = some fr →
      let ws := (fr.actives z).flatMap fun l => (fr.dstTargets l z.dst words).zip [loWord (f l), hiWord (f l)]
      exec i s = .next ((s.addWrite fr { VarWrite.blank with targets := ws.map (fun w => w.1), vals := ws }).ended fr z [] [] [])
    let a (l : Nat) : Dword := fr.read z l z.sa true false
    let b (l : Nat) : Dword := fr.read z l z.sb true false
    let c (l : Nat) : Dword := fr.read z l z.sc true false
    let snap (at_ l : Nat) : Dword :=
      BitVec.ofNat 64 (snapValue (fr.read32 z l z.sa).toNat (sext ((fr.read32 z l z.sb).toNat / 2 ^ at_) 16))
    gives (.snapX z) formSnap 1 (snap 0) ∧ gives (.snapY z) formSnap 1 (snap 16) ∧
    gives (.edge z) { dst := .vregs 2 2 false, a := .vqPair, b := .vqPair, c := .vqPair } 2 (fun l =>
      match point? (a l), point? (b l), point? (c l) with
      | some v0, some v1, some p => BitVec.ofNat 64 (wrap (edgeBiased v0 v1 p) 64)
      | _, _, _ => 0x8000000000000000) ∧
    (∀ cullb, gives (.tricls z cullb) { dst := .vregs 1 1 false, a := .vqPair, b := .vqPair, c := .vqPair } 1 fun l =>
      BitVec.ofNat 64 (triClass cullb z.lit.toNat (a l) (b l) (c l))) ∧
    (s.gate (.rast z) z { a := .noFrag } false .user = some fr →
      (1024 ≤ s.rastPending (clusterOf fr.p.core) → fr.actives z ≠ [] → exec (.rast z) s = .next (s.holdEvent fr)) ∧
      ((s.rastPending (clusterOf fr.p.core) < 1024 ∨ fr.actives z = []) →
        let subs := (fr.actives z).filterMap fun l => match s.rastCheck fr z l with
          | .ok o => some o
          | .error _ => none
        ∃ t : State, exec (.rast z) s = .next (t.rastAccept.ended fr z [] [] ((fr.actives z).filterMap fun l => match s.rastCheck fr z l with
            | .error (.poison, _) => none
            | .error (c, v) => some (fr.trapAt l c v)
            | .ok _ => none)) ∧
          (∀ id, (t.panel? id).map (fun q => { q with halt := none }) = (s.panel? id).map (fun q => { q with halt := none })) ∧
          (∀ q, t.panel? fr.p.id = some q → (∃ l ∈ fr.actives z, l < 32 ∧ ∃ v, s.rastCheck fr z l = .error (.poison, v)) → q.halt.isSome = true) ∧
          ((∀ l ∈ fr.actives z, ∀ v, s.rastCheck fr z l ≠ .error (.poison, v)) → t.panels = s.panels) ∧
          t.mem = s.mem ∧ t.nextId = s.nextId + subs.length ∧
          t.rastSubs = s.rastSubs ++ subs.zipIdx.map fun (x : RastSub × Nat) => { x.1 with id := s.nextId + x.2 }))) ∧
  (
  ∀ a b p : Int × Int,
    edgeAt a b p = (b.1 - a.1) * (p.2 - a.2) - (b.2 - a.2) * (p.1 - a.1) ∧
    edgeBiased a b p = (if b.2 < a.2 ∨ (b.2 = a.2 ∧ a.1 < b.1) then edgeAt a b p else edgeAt a b p - 1) ∧
    (a ≠ b → (0 ≤ edgeBiased a b p ↔ ¬ 0 ≤ edgeBiased b a p)))

/-- R333 to R336: RAST_SUBMISSION_ARRIVE gives an accepted submission its place in the order of arrival, and RAST_FRAGMENT_APPLY applies
the next fragment of a submission whose turn it is at the pixel's address: the lesser word, the FP32 sum, or the value. That a fragment finds
its core's stores performed is log entry 5. -/
def Obligations.RasteriserAppliesFragments : Prop :=
  ∀ (s : State) (c n : Nat) (o : RastSub),
    ((s.rastSubs.find? fun o => o.id == n && clusterOf o.core == c && o.accepted && o.arrival.isNone) = some o →
      let r := s.orderOf o
      let below := !o.flushed && keyLt o.key (r.draw, r.group)
      let o1 : RastSub := { o with arrival := some s.nextId, late := below }
      let s2 : State := { s with nextId := s.nextId + 1, rastSubs := s.rastSubs.map fun x => if x.id = n then o1 else x }
      let r1 : RastOrder := if o.closes = true ∧ below = false ∧ o.flushed = false then { r with closed := (o.draw, o.group, o.lastOfDraw) :: r.closed } else r
      exec (.rastSubmissionArrive c n) s = .next ((s2.setOrder r1).rastSettle (s2.setOrder r1).rastFuel)) ∧
    ((s.rastSubs.find? fun o => o.id == n && clusterOf o.core == c && s.rastMay o) = some o →
      (o.nextPixel = none → exec (.rastFragmentApply c n) s = .next (s.rastAfter o)) ∧
      ∀ px pa ro, o.nextPixel = some px →
        s.lookAt o.panel o.fn o.core none (BitVec.ofNat 64 (o.pixelAddr px)) .write o.mode = .phys pa ro →
        let s1 := (s.flushCore o.core).endWalks o.panel none
        let old := s1.mem.read pa 8
        let t := s1.applyFragment o px pa
        exec (.rastFragmentApply c n) s = .next ((t.onRast n fun x => { x with next := px + 1 }).rastAfter o) ∧
        (o.blend = 0 → t.mem.read pa 8 = min old ((o.fragment px).getD 0 * 2 ^ 32 + o.value.toNat) % 2 ^ 64) ∧
        (o.blend = 1 → t.mem.read pa 4 = (fAdd fmt32 { rm := .rne, ftz := false } (s1.mem.read pa 4) o.value.toNat).1 % 2 ^ 32) ∧
        (2 ≤ o.blend → t.mem.read pa 4 = o.value.toNat) ∧
        ∀ a, a < pa ∨ pa + (if o.blend = 0 then 8 else 4) ≤ a → t.mem.get a = s1.mem.get a)

/-! ## Traversal (R337 to R349) -/

/-- R342 to R346 and R348: TRACE, TRESUME, TWAIT and REPACK complete when no active lane's checks trap: each lane acts in ascending order
on its record; a TWAIT whose thread still runs, and every lane of a REPACK, is held. R343, R346, R347: what the lanes of TRACE and TWAIT
do. A legal idle record starts its thread and raises the lane's trace depth by one, or is MISS at once when its ray is dead; TWAIT on a
record that is done lowers the depth once and returns its words; on one that runs it holds. -/
def Obligations.TraversalInstructionsComplete : Prop :=
  (
  ∀ (z : Slot) (s : State) (fr : Frame),
    let resumes (i : Instr) (mode : Nat) : Prop :=
      s.gate i z { a := .noFrag, b := if mode = 0 ∨ mode = 4 then .unused else .vregs 3 } false .user = some fr →
        let r := runLanes fr (fr.actives z) (fun s l => s.resumeLane fr z mode l) s
        r.2.1 = [] → exec i s = .next (r.1.ended fr z [] [] [])
    (∀ pcnt : Fin 128, s.gate (.trace z pcnt) z { a := .noFrag, b := if pcnt = 0 then .unused else .named pcnt.val } false .user = some fr →
      pcnt.val ≤ fr.p.tracePayload →
      let r := runLanes fr (fr.actives z) (fun s l => s.traceLane fr z l) s
      r.2.1 = [] → exec (.trace z pcnt) s = .next (r.1.ended fr z [] [] [])) ∧
    resumes (.tresumeCont z) 0 ∧ resumes (.tresumeShort z) 1 ∧ resumes (.tresumeCommit z) 2 ∧ resumes (.tresumeEnd z) 3 ∧
    resumes (.tresumeAbort z) 4 ∧
    (∀ d, z.dst = .v d → s.gate (.twait z) z { dst := .vregs 4 4 true, a := .noFrag } false .user = some fr →
      (∀ l ∈ fr.actives z, recordTrap fr.p (fr.read32 z l z.sa).toNat = none) →
      let r := runLanes fr (fr.actives z) (fun s l =>
        s.waitLane fr.p.id fr.kx l ((fr.read32 z l z.sa).toNat / 64) (some d.val) (saTval z)) s
      r.2.1 = [] → exec (.twait z) s = .next ((r.1.onOwn fr fun k => k.onLanes r.2.2 fun l a =>
        { a with held := some (.twait ((fr.read32 z l z.sa).toNat / 64) (some d.val) (saTval z) fr.pc) }).ended fr z [] [] [])) ∧
    (s.gate (.repack z) z { a := .noFrag } false .user = some fr → fr.mode = .user →
      (∀ l ∈ fr.lanes, ∀ w ∈ fr.k.outs, w.ofLane l = false) → s.rmwFlying fr.p.id fr.kx = false →
      exec (.repack z) s = .next ((s.onOwn fr fun k => k.onLanes fr.lanes fun l a =>
        { a with held := some (.repack (fr.read32 z l z.sa) fr.pc) }).ended fr z [] [] []))) ∧
  (
  (∀ (s : State) (fr : Frame) (z : Slot) (l : Nat) (p : Panel) (k : Skein) (a : Lane),
    let off := (fr.read32 z l z.sa).toNat
    let r := p.ray (off / 64)
    s.panel? fr.p.id = some p → p.skein? fr.kx = some k → k.lanes[l]? = some a → a.tdepth = (fr.k.lane l).tdepth →
    recordTrap p off = none → s.sickRecord fr.p.id (off / 64) = false → r.base + 8 * r.cap ≤ p.kernel.scratch →
    (r.status = 0 ∧ r.flag 3 = false ∧ r.flag 8 = false ∧ r.flag 9 = false ∧ r.reserved = false ∧ r.sp = 0) →
    a.tdepth < p.traceDepth →
    ∃ t b, s.traceLane fr z l = .go t ∧ t.laneAt fr.p.id fr.kx l = some b ∧ b = { a with tdepth := a.tdepth + 1 } ∧
      (r.dead = false → (t.rayOf fr.p.id (off / 64)).isSome = true) ∧ (r.dead = true → t.rays = s.rays)) ∧
  ∀ (s : State) (panel k l h d : Nat) (sa : Dword) (p : Panel) (q : Skein) (a : Lane),
    let r := p.ray h
    s.panel? panel = some p → p.skein? k = some q → q.lanes[l]? = some a → s.sickRecord panel h = false → r.reserved = false → r.flag 3 = false →
    (r.status = 1 → s.waitLane panel k l h (some d) sa = .hold s) ∧
    ((r.status = 2 ∨ r.status = 3) → r.flag 7 = false →
      ∃ t b k1, s.waitLane panel k l h (some d) sa = .go t ∧ t.laneAt panel k l = some b ∧ b.tdepth = a.tdepth - 1 ∧
        t.skeinAt panel k = some k1 ∧ ∃ w ∈ k1.outs,
          w.vals = ((List.range 4).map fun i => Target.v l (d + i)).zip (waitWords s p h r)))

/-- R344, R347 and R348: TRAVERSAL_FETCH acts on the bytes it fetches, or finishes a thread whose stack is empty; a fetch that fails marks
the record with FAULT; a thread of a panel that is being saved makes no fetch (R429); one that has read marked bytes ends and stops its
panel (R479, log entry 79: DEDUCED); a thread that a TRESUME sent on first reads the record at NEXT for its LAST bit alone (log entry 32:
DEDUCED); REPACK_EXECUTE repacks a panel whose live lanes are all
held at one REPACK. That a fetch finds its core's stores performed is log entry 5, and that a REPACK_EXECUTE without its cause changes
nothing is log entry 3. -/
def Obligations.TraversalEventsComplete : Prop :=
  (∀ (s : State) (panel n : Nat) (q : Panel) (t : Ray), s.panel? panel = some q → s.rayOf panel n = some t →
    (q.saving.isSome = true → exec (.traversalFetch panel n) s = .next s) ∧
    (q.saving = none →
    (∀ sp, sp = (((q.ray n).settle q.scratch 130).map RayRec.sp).getD 0 → s.raySick q n sp = true → t.lane < 32 → t.panel = panel →
      ∃ u q1, exec (.traversalFetch panel n) s = .next u ∧ u.panel? panel = some q1 ∧ q1.halt.isSome = true ∧ q1.scratch = q.scratch ∧
        u.mem = s.mem) ∧
    ((q.ray n).settle q.scratch 130 = none → s.raySick q n 0 = false → ∃ u, exec (.traversalFetch panel n) s = .next u ∧ u.rayOf panel n = none ∧ u.mem = s.mem) ∧
    ∀ r, (q.ray n).settle q.scratch 130 = some r → s.raySick q n r.sp = false →
      let s0 := s.flushCore t.core
      (∀ v, s0.engBytes q t.mode .global (stepAddr r.next) (fetchSize (stepType r.next)) = .error (.fault v) →
        exec (.traversalFetch panel n) s =
          .next (((s.setRay panel n (((r.setFlag 3 true).setFlag 8 false).setFlag 9 false)).dropRay panel n).endWalks panel none)) ∧
      ∀ b, s0.engBytes q t.mode .global (stepAddr r.next) (fetchSize (stepType r.next)) = .ok b →
        s0.fetchSick q t.mode (stepAddr r.next) (fetchSize (stepType r.next)) = none →
        let s1 := s0.endWalks panel none
        let e := if t.skip = true then
            .on { r with next := afterRecord r.next (recordFlag b (flagsAt (stepType r.next)) 1) } q.scratch none
          else match stepType r.next with
          | 1 => boxStep r q.kernel.scratch q.scratch b
          | 2 => triangleStep r q.scratch b
          | _ => procStep r t.lead b
        (∀ r1 m1 lead, e = .on r1 m1 lead → exec (.traversalFetch panel n) s = .next
          { ((s1.onPanel panel fun q => { q with scratch := m1 }).heal (.scratch panel) (r.base + 8 * r.sp) (8 * (r1.sp - r.sp))).setRay
              panel n r1 with
            rays := s1.rays.map fun x => if x.panel = panel ∧ x.record = n then { x with lead := lead, skip := false } else x }) ∧
        (∀ r1, e = .stop r1 → exec (.traversalFetch panel n) s = .next ((s1.setRay panel n r1).dropRay panel n)) ∧
        ∀ r1 keep, e = .suspend r1 keep → exec (.traversalFetch panel n) s =
          .next (((s1.setRay panel n r1).dropRay panel n).onPanel panel fun q => q.setCand n (some (keep ++
            [loWord (BitVec.ofNat 64 r1.next), hiWord (BitVec.ofNat 64 r1.next)]))))) ∧
  ∀ (s : State) (id : Nat) (q : Panel), s.panel? id = some q →
    (q.mayRepack = true → exec (.repackExecute id) s = .next (s.setPanel (q.repack (s.cycle q.core)))) ∧
    (q.mayRepack = false → exec (.repackExecute id) s = .next s)

/-! ## The swatch cache (R350 to R370) -/

/-- R364 to R369: SCLK, SCWAIT, SCPOP, SCPUB, SCINV and SCSTAMP complete for a function with a heap window and the rights they need; a lane of
SCWAIT whose entry its function may not read traps PERM and changes nothing (R356; that it is SCWAIT's check at issue is log entry 39:
DEDUCED). -/
def Obligations.SwatchInstructionsComplete : Prop :=
  ∀ (z : Slot) (s : State) (fr : Frame),
    let on := fr.actives z
    let out (homes : List Nat) (ws : List (Target × Word)) : VarWrite :=
      { VarWrite.blank with targets := ws.map (fun w => w.1), vals := ws, homes := homes }
    (∀ q : LookMod, s.gate (.sclk z q) z { dst := .vregs 4 4 false, a := .vqPair, b := .noFrag } false .user = some fr →
      s.hasWindow fr = true →
      let r := on.foldl (fun (acc : List (Target × Word) × State) l =>
        let x := acc.2.sclkLane fr (fr.pair z l z.sa) (fr.read32 z l z.sb) q
        (acc.1 ++ (fr.vTargets z l 4).zip x.1, x.2)) ([], s)
      (r.2.swQueues = s.swQueues ∨ s.releaseWaits fr.p.core .device = false) →
      exec (.sclk z q) s = .next ((r.2.addWrite fr (out (on.map fun l => entryDie (keySet (fr.pair z l z.sa))) r.1)).ended fr z [] [] [])) ∧
    (s.gate (.scwait z) z { dst := .vregs 4 4 false, a := .vqPair } false .user = some fr → s.hasWindow fr = true →
      (fr.p.checking fr.mode = false ∨ ∀ l ∈ fr.lanes, fr.blockLate z l = false) →
      exec (.scwait z) s = .next (((on.filter fun l => (s.scwaitBar fr z l).isNone).foldl (fun s l => s.scwaitLane fr z l) s).ended fr z [] []
        (on.filterMap fun l => (s.scwaitBar fr z l).map fun a => fr.trapAt l .perm a))) ∧
    (∀ ix, s.gate (.scpop z) z { dst := .vregs 6 2 false } false .user = some fr → s.hasWindow fr = true → s.triggerQueue fr.p = some ix →
      let r := on.foldl (fun (acc : List (Target × Word) × State) l =>
        let x := acc.2.scpopLane fr.p.fn ix
        (acc.1 ++ (fr.vTargets z l 6).zip x.1, x.2)) ([], s)
      let s1 := if r.2.swQueues = s.swQueues then r.2 else r.2.acquire fr.p.core fr.p.fn .device
      exec (.scpop z) s = .next ((s1.addWrite fr (out (((s.subqueue ix).take on.length).map fun i => entryDie i.entry) r.1)).ended fr z [] [] [])) ∧
    (∀ l, s.gate (.scpub z) z { dst := .vregs 1 1 false, a := .vqPair, b := .vqPair, c := .noFrag } false .user = some fr → on = [l] →
      s.scpubTrap fr (fr.pair z l z.sa) = none → s.scpubWaits fr (fr.pair z l z.sa) = false →
      ∀ code t, s.publish fr.p.core fr.p.fn (swEntryOf (fr.pair z l z.sa).toNat) (fr.pair z l z.sb) (fr.read32 z l z.sc) = (some code, t) →
        exec (.scpub z) s = .next ((t.addWrite fr (out [entryDie (swEntryOf (fr.pair z l z.sa).toNat)]
          ((fr.vTargets z l 1).zip [BitVec.ofNat 32 code]))).ended fr z [] [] [])) ∧
    (∀ (drop : Bool) (i : Instr) (form : Form) (kind : InvKind),
      ((i = .scinvDep z drop ∧ form = { b := .scalar, dst := .lateScalar, a := .scalarOrLit } ∧
          kind = .dep (fr.read32 z (fr.leader z) z.sb)) ∨
        (i = .scinvKey z drop ∧ form = { b := .scalarPair, c := .scalarPair, dst := .lateScalar, a := .scalarOrLit } ∧
          kind = .key (fr.pair z (fr.leader z) z.sb) (fr.pair z (fr.leader z) z.sc))) →
      s.gate i z form true .user = some fr → on ≠ [] →
      let w := fr.read32 z (fr.leader z) z.sa
      (s.func fr.p.fn).mayInvalidate w = true →
      let ts := fr.dstTargets (fr.leader z) z.dst 1
      let ret : Option Return := if ts = [] then none else some ⟨fr.p.id, fr.kx, fr.k.seq, fr.leader z, ts⟩
      let walk : InvWalk := ⟨s.nextId, fr.p.id, fr.kx, fr.p.core, s.nextId, domOf w, tagOf w, drop, kind, [], 0, ret⟩
      exec i s = .next ((({ s with nextId := s.nextId + 1, swWalks := s.swWalks ++ [walk] } : State).addWrite fr
        { VarWrite.blank with targets := ts, awaits := [s.nextId] }).ended fr z [] [] [])) ∧
    (s.gate (.scstamp z) z { dst := .lateScalar, a := .scalarOrLit } true .user = some fr → on ≠ [] →
      let w := fr.read32 z (fr.leader z) z.sa
      (s.func fr.p.fn).mayInvalidate w = true →
      let v : Word := BitVec.ofNat 32 ((s.stampOf (domOf w) + 1) % 2 ^ 16)
      exec (.scstamp z) s = .next ((({ s with swStamps := s.swStamps.set (domOf w) v } : State).addWrite fr
        (out (List.range 4) ((fr.dstTargets (fr.leader z) z.dst 1).map fun t => (t, v)))).ended fr z [] [] []))

/-- R357: what a lookup answers. Without the read right it is DENIED; an entry of the key in its domain answers by its state; with PEEK or
a full sub-queue nothing is claimed; and DENIED, MISS and FULL change nothing. R361 and R362: a publication of a pending claim by a
function with the write right makes the entry VALID, or STALE when it was doomed, with the mask and its domain's stamp; any other changes
no entry. An invalidation's visit changes a matched entry as the table says. R368 to R370 and R424: INVALIDATION_VISIT visits a set once,
counting what changes, and the last of the four dies' 131,072 sets each ends it; SWATCH_TAG_REPAIR makes an entry read with a parity mismatch
INVALID and writes a notice for the physical function. -/
def Obligations.SwatchEntriesAndEventsFollowTheirRules : Prop :=
  (
  ∀ (s : State) (fn : Nat) (k : Dword) (w : Word) (q : LookMod),
    let r := s.swLookup fn k w q
    let dom := domOf w
    let held (n : Nat) : Prop := (waysOf (keySet k)).find? (fun n =>
      (s.swTag n).st != .invalid && (s.swTag n).keyhi == keyHi k && (s.swTag n).domain == dom) = some n
    (((s.func fn).hasRight 24 dom (tagOf w) = false ∨ bits w.toNat 31 24 ≠ 0) → r = (⟨.denied, none⟩, s)) ∧
    ((r.1.status = .denied ∨ r.1.status = .miss ∨ r.1.status = .full) → r.2 = s ∧ r.1.entry = none) ∧
    ((s.func fn).hasRight 24 dom (tagOf w) = true → bits w.toNat 31 24 = 0 → ∀ n, held n →
      ((s.swTag n).tag ≠ tagOf w → r = (⟨.denied, none⟩, s)) ∧
      ((s.swTag n).tag = tagOf w →
        ((s.swTag n).st = .valid → r.1 = ⟨.hit, some n⟩ ∧ (r.2.swTag n).stamp = s.stampOf dom) ∧
        ((s.swTag n).st = .inflight → r = (⟨.inflight, some n⟩, s)) ∧
        ((s.swTag n).st = .stale → q.stale = true → r.1 = ⟨.stale, some n⟩ ∧ (r.2.swTag n).stamp = s.stampOf dom) ∧
        ((s.swTag n).st = .stale → q.stale = false → q.peek = true → r = (⟨.miss, none⟩, s)) ∧
        ((s.swTag n).st = .stale → q.stale = false → q.peek = false →
          ((s.subqueue (subqueueIx dom q.neu.toNat)).length < 8192 → r.1 = ⟨.claimed, some n⟩ ∧ (r.2.swTag n).st = .inflight ∧
            (r.2.swTag n).owner = fn ∧ (r.2.swTag n).doom = false ∧ (r.2.swTag n).dep = 0) ∧
          (8192 ≤ (s.subqueue (subqueueIx dom q.neu.toNat)).length → r = (⟨.full, none⟩, s)))))) ∧
  (
  (∀ (s : State) (core fn n : Nat) (k : Dword) (m : Word),
    let r := s.publish core fn n k m
    let e := s.swTag n
    (s.swPending n k = false → r.1 = some 1 ∧ r.2.swTags = s.swTags) ∧
    (s.swPending n k = true → (s.func fn).hasRight 25 e.domain e.tag = false → r = (none, s)) ∧
    (s.swPending n k = true → (s.func fn).hasRight 25 e.domain e.tag = true →
      r.1 = some (if e.doom then 2 else 0) ∧ (r.2.swTag n).st = (if e.doom then .stale else .valid) ∧ (r.2.swTag n).dep = m ∧
      (r.2.swTag n).doom = false ∧ (r.2.swTag n).stamp = s.stampOf e.domain)) ∧
  ∀ (t : SwTag) (drop : Bool),
    (t.st = .invalid → t.invalidated drop = none) ∧
    (t.st = .valid → ∃ u, t.invalidated drop = some u ∧ u.st = if drop then .invalid else .stale) ∧
    (t.st = .stale → drop = true → ∃ u, t.invalidated drop = some u ∧ u.st = .invalid) ∧
    (t.st = .stale → drop = false → t.invalidated drop = none) ∧
    (t.st = .inflight → t.doom = true → t.invalidated drop = none) ∧
    (t.st = .inflight → t.doom = false → ∃ u, t.invalidated drop = some u ∧ u.st = .inflight ∧ u.doom = true)) ∧
  (
  (∀ (s : State) (w die set : Nat) (v : InvWalk), (s.swWalks.find? fun v => v.id == w) = some v → die < 4 → set < 2 ^ 17 →
    die * 2 ^ 17 + set ∉ v.visited → s.invStarted v = true →
    let r := (waysOf (16 * (die * 2 ^ 17 + set))).foldl (State.visitEntry v) (0, s)
    let v1 : InvWalk := { v with visited := insertNat (die * 2 ^ 17 + set) v.visited, count := v.count + r.1 }
    (v1.visited.length ≠ 2 ^ 19 → exec (.invalidationVisit w die set) s =
      .next { r.2 with swWalks := r.2.swWalks.map fun x => if x.id = w then v1 else x }) ∧
    (v1.visited.length = 2 ^ 19 →
      let s1 : State := { r.2 with swWalks := r.2.swWalks.filter fun x => x.id != w }
      exec (.invalidationVisit w die set) s = .next (match v.ret with | none => s1 | some ret => s1.deliver w ret v1.count none (List.range 4)))) ∧
  ∀ (s : State) (die set way : Nat) (read : BitVec 128), die < 4 → set < 2 ^ 17 → way < 16 → oddOnes read.toNat 128 = true →
    let n := die * 2 ^ 21 + set * 16 + way
    let s1 := s.setSwTag n { s.swTag n with st := .invalid, doom := false, dep := 0, stamp := 0, inv := false }
    exec (.swatchTagRepair die set way read) s = .next (((s1.countCorrected die).swSettle n).appendRecord 0
      (noticeRecord 2 (die + set * 4 + way * 2 ^ 19) read.toNat) [] 4096) ∧ (s1.swTag n).st = .invalid)


/-! ## Collectives (R458 to R465) -/

/-- R460 to R465: COLL whose record is legal leaves its operation with the engine; COLL_MATCH reads the group's descriptor, then takes
what the members whose COLL has the same GROUPID and TAG sent, ends with STATUS 2 where one of them names another operation and with 3 where a
member cannot be reached; a marked descriptor ends it with 3 and stops the panel, as combining marked bytes does (R479); COLL_COMPLETE writes RECV and STATUS and arrives; FABRIC_FAILURE ends the operation with status 3. That the engine
finds its core's stores performed and writes RECV in one step is log entry 5; the order of combination and of these checks is log entry 43. -/
def Obligations.CollectivesComplete : Prop :=
  (∀ (z : Slot) (m : CollMod) (s : State) (fr : Frame) (ref : ObjRef), s.gate (.coll z m) z { a := .scalar } true .user = some fr →
    fr.actives z ≠ [] → (s.colls.filter fun o => dieOf o.core == dieOf fr.p.core).length < 64 →
    let off := (fr.read32 z (fr.leader z) z.sa).toNat
    let b := (s.seen fr.p).scratch.list off 64
    let field (o n : Nat) : Nat := leNat ((b.drop o).take n)
    off % 64 = 0 → firstOut off 64 1 0 fr.p.kernel.scratch = none → collRecordOk m b field = true → s.sickBlock fr.p off = false →
    s.objRef fr m.mbs z.lit = .ok ref → (s.func fr.p.fn).scopeDenied .system = false →
    let op : CollOp :=
      { id := s.nextId, panel := fr.p.id, skein := fr.kx, core := fr.p.core, fn := fr.p.fn, mode := fr.mode, cop := m.cop, rop := m.rop
        ety := m.ety, send := field 0 8, recv := field 8 8, group := field 16 8, count := field 24 4, root := field 28 2
        tag := field 32 4, record := off, obj := ref, desc := none, out := none, marks := [], ended := none }
    exec (.coll z m) s = .next (({ s.tookRecords with nextId := s.nextId + 1, colls := s.colls ++ [op] } : State).ended fr z [] [] [])) ∧
  ∀ (s : State) (op : Nat) (o : CollOp), (s.colls.find? fun o => o.id == op) = some o →
    let s0 := s.flushCore o.core
    (∀ m, o.ended = none → o.out = none → o.desc = none →
      (∀ r i, s0.readGroup o = .ok r → s0.groupBad o = some i →
        ∃ t, exec (.collMatch op m) s = .next t ∧ t.mem = s0.mem ∧
          (∀ x ∈ t.colls, x.id = o.id → x.ended = some (3, BitVec.ofNat 64 o.group)) ∧
          ∀ q, t.panel? o.panel = some q → q.halt.isSome = true) ∧
      (∀ d, s0.readGroup o = .ok (some d) → s0.groupBad o = none →
        exec (.collMatch op m) s = .next ((s0.endWalks o.panel none).onColl o.id fun x => { x with desc := some d })) ∧
      (s0.readGroup o = .ok none → s0.groupBad o = none → exec (.collMatch op m) s = .next ((s0.endWalks o.panel none).endColl o 4))) ∧
    (∀ m g, o.ended = none → o.out = none → o.desc = some g →
      ((m.lost = true ∨ s.reachesAll g.rank g.devices = false) → exec (.collMatch op m) s = .next (s.endColl o 3)) ∧
      (m.lost = false → s.reachesAll g.rank g.devices = true →
        (o.matched g m.peers = none → exec (.collMatch op m) s = .next s) ∧
        ∀ qs, o.matched g m.peers = some qs →
          ((∃ q, some q ∈ qs ∧ o.agrees g q = false) → exec (.collMatch op m) s = .next (s.endColl o 2)) ∧
          ∀ own sends, (∀ q, some q ∈ qs → o.agrees g q = true) → s0.collRead o o.send (o.sendBytes g.size g.rank) = .ok own →
            o.gather g own qs = some sends →
            ∃ t out, exec (.collMatch op m) s = .next t ∧ (∀ x ∈ t.colls, x.id = o.id → x.out = some out) ∧ t.mem = s0.mem ∧
              (s0.collBad o o.send own.length ≠ [] → o.combines = true → ∀ q, t.panel? o.panel = some q → q.halt.isSome = true) ∧
              (o.cop = .allGather → out = sends.flatten) ∧ (o.cop = .broadcast → o.root < g.size → out = sends.getD o.root []))) ∧
    (∀ v, o.ended = some (2, v) → exec (.collComplete op) s = .next ((s.endWalks o.panel none).finishColl o 2 v)) ∧
    (∀ status v s1, o.ended = some (status, v) → status ≠ 2 → s.collScrub o o.recv o.recvBytes = (s1, none) →
      exec (.collComplete op) s = .next ((s1.endWalks o.panel none).finishColl o status v)) ∧
    (∀ bs s1, o.ended = none → o.out = some bs → s.collWrite o o.recv bs = (s1, none) →
      exec (.collComplete op) s = .next ((s1.endWalks o.panel none).finishColl o 0 0)) ∧
    (o.ended = none → exec (.fabricFailure op) s = .next (s.onColl o.id fun x =>
      { x with ended := some (3, BitVec.ofNat 64 o.group) }))


/-! ## Launches, dispatch and retirement (R94, R165 to R192) -/

/-- R167 to R179: the doorbell's and the graph engine's events complete. LAUNCH accepts a launch of a registered pattern or counts the
refusal with its code; LAUNCH_START starts the launch; CONTROL_WORD_READ decides a control node or fails it; PATREG, REGISTRATION_COMPLETE
and PATUNREG leave PATSTAT and the pattern table as R170 to R172 say. A request that does not come from the root complex changes nothing
(R466). That code 4 comes before any other refusal is log entry 15, that of the others 1 comes before 2 and 2
before 3 is log entry 88 (DESIGN CHOICE), and that PATREG empties the instruction caches is log entry 49. -/
def Obligations.LaunchEventsComplete : Prop :=
  ∀ (s : State) (fn : Nat) (w : Dword),
    (∀ i ∈ [Instr.launch ⟨fn, false⟩ w, .patreg ⟨fn, false⟩ w, .patunreg ⟨fn, false⟩ w], exec i s = .next s) ∧
    let f := s.func fn
    let h := w.toNat % 2 ^ 16
    let arg := w.toNat / 2 ^ 16 * 64
    let refused (code : Nat) : Prop := exec (.launch ⟨fn, true⟩ w) s =
      .next (s.onFunc fn fun f => { f with last := code, refused := min 0xFFFF (f.refused + 1) })
    (s.boot = 2 →
      (f.st = .killed → refused 4) ∧ (f.st = .active → f.pattern? h = none → refused 1) ∧
      ∀ p, f.st = .active → f.pattern? h = some p →
        (64 ≤ f.launches.length → refused 2) ∧
        (f.launches.length < 64 → s.mapped fn arg p.argBytes 18 = false → refused 3) ∧
        (f.launches.length < 64 → s.mapped fn arg p.argBytes 18 = true →
          let taken : Launch := ⟨f.nextSeq, h, arg, false, 0, []⟩
          exec (.launch ⟨fn, true⟩ w) s = .next (s.onFunc fn fun f => { f with
            launches := f.launches ++ [taken], nextSeq := (f.nextSeq + 1) % 2 ^ 48, accepted := (f.accepted + 1) % 2 ^ 32 }))) ∧
    (∀ l p, f.startable = some (l, p) → exec (.launchStart fn) s = .next ((s.onFunc fn fun f => f.onLaunch l.seq fun l =>
      { l with started := true, startAt := s.time, runs := List.replicate p.nodes.length NodeRun.blank }).advance fn l.seq)) ∧
    (∀ seq node l p n, f.launch? seq = some l → f.pattern? l.handle = some p → p.nodes[node]? = some n → n.control = true →
      (l.run node).phase = .ready → (l.run node).awaiting = true →
      (∀ v, s.controlWord fn l.arg n = some v → exec (.controlWordRead fn seq node) s =
        .next ((s.onFunc fn fun f => f.onLaunch seq fun l => l.decided p node v s.time).advance fn seq)) ∧
      (s.controlWord fn l.arg n = none → exec (.controlWordRead fn seq node) s =
        .next ((s.failNode fn (instanceOf seq node)).advance fn seq))) ∧
    (s.answers fn = true → f.registering = none →
      exec (.patreg ⟨fn, true⟩ w) s = .next (({ s with code := [] } : State).onFunc fn fun f =>
        { f with registering := some (BitVec.ofNat 64 (w.toNat / 64 * 64)), patstat := 1#64 <<< 63 }) ∧
      ((f.patterns.any fun p => p.handle == h) = false →
        exec (.patunreg ⟨fn, true⟩ w) s = .next (s.onFunc fn fun f => { f with patstat := patstatOf 0x0B h })) ∧
      ((f.patterns.any fun p => p.handle == h) = true → ((f.launches.any fun l => l.handle == h) = true ∨ s.triggerLive fn h = true) →
        exec (.patunreg ⟨fn, true⟩ w) s = .next (s.onFunc fn fun f => { f with patstat := patstatOf 0x0A 0 })) ∧
      ((f.patterns.any fun p => p.handle == h) = true → (f.launches.any fun l => l.handle == h) = false → s.triggerLive fn h = false →
        ∃ t, exec (.patunreg ⟨fn, true⟩ w) s = .next t ∧ t.mem = s.mem ∧ (∀ e ∈ t.pool, ¬ (e.fn = fn ∧ e.handle = h)) ∧
          (fn < s.fns.length → (t.func fn).patstat = patstatOf 0 h ∧ ∀ p, p ∈ (t.func fn).patterns ↔ p ∈ f.patterns ∧ p.handle ≠ h))) ∧
    ∀ a, f.registering = some a →
      (∀ c, s.readPattern fn a.toNat = .error c → exec (.registrationComplete fn) s =
        .next (s.onFunc fn fun f => { f with registering := none, patstat := patstatOf c 0 })) ∧
      ∀ p, s.readPattern fn a.toNat = .ok p → exec (.registrationComplete fn) s =
        .next (s.onFunc fn fun f => { f with registering := none, patterns := f.patterns ++ [p], patstat := patstatOf 0 p.handle })

/-- R180, R183: the pick for a core takes an entry of the pool that is eligible, fits and has a class of at most κ, and the entries that
it passed over are eligible, fit, stand no later in pool order, have a class above κ and have not been passed eight times. PANEL_DISPATCH
of the entry that the pick chooses completes, and of none when the pick chooses none: its count of panels
to come falls by one and its panels become resident (R129, R142). That entries passed over are counted by die and that a core with none to pick
counts a stall is log entry 68; the order of tied entries is log entry 90, a gang's needs are log entry 92, and where a home's ring lies is log
entry 91. -/
def Obligations.PickChoosesByTheRule : Prop :=
  (∀ (s : State) (entry : Nat) (pl : Placement) (places : List Placement), s.pick pl.core = none →
    exec (.panelDispatch entry (pl :: places)) s = .next (s.countFrag pl.core)) ∧
  ∀ (s : State) (core : Nat) (e : PoolEntry) (passed : List Nat), s.pick core = some (e, passed) →
    let kappa := (s.die (dieOf core)).kappa
    let fits (f : PoolEntry) : Prop := f ∈ s.pool ∧ s.eligible f core = true ∧ s.reservedFrom f core = false ∧ s.fitsNow f core true = true
    fits e ∧ e.eclass ≤ kappa ∧
    (∀ x ∈ passed, ∃ f, f.id = x ∧ fits f ∧ kappa < f.eclass ∧ f.skips.getD (dieOf core) 0 ≠ 8 ∧ e.before f = false) ∧
    ∀ pl places n image, pl.core = core → s.nodeOf e.fn e.handle e.node = some n → s.imageOf e.fn e.handle = some image →
      e.dispatches = true → s.resumable e = false → s.placesOk e.id e.fn n (pl :: places) = true →
      exec (.panelDispatch e.id (pl :: places)) s = .next (((((s.picked e passed core).headPlaced e.id ((pl :: places).map fun x => x.core)).onEntry e.id fun f =>
        { f with left := f.left - 1 }).place e n image (pl :: places)).trimEntry e)

/-- R94, R142, R181, R190, R191, R426 and R436: SKEIN_RETIRE, RANGE_SPLIT, POOL_AGING, PREEMPTION_REQUEST and PANEL_RESUME complete. A
panel retires with its last skein, and leaves its core with the last member of its gang (log entry 17); a split gives the new panel the
upper half of the donor's chunks; an entry that has waited band.T microseconds rises a level within its band; a preemption request asks the
least number of victims, in R426's order, whose resources let the entry fit (that it asks them all when none does is log entry 23: DEDUCED). That a panel which halts or is being saved
is no donor is log entry 93. -/
def Obligations.PanelEventsComplete : Prop :=
  (∀ (s : State) (p k : Nat) (q : Panel) (sk : Skein), s.panel? p = some q → q.skein? k = some sk → s.mayRetire q k sk = true →
    let s1 := s.onPanel p fun q => q.onSkein k fun sk => { sk with retired := true }
    let q1 := (s1.panel? p).getD q
    let all := s1.gangOf q1
    (q1.over = true → exec (.skeinRetire p k) s = .next (s1.retirePanel q1 (if all.all Panel.over then all else []))) ∧
    (q1.over = false → exec (.skeinRetire p k) s = .next s1)) ∧
  (∀ (s : State) (p : Nat) (place : Placement) (d : Panel) (r : Span) (n : Node), s.panel? p = some d → d.range = some r →
    s.nodeOf d.fn d.handle d.node = some n → s.donor place.core d = true →
    (∀ q ∈ s.panels, q.id ≠ d.id → s.donor place.core q = true → donorBefore d q = true) →
    s.pick place.core = none → s.placeOk d.fn d.kernel 0 place = true →
    let cut := r.lo + r.grain * ((r.chunks + 1) / 2)
    let s0 := s.countFrag place.core
    let s1 := ({ s0 with nextId := s0.nextId + 1 } : State).onPanel p fun q => { q with range := some { r with hi := cut } }
    let s2 : State := { s1 with made := (p, 32, 1) :: s0.made }
    let new := Panel.start s0.nextId d.fn d.handle d.node (s.nextIx d.fn d.handle d.node n) d.argAddr d.kernel d.image d.level 0
      (s.cycle place.core) none (some { r with lo := cut }) place
    exec (.rangeSplit p place) s = .next (((s2.addPanel new 1).countPanels d.fn d.handle d.node n 1).hwTrace d.fn place.core 7 0 d.node)) ∧
  (∀ (s : State) (e : PoolEntry), (s.pool.find? fun x => x.id == e.id) = some e →
    let f := s.func e.fn
    let low := (s.panels.filter fun p => p.fn == e.fn && decide (p.level + f.margin ≤ e.level) && p.gang.isNone && p.halt.isNone).foldr
      insertVictim []
    let vs := s.victims e low []
    let without (ps : List Panel) : State := { s with panels := s.panels.filter fun p => !ps.any fun t => t.id == p.id }
    (f.bandT ≠ 0 → e.level < f.bandHigh → e.since + 1500 * f.bandT ≤ s.time →
      exec (.poolAging e.id) s = .next (s.onEntry e.id fun x => { x with level := x.level + 1, since := x.since + 1500 * f.bandT })) ∧
    (f.margin ≠ 0 → s.fitsSomewhere e = false → exec (.preemptionRequest e.id) s =
      .next { s with panels := s.panels.map fun p => if vs.any fun v => v.id == p.id then p.setPreq s.time true else p }) ∧
    ∃ n, vs = low.take n ∧ (n = low.length ∨ (without vs).fitsSomewhere e = true) ∧
      ∀ j, 0 < j → j < n → (without (low.take j)).fitsSomewhere e = false) ∧
  ∀ (s : State) (pl : Placement) (places : List Placement) (e : PoolEntry) (passed : List Nat) (n : Node),
    s.pick pl.core = some (e, passed) → s.nodeOf e.fn e.handle e.node = some n →
    let qs := s.resumeGroup e
    qs ≠ [] → (s.withoutSaved e.fn qs).resumeOk e.id e.fn qs (pl :: places) = true →
    exec (.panelResume e.id (pl :: places)) s =
      .next (((((s.picked e passed pl.core).headPlaced e.id ((pl :: places).map fun x => x.core)).withoutSaved e.fn qs).resumeAll e.fn n qs (pl :: places)).trimEntry e)

/-! ## Saves and stops (R387, R421 to R443, R454, R478) -/

/-- R96, R421, R427, R429 and R438: COOPERATIVE_SAVE, DEADLINE_EXPIRE, SLICE_END, PARTITION_CHANGE, CORE_REMOVAL and CONTEXT_SAVE_DONE
complete: a save begins for the reason of its event, and a saved panel leaves its core with its context in the save region. -/
def Obligations.SaveEventsComplete : Prop :=
  ∀ (s : State) (p : Nat) (q : Panel), s.panel? p = some q →
    (s.mayYield q = true → exec (.cooperativeSave p) s = .next (s.startSave q 0 0xFF)) ∧
    (∀ t, q.active = true → s.mayYield q = false → q.timer = some t → t ≤ s.time →
      exec (.deadlineExpire p) s = .next ((s.startSave q 1 1).hwTrace q.fn q.core 8 0 q.node)) ∧
    (∀ c r fn us, s.rotation? c = some r → r.table[r.current]? = some (fn, us) → 2 ≤ r.table.length → r.ending = false →
      r.since + 1500 * us ≤ s.time →
      exec (.sliceEnd c) s = .next ((s.setRotation c { r with ending := true }).saveAll (s.onCluster c fn) 0).settleClusters) ∧
    (∀ fn clusters slices, (s.func fn).st = .active → (s.func fn).change = none →
      let added := (List.range 32).filter fun c => inPartition clusters c && !inPartition (s.func fn).clusters c
      let removed := (List.range 32).filter fun c => inPartition (s.func fn).clusters c && !inPartition clusters c
      s.slicesOk added slices = true → exec (.partitionChange fn clusters slices) s =
        .next (removed.foldl (fun s c => s.leaveCluster c fn) (added.foldl (fun s c => s.joinCluster c fn (sliceOf slices c))
          (s.onFunc fn fun f => { f with change := some clusters }))).settleClusters) ∧
    (∀ core, core < 768 → exec (.coreRemoval core) s =
      .next ((s.setCoreNote core { s.coreNote core with out := true }).saveAll (s.onCore core) 3)) ∧
    (s.saveReady q = true → exec (.contextSaveDone p) s =
      .next ((s.gangOf q).foldl (fun s x => ((s.dropPanel x).ensureEntry x).hwTrace x.fn x.core 3 0 x.node)
        ((s.gangOf q).foldl State.storeContext s)).settleClusters) ∧
    ∀ kind reason, ∃ q1, (s.startSave q kind reason).panel? p = some q1 ∧
      (q.saving = none → q.halt = none → q1.saving = some ⟨kind, reason⟩) ∧
      (q.halt.isSome = true → q1 = q) ∧ q1.scratch = q.scratch ∧ q1.opbuf = q.opbuf ∧ (q1.skeins.map Skein.files) = q.skeins.map Skein.files

/-- R219, R387, R423, R424, R442, R454 and R478 to R481: PANEL_HALT, FAULT_RECORD_WRITE, TAG_PARITY_ERROR, DIE_LINK_FAILURE and THERMAL_TRIP
complete. A repaired error is counted; an uncorrectable one marks its bytes, or stops the panel that consumes it: a poisoned result in
the lanes it would land in, where it never lands, and an error in a register or in a structure of no function at once, with the values of
R54 and R480. That bytes are marked one by one, that the sound lanes of a
poisoned result land and that an error in a register stops the panel at once is log entry 79; what counts as a use of a failed link is log
entry 80; that a halt or a kill by a tag error counts as an uncorrectable error is log entry 46, and that a copy's tag error drops the
copy and counts as corrected is log entry 47 (all DEDUCED). -/
def Obligations.StopEventsComplete : Prop :=
  (∀ (s : State) (p k die : Nat) (spots : List Spot),
    exec (.panelHalt p k (.corrected die)) s = .next (s.countCorrected die) ∧
    ∃ t, exec (.panelHalt p k (.damaged die spots)) s = .next t ∧ (∀ x, x ∈ t.bad ↔ x ∈ s.bad ∨ x ∈ spots) ∧ t.mem = s.mem ∧
      t.panels = s.panels ∧ t.dies = (s.countUncorr die).dies) ∧
  (∀ (s : State) (p k : Nat) (q : Panel), s.panel? p = some q → q.halt = none →
    (∀ lanes, ∃ t q1 h, exec (.panelHalt p k (.poison lanes none)) s = .next t ∧ t.panel? p = some q1 ∧ q1.halt = some h ∧
      h.cause = .poison ∧ h.skein = k ∧ h.lanes = lanes ∧ h.tval = BitVec.allOnes 64 ∧ t.mem = s.mem ∧ q1.skeins = q.skeins ∧
      ∀ id, id ≠ p → t.panel? id = s.panel? id) ∧
    (∀ lanes n, exec (.panelHalt p k (.poison lanes (some n))) s =
      .next ((s.setPanel (q.onSkein k fun sk => sk.spoil n lanes)).countUncorr (dieOf q.core))) ∧
    (∀ addr, ∃ t q1 h, exec (.panelHalt p k (.machineCheck addr)) s = .next t ∧ t.panel? p = some q1 ∧ q1.halt = some h ∧
      h.cause = .mchk ∧ h.skein = k ∧ h.lanes = 0 ∧ h.tval = mchkTval addr 0 (dieOf q.core) 4 ∧ t.mem = s.mem ∧ q1.skeins = q.skeins) ∧
    ∀ n sk w, q.skein? k = some sk → sk.landable n = some w → w.bad ≠ [] → (∀ b ∈ w.bad, b.lane < 32) →
      (∀ b ∈ w.bad, ∀ x ∈ w.sound, x.1 ≠ b.target) ∧
      ∃ t q1 h, exec (.variableWriteLand p k n) s = .next t ∧ t.panel? p = some q1 ∧ q1.halt = some h ∧ h.cause = .poison ∧ h.skein = k ∧
        h.lanes = laneMask (w.bad.map fun b => b.lane) ∧ q1.skein? k = some (sk.landOut w)) ∧
  (∀ (s : State) (p : Nat) (q : Panel) (h : Halt), s.panel? p = some q → q.halt = some h → s.panelBusy q = false →
    s.releaseWaits q.core .device = false →
    exec (.faultRecordWrite p) s =
      .next ((s.appendRecord q.fn (s.haltRecord q h) ((s.areaMarks q).map (4096 + ·)) (4096 + s.areaOf q)).removeStopped q).settleClusters) ∧
  ∀ (s : State) (m : TagError) (die a b : Nat),
    (∀ place, m.place = some place → exec (.tagParityError m) s =
      .next ((s.dropCopies fun c => c.place == place && c.sector / 4 == m.line).countCorrected m.die)) ∧
    (m.place = none → m.ownerGood = true →
      exec (.tagParityError m) s = .next (if m.dirty = true
        then (s.kill m.owner (m.die % 4 + m.group % 16 * 4)).countUncorr m.die else s.countCorrected m.die)) ∧
    (m.place = none → m.ownerGood = false →
      exec (.tagParityError m) s = .next ((((s.die m.die).ways.getD m.group []).eraseDups.foldl
        (fun s fn => s.kill fn (m.die % 4 + m.group % 16 * 4 + 64)) s).countUncorr m.die)) ∧
    (a ≠ b → a < 4 → b < 4 → exec (.dieLinkFailure a b) s = .next (s.panels.foldl (fun s p =>
      if s.usesLink p a b then s.haltAll [p] (if dieOf p.core = a then b else a) 1 else s) s)) ∧
    (die < 4 → ∃ t, exec (.thermalTrip die) s = .next t ∧ die ∈ t.tripped ∧ t.mem = s.mem ∧
      t.panels.map (fun p => p.id) = s.panels.map (fun p => p.id) ∧
      (∀ c, dieOf (24 * c) = die → t.clusterFn c = none) ∧
      ∀ p ∈ t.panels, dieOf p.core = die → p.halt.isSome = true)

/-! ## The platform (R419, R420, R455 to R482) -/

/-- R420, R458, R466 to R474 and R482: FUNCTION_CREATE, FUNCTION_LEVEL_RESET, BOOT, COLD_RESET, WARM_RESET, ATTESTATION_REQUEST,
ROUTE_TABLE_LOAD and the host aperture's events complete; a request that does not come from the root complex reads nothing and writes
nothing. A created function is ACTIVE with its registers at their reset values (R419, R420; log entry 53); after a device reset
everything but HBM4's contents is as after reset, and the environment's inputs, the numbering of events and the place in the free values
go on (log entries 2, 4 and 7). A function-level reset of function 0 as a cold reset is log entry 48, and the TVAL 0 of the kill in any other
is log entry 56; the order of an aperture's page accesses is log entry 54, and the mailbox's answers are log entry 55; that a read of the LAUNCH register answers 0 is log
entry 96 (DESIGN CHOICE). -/
def Obligations.PlatformEventsComplete : Prop :=
  ∀ (s : State) (fn : Nat),
    (∀ m, s.boot = 2 → fn < 65 → (s.func fn).st ≠ .active → (∀ p ∈ s.panels, p.fn ≠ fn) → s.setupOk fn m = true →
      exec (.functionCreate fn m) s = .next (s.createFn fn m)) ∧
    (∀ m, fn < s.fns.length →
      let f := (s.createFn fn m).func fn
      f.st = .active ∧ f.bandT = 0 ∧ f.bandHigh = 47 ∧ f.bandLow = 0 ∧ f.scopes = 1 ∧ f.fault = 0 ∧ f.tbuf = 0 ∧ f.twr = 0 ∧ f.trd = 0 ∧
      f.tdrop = 0 ∧ f.fdrop = 0 ∧ f.patterns = [] ∧ f.launches = [] ∧ f.saved = [] ∧ f.clusters = m.clusters ∧ f.root1 = m.root1 ∧
      f.root2 = m.root2 ∧ (∀ e ∈ (s.createFn fn m).tlbs, e.fn ≠ fn) ∧ (s.createFn fn m).mem = s.mem) ∧
    (s.boot = 2 → fn < 65 → (s.func fn).st ≠ .absent →
      (fn = 0 → exec (.functionLevelReset fn) s = .next s.coldReset) ∧
      (fn ≠ 0 → exec (.functionLevelReset fn) s =
        .next ((s.kill fn 0).onFunc fn fun f => { f with resetting := true }).settleResets)) ∧
    (∀ m, s.boot = 0 →
      ((Config.signed m.platform = false ∨ Config.signed m.hypervisor = false) → exec (.boot m) s = .next { s with boot := 1 }) ∧
      (Config.signed m.platform = true → Config.signed m.hypervisor = true → bootLegal m = true → s.setupOk 0 m.setup = true →
        exec (.boot m) s = .next ((s.booted m).createFn 0 m.setup))) ∧
    (∃ t, exec .coldReset s = .next t ∧
      ({ t with mem := [], hbm := [], inputs := [], free := 0, nextId := State.reset.nextId } : State) = State.reset) ∧
    (∃ t, exec .warmReset s = .next t ∧
      ({ t with mem := [], hbm := [], inputs := [], free := 0, nextId := State.reset.nextId } : State) = State.reset) ∧
    (fn < 65 → s.boot = 2 →
      (∀ nonce handle, exec (.attestationRequest fn nonce (.report handle)) s = .next (s.onFunc fn fun f =>
        { f with answer := s.report fn nonce handle ++ fitBytes (Config.signature (s.report fn nonce handle)) 2420 })) ∧
      (∀ nonce, exec (.attestationRequest fn nonce .certificates) s = .next (s.onFunc fn fun f => { f with answer := Config.certificates })) ∧
      ∀ nonce d, exec (.attestationRequest fn nonce (.counters d)) s = .next (s.onFunc fn fun f =>
        { f with answer := if fn = 0 ∧ d < 4 then (s.die d).counters else [] })) ∧
    (∀ m, s.boot = 2 → exec (.routeTableLoad m) s =
      .next { s with device := m.device % 2 ^ 16, routes := m.routes.map fun r => (r.1 % 2 ^ 16, r.2 % 2 ^ 18) }) ∧
    (∀ a n, exec (.hostApertureRead ⟨fn, false⟩ a n) s = .next (s.onFunc fn fun f => { f with answer := [] })) ∧
    (∀ a bs, exec (.hostApertureWrite ⟨fn, false⟩ a bs) s = .next s) ∧
    (s.barsLive fn = true →
      (∀ w, exec (.apbase ⟨fn, true⟩ w) s = .next (s.onFunc fn fun f =>
        { f with apBase := BitVec.ofNat 64 (bits w.toNat 56 36 * 2 ^ 36 + w.toNat % 2) })) ∧
      exec (.apfault ⟨fn, true⟩) s = .next (s.onFunc fn fun f =>
        { f with answer := leBytes f.apFault.toNat 8, apFault := BitVec.ofNat 64 (f.apFault.toNat % 2 ^ 63) }) ∧
      (∀ off v, (off, v) ∈ [(0x18, (s.func fn).patstat.toNat), (0x20, (s.func fn).last % 2 ^ 8 * 2 ^ 56 +
            (s.func fn).refused % 2 ^ 16 * 2 ^ 32 + (s.func fn).accepted % 2 ^ 32), (0x28, 0), (0, 0)] →
        ∃ t, exec (.hostApertureRead ⟨fn, true⟩ (.bar0 off) 8) s = .next t ∧ t.mem = s.mem ∧ t.panels = s.panels ∧
          (fn < s.fns.length → (t.func fn).answer = leBytes v 8)) ∧
      (∀ off n pa, off + n ≤ 2 ^ 36 → off % 4096 + n ≤ 4096 → 0 < n → s.apertureAt fn off false = .ok (some pa) →
        exec (.hostApertureRead ⟨fn, true⟩ (.bar2 off) n) s = .next (s.onFunc fn fun f => { f with answer := s.mem.list pa n })) ∧
      (∀ off n, off + n ≤ 2 ^ 36 → off % 4096 + n ≤ 4096 → 0 < n → s.apertureAt fn off false = .ok none →
        exec (.hostApertureRead ⟨fn, true⟩ (.bar2 off) n) s = .next ((s.apertureFails fn off).onFunc fn fun f =>
          { f with answer := List.replicate n 0xFF })) ∧
      ∀ off bs pa, off + bs.length ≤ 2 ^ 36 → off % 4096 + bs.length ≤ 4096 → bs ≠ [] → s.apertureAt fn off true = .ok (some pa) →
        exec (.hostApertureWrite ⟨fn, true⟩ (.bar2 off) bs) s = .next (s.setMem (s.mem.put pa bs) pa bs.length))

/-- R476: POWER_INTERVAL, one comparison of a die in each 10 µs (15,000 cycles at 1.5 GHz). Above 95% of the budget κ falls by one, or at 0 the clock by 25 MHz down to 750 MHz; below 75% the clock rises by
25 MHz up to 1.5 GHz, or at 1.5 GHz κ by one up to 7; between them neither moves; and the die's counters of R481 count. -/
def Obligations.PowerArbiterFollowsItsRule : Prop :=
  ∀ (s : State) (die : Nat) (m : PowerSample) (d : Die), s.dies[die]? = some d → d.PowerOk →
    (s.time < d.sampled + 15000 → exec (.powerInterval die m) s = .next s) ∧
    (d.sampled + 15000 ≤ s.time →
    ∃ t e, exec (.powerInterval die m) s = .next t ∧ t.dies[die]? = some e ∧ (∀ j, j ≠ die → t.dies[j]? = s.dies[j]?) ∧
      t.mem = s.mem ∧ t.panels = s.panels ∧ t.fns = s.fns ∧
      (95 * d.budget < 100 * m.milliwatts → 0 < d.kappa → e.kappa + 1 = d.kappa ∧ e.clock = d.clock) ∧
      (95 * d.budget < 100 * m.milliwatts → d.kappa = 0 → 750 < d.clock → e.clock + 25 = d.clock ∧ e.kappa = 0) ∧
      (95 * d.budget < 100 * m.milliwatts → d.kappa = 0 → d.clock = 750 → e.clock = 750 ∧ e.kappa = 0) ∧
      (100 * m.milliwatts < 75 * d.budget → d.clock < 1500 → e.clock = d.clock + 25 ∧ e.kappa = d.kappa) ∧
      (100 * m.milliwatts < 75 * d.budget → d.clock = 1500 → e.clock = 1500 ∧ e.kappa = min 7 (d.kappa + 1)) ∧
      (75 * d.budget ≤ 100 * m.milliwatts → 100 * m.milliwatts ≤ 95 * d.budget → e.clock = d.clock ∧ e.kappa = d.kappa) ∧
      e.kappa0 = (if d.kappa = 0 then (d.kappa0 + 1) % 2 ^ 64 else d.kappa0) ∧
      e.clkDown = (if e.clock < d.clock then (d.clkDown + 1) % 2 ^ 64 else d.clkDown) ∧ e.sampled = s.time)

/-! ## Walks, parks and debug requests (R95, R394, R395, R412 to R418) -/

/-- R412 to R415: TRANSLATION_WALK and STAGE2_FAULT_RESOLVE complete; and R95: PARK_EXPIRE and PARK_ALL_STILL unpark. A walk that found its
page installs it; a second-stage fault waits for firmware; firmware's table entries restart the walk, and its refusal stops the panel. That a yielding lane is still is log entry 62
(DEDUCED). -/
def Obligations.WalksAndParksComplete : Prop :=
  ∀ (s : State) (n : Nat) (w : Walk),
    ((s.walks.find? fun w => w.id == n && w.stage == .running) = some w →
      (w.marked = true → exec (.translationWalk n) s = .next (s.restartWalk w)) ∧
      (∀ p, w.marked = false → w.found = .page p →
        exec (.translationWalk n) s = .next ((s.installWalk w p).onWalk n fun x => { x with stage := .ended })) ∧
      ∀ x, w.marked = false → w.found = .stop x → x.kind ≠ 6 →
        exec (.translationWalk n) s = .next (s.onWalk n fun y => { y with stage := if x.stage = 2 then .firmware else .ended })) ∧
    ((s.walks.find? fun w => w.id == n && w.stage == .firmware) = some w →
      (∀ ws : List (Nat × Dword), (∀ x ∈ ws, backedRange s.interleave x.1 8 = true) →
        exec (.stage2FaultResolve n (some ws)) s =
          .next ((ws.foldl (fun (s : State) x => s.setMem (s.mem.write x.1 8 x.2.toNat) x.1 8) s).restartWalk w)) ∧
      ∃ t, exec (.stage2FaultResolve n none) s = .next t ∧ t.mem = s.mem ∧
        ∀ q, s.panel? w.panel = some q → q.halt = none → ∃ q1 h, t.panel? w.panel = some q1 ∧ q1.halt = some h ∧ h.cause = .mchk ∧
          h.lanes = w.lanes ∧ h.tval.toNat % 256 = 2) ∧
    ∀ (p k l : Nat) (q : Panel) (sk : Skein) (a : Lane), s.panel? p = some q → q.skein? k = some sk →
      sk.lanes[l]? = some a →
      (∀ c, a.park = some (.till c) → c ≤ s.cycle q.core → ∃ t, exec (.parkExpire p k l) s = .next t ∧
        t.laneAt p k l = some { a with park := none, wake := s.cycle q.core + 1 }) ∧
      (sk.allStill = true → a.park.isSome = true → a.exited = false → ∃ t, exec (.parkAllStill p k) s = .next t ∧
        t.laneAt p k l = some { a with park := none, wake := s.cycle q.core + 1 })

/-- R394 and R395: the debug requests complete. A READ of a frozen skein gives the register's value in panel.dbgdata, with STALE while
a newer write of it is outstanding; a WRITE of a register with nothing outstanding writes it; a DRAIN waits until nothing is
outstanding; a skein that is not frozen answers NOTFROZEN, and an index or class that no register has answers RANGE. That NOTFROZEN comes
first, and that a WRITE of an illegal ply width is RANGE, is log entry 11. -/
def Obligations.DebugRequestsComplete : Prop :=
  ∀ (s : State) (p w : Nat) (q : Panel), s.panel? p = some q → q.dbg = some (w, false) →
    (∀ i ∈ [(Instr.dbgRead p, 0), (.dbgWrite p, 1), (.dbgDrain p, 2)], dbgOp q.dbgreq = i.2 → dbgFrozen q w q.dbgreq = none →
      exec i.1 s = .next (s.setPanel (q.dbgDone 2))) ∧
    (∀ k, dbgFrozen q w q.dbgreq = some k →
      let t := dbgTarget q q.dbgreq
      let eng := s.enginesFlag p k.ix
      let badPly : Prop := t = .skeinReg 0x102 ∧ sysIllegal Func.blank 0x102 q.dbgdata = true
      (dbgOp q.dbgreq = 0 →
        (t = .range → exec (.dbgRead p) s = .next (s.setPanel (q.dbgDone 3))) ∧
        (t ≠ .range → let r := dbgValue eng k q.dbgreq t
          exec (.dbgRead p) s = .next (s.setPanel (({ q with dbgdata := r.1 } : Panel).dbgDone (if r.2 then 1 else 0))))) ∧
      (dbgOp q.dbgreq = 1 →
        ((t = .range ∨ badPly) → exec (.dbgWrite p) s = .next (s.setPanel (q.dbgDone 3))) ∧
        (t ≠ .range → ¬ badPly → dbgBusy eng k q.dbgreq t = false → exec (.dbgWrite p) s = .next (s.setPanel
          ((q.onSkein (dbgSkein q.dbgreq) fun k => { dbgStore k q.dbgreq t q.dbgdata with reads := none }).dbgDone 0))) ∧
        (t ≠ .range → ¬ badPly → dbgBusy eng k q.dbgreq t = true → exec (.dbgWrite p) s = .next (s.setPanel (q.dbgDone 1)))) ∧
      (dbgOp q.dbgreq = 2 →
        exec (.dbgDrain p) s = .next (s.setPanel { q with dbg := some (w, true) }) ∧
        let q1 : Panel := { q with dbg := some (w, true) }
        ∀ s1 : State, s1.panel? p = some q1 → k.outs = [] → k.results = [] → s1.enginesFlag p k.ix = false →
          exec (.dbgDrainComplete p) s1 = .next (s1.setPanel (q1.dbgDone 0)))) ∧
    ∀ (k : Skein) (n : Nat) (v : Word), 0 < n → n < 64 → (k.writeNow [(.s n, v)]).s.get n = v
end

