-- ==== Sys2Proof/Laws/Gate.lean ====
section
/-!
SUPPORT. Sys2Proof/Laws/Gate.lean: one lemma for each way an issue event runs (runMembers, runSlot, runMem, runLate): what it answers
once its gate is open.
-/
namespace Sys2Proof.Machine

/-- What an open gate says. -/
theorem gate_facts {s : State} {i : Instr} {z : Slot} {f : Form} {once : Bool} {need : Least} {fr : Frame}
    (h : s.gate i z f once need = some fr) :
    s.openFrame = .ok fr ∧ fr.notReady = false ∧ fr.staticTrap false need f z (slotHigh (encode i)) = none ∧
      fr.locked once f z = false ∧ fr.shortLanes once f z = [] := by
  unfold State.gate at h
  split at h
  · cases h
  · split at h
    · rename_i hc
      cases h
      simp only [Bool.and_eq_true, Bool.not_eq_true', Option.isNone_iff_eq_none, List.isEmpty_iff] at hc
      exact ⟨by assumption, hc.1.1.1, hc.1.1.2, hc.1.2, hc.2⟩
    · cases h

/-- The lanes of an issue set, less none. -/
@[simp] theorem filter_not_nil (ls : List Nat) : (ls.filter fun l => !([] : List Nat).contains l) = ls := by simp

/-- An instruction that stands alone, once its gate is open: its own part decides, for every lane of the issue set. -/
theorem runSlot_gate {g : Gate} {i : Instr} {s : State} {act : Frame → List Nat → State → Done} {fr : Frame}
    (h : s.gate i g.slot g.form g.once g.need = some fr) (hi : g.hi = slotHigh (encode i)) (hn : g.illop fr = false)
    (hw : g.waits fr = false) (hc : g.code fr = none := by rfl) (hj : g.judge fr = none := by rfl) :
    runSlot g s act =
      match act fr fr.lanes s with
      | .wait s1 => .next (s1.holdEvent fr)
      | .stop f => .fault f
      | .done s1 goes stays traps => .next (s1.ended fr g.slot goes stays traps) := by
  obtain ⟨h1, h2, h3, h4, h5⟩ := gate_facts h
  simp only [runSlot, Gate.trap?, h1, hn, hi, h2, h3, h4, h5, hw, hc, hj, Option.map_none, Bool.or_false, Bool.false_eq_true, if_false,
    List.map_nil, List.nil_append]
  simp only [filter_not_nil, State.ended]
  all_goals (cases act fr fr.lanes s <;> rfl)

/-- `runSlot_gate` with the gate's fields written out, so that it rewrites a meaning as it stands. -/
theorem runSlot_open {z : Slot} {hi : Dword} {f : Form} {once : Bool} {need : Least} {illop waits : Frame → Bool} {code judge : Frame → Option Dword} {i : Instr} {s : State}
    {act : Frame → List Nat → State → Done} {fr : Frame} (h : s.gate i z f once need = some fr) (hh : hi = slotHigh (encode i))
    (hn : illop fr = false) (hw : waits fr = false) (hc : code fr = none := by rfl) (hj : judge fr = none := by rfl) :
    runSlot ⟨z, hi, f, need, illop, once, waits, code, judge⟩ s act =
      match act fr fr.lanes s with
      | .wait s1 => .next (s1.holdEvent fr)
      | .stop f => .fault f
      | .done s1 goes stays traps => .next (s1.ended fr z goes stays traps) :=
  runSlot_gate (g := ⟨z, hi, f, need, illop, once, waits, code, judge⟩) h hh hn hw hc hj

/-- An instruction that stands alone, when R9 steps 1 to 3 trap: every lane of the issue set takes the trap and nothing else is done. -/
theorem runSlot_trap {g : Gate} {s : State} {act : Frame → List Nat → State → Done} {fr : Frame} {c : Cause} {v : Dword}
    (h : s.openFrame = .ok fr) (hn : fr.notReady = false) (ht : fr.staticTrap (g.illop fr) g.need g.form g.slot g.hi = some (c, v)) :
    runSlot g s act = .next (s.ended fr g.slot [] [] (fr.allTrap c v)) := by
  simp only [runSlot, Gate.trap?, h, ht, hn, Bool.false_eq_true, if_false, State.ended]

/-- A privileged instruction in a mode that may not run it traps PRIV with tval slot[95:32] (R9, R37). -/
theorem runSlot_priv {g : Gate} {s : State} {act : Frame → List Nat → State → Done} {fr : Frame} {z : Slot} {hi : Dword}
    (h : s.openFrame = .ok fr) (hn : fr.notReady = false) (hx : g.illop fr = false) (hm : fr.mode.allows g.need = false)
    (hz : g.slot = z) (hh : g.hi = hi) : runSlot g s act = .next (s.ended fr z [] [] (fr.allTrap .priv hi)) := by
  subst hz hh
  exact runSlot_trap h hn (by simp [Frame.staticTrap, hx, hm])

/-- An instruction that may pair, standing alone, once its gate is open (R19). -/
theorem runMembers_gate {m : Member} {i : Instr} {s : State} {fr : Frame}
    (h : s.gate i m.slot m.form m.once .user = some fr) (hi : m.hi = slotHigh (encode i)) :
    runMembers [m] s = .next (s.commit fr [m]) := by
  obtain ⟨h1, h2, h3, h4, h5⟩ := gate_facts h
  simp [runMembers, h1, h2, h4, Frame.anyStatic, hi, h3]

/-- A variable-latency instruction of the ALU layout, once its gate is open and some lane is active. -/
theorem runLate_gate {i : Instr} {x : Alu} {form : Form} {wide float : Bool} {f : AluFn} {s : State} {fr : Frame}
    (h : s.gate i x.slot form x.sf .user = some fr) (hon : fr.actives x.slot ≠ []) :
    runLate i x form wide float f s =
      let w := s.lateOut x wide float f fr (fr.actives x.slot)
      .next ((s.onOwn fr fun k => k.addOut w).ended fr x.slot [] (w.exc.map fun t => t.lane) []) := by
  have he : (fr.active x.slot fr.lanes).isEmpty = false := by
    simpa [Frame.actives, List.isEmpty_eq_false_iff] using hon
  have hg := runSlot_gate (g := { slot := x.slot, hi := slotHigh (encode i), form := form, once := x.sf }) (i := i) (s := s)
    (act := fun fr alive s =>
      let on := fr.active x.slot alive
      if on.isEmpty then .done s [] [] []
      else
        let w := s.lateOut x wide float f fr on
        .done (s.onPanel fr.p.id fun p => p.onSkein fr.kx fun k => k.addOut w) [] (w.exc.map fun t => t.lane) []) h rfl rfl rfl
  rw [runLate, hg]
  simp only [he, Bool.false_eq_true, if_false, State.onOwn, Frame.actives]

/-- A memory instruction, once its gate is open, when every acting lane's access is made or traps and no release waits (R217): the accesses
are made and the other lanes trap. -/
theorem runMem_gate {i : Instr} {m : Mem} {form : Form} {once : Bool} {kind : AccessKind} {reach : Frame → State → Nat → Reach}
    {waits : Frame → State → Bool} {act : Frame → List (Nat × Reach) → State → State} {s : State} {fr : Frame}
    (h : s.gate i m.slot form once .user = some fr)
    (hr : ∀ x ∈ (fr.actors m.slot once fr.lanes).map fun l => (l, reach fr s l), x.2.made = true ∨ x.2.trap?.isSome = true)
    (hw : (((fr.actors m.slot once fr.lanes).map fun l => (l, reach fr s l)).filter fun x => x.2.made) ≠ [] → waits fr s = false) :
    runMem i m form once kind reach waits act s =
      let rs := (fr.actors m.slot once fr.lanes).map fun l => (l, reach fr s l)
      .next (((act fr (rs.filter fun x => x.2.made) s).endWalks fr.p.id (some fr.kx)).ended fr m.slot [] [] (reachTraps fr once rs)) := by
  rw [runMem]
  refine (runSlot_gate (i := i) (g := { slot := m.slot, hi := slotHigh (encode i), form := form, once := once }) h rfl rfl rfl).trans ?_
  simp only
  generalize (fr.actors m.slot once fr.lanes).map (fun l => (l, reach fr s l)) = rs at hr hw
  have h1 : (rs.any fun x => x.2 == .unbacked) = false := by
    rw [List.any_eq_false]; intro x hx
    rcases x with ⟨l, r⟩
    have := hr _ hx
    cases r <;> simp [Reach.made, Reach.trap?] at this ⊢
  have h2 : rs.filterMap (fun (x : Nat × Reach) => match x.2 with
        | .miss va => some (x.1, va)
        | _ => none) = [] := by
    rw [List.filterMap_eq_nil_iff]; intro x hx
    rcases x with ⟨l, r⟩
    have := hr _ hx
    cases r <;> simp [Reach.made, Reach.trap?] at this ⊢
  have h3 : (rs.filter fun x => x.2 == .machineCheck) = [] := by
    rw [List.filter_eq_nil_iff]; intro x hx
    rcases x with ⟨l, r⟩
    have := hr _ hx
    cases r <;> simp [Reach.made, Reach.trap?] at this ⊢
  have h4 : (!(rs.filter fun x => x.2.made).isEmpty && waits fr s) = false := by
    cases hf : (rs.filter fun x => x.2.made) with
    | nil => simp
    | cons y ys => simp [hw (by rw [hf]; simp)]
  simp only [h1, Bool.false_eq_true, if_false]
  split
  · rename_i heq
    split at heq
    · rename_i hc
      exact absurd (congrArg (fun xs => !List.isEmpty xs) h2 ▸ hc) (by simp)
    · simp [h4] at heq
  · rename_i heq
    split at heq
    · rename_i hc
      exact absurd (congrArg (fun xs => !List.isEmpty xs) h2 ▸ hc) (by simp)
    · simp [h4] at heq
  · rename_i heq
    split at heq
    · rename_i hc
      exact absurd (congrArg (fun xs => !List.isEmpty xs) h2 ▸ hc) (by simp)
    · simp only [h4, Bool.false_eq_true, if_false, h3, List.map_nil, List.isEmpty_nil, if_true, Done.done.injEq] at heq
      obtain ⟨rfl, rfl, rfl, rfl⟩ := heq
      rfl

/-- A memory instruction, once its gate is open, when every acting lane's access is made and no release waits (R217). -/
theorem runMem_all {i : Instr} {m : Mem} {form : Form} {once : Bool} {kind : AccessKind} {reach : Frame → State → Nat → Reach}
    {waits : Frame → State → Bool} {act : Frame → List (Nat × Reach) → State → State} {s : State} {fr : Frame}
    (h : s.gate i m.slot form once .user = some fr)
    (hr : ∀ x ∈ (fr.actors m.slot once fr.lanes).map fun l => (l, reach fr s l), x.2.made = true)
    (hw : ((fr.actors m.slot once fr.lanes).map fun l => (l, reach fr s l)) ≠ [] → waits fr s = false) :
    runMem i m form once kind reach waits act s =
      .next (((act fr ((fr.actors m.slot once fr.lanes).map fun l => (l, reach fr s l)) s).endWalks fr.p.id (some fr.kx)).ended fr m.slot [] [] []) := by
  have hf : (((fr.actors m.slot once fr.lanes).map fun l => (l, reach fr s l)).filter fun x => x.2.made) = ((fr.actors m.slot once fr.lanes).map fun l => (l, reach fr s l)) :=
    List.filter_eq_self.2 hr
  rw [runMem_gate h (fun x hx => .inl (hr x hx)) (by rw [hf]; exact hw)]
  simp only [hf]
  congr 2
  rw [reachTraps, List.flatMap_eq_nil_iff]
  intro x hx
  have := hr x hx
  rcases x with ⟨l, r⟩
  cases r <;> simp_all [Reach.made, Reach.trap?]

end Sys2Proof.Machine
end

