-- ==== Sys2Proof/Laws/State.lean ====
section
/-!
SUPPORT. Sys2Proof/Laws/State.lean: what each named update of the state leaves of every field, one lemma a field, so that no proof has to
unfold a record update.
-/
namespace Sys2Proof.Machine

/-! ## One die -/

@[simp] theorem State.onDie_time (s : State) (d : Nat) (f : Die → Die) : (s.onDie d f).time = s.time := rfl
@[simp] theorem State.onDie_boot (s : State) (d : Nat) (f : Die → Die) : (s.onDie d f).boot = s.boot := rfl
@[simp] theorem State.onDie_interleave (s : State) (d : Nat) (f : Die → Die) : (s.onDie d f).interleave = s.interleave := rfl
@[simp] theorem State.onDie_hypEntry (s : State) (d : Nat) (f : Die → Die) : (s.onDie d f).hypEntry = s.hypEntry := rfl
@[simp] theorem State.onDie_hypConst (s : State) (d : Nat) (f : Die → Die) : (s.onDie d f).hypConst = s.hypConst := rfl
@[simp] theorem State.onDie_platformSum (s : State) (d : Nat) (f : Die → Die) : (s.onDie d f).platformSum = s.platformSum := rfl
@[simp] theorem State.onDie_hypSum (s : State) (d : Nat) (f : Die → Die) : (s.onDie d f).hypSum = s.hypSum := rfl
@[simp] theorem State.onDie_device (s : State) (d : Nat) (f : Die → Die) : (s.onDie d f).device = s.device := rfl
@[simp] theorem State.onDie_routes (s : State) (d : Nat) (f : Die → Die) : (s.onDie d f).routes = s.routes := rfl
@[simp] theorem State.onDie_fns (s : State) (d : Nat) (f : Die → Die) : (s.onDie d f).fns = s.fns := rfl
@[simp] theorem State.onDie_panels (s : State) (d : Nat) (f : Die → Die) : (s.onDie d f).panels = s.panels := rfl
@[simp] theorem State.onDie_cores (s : State) (d : Nat) (f : Die → Die) : (s.onDie d f).cores = s.cores := rfl
@[simp] theorem State.onDie_clusters (s : State) (d : Nat) (f : Die → Die) : (s.onDie d f).clusters = s.clusters := rfl
@[simp] theorem State.onDie_pool (s : State) (d : Nat) (f : Die → Die) : (s.onDie d f).pool = s.pool := rfl
@[simp] theorem State.onDie_mem (s : State) (d : Nat) (f : Die → Die) : (s.onDie d f).mem = s.mem := rfl
@[simp] theorem State.onDie_hbm (s : State) (d : Nat) (f : Die → Die) : (s.onDie d f).hbm = s.hbm := rfl
@[simp] theorem State.onDie_copies (s : State) (d : Nat) (f : Die → Die) : (s.onDie d f).copies = s.copies := rfl
@[simp] theorem State.onDie_code (s : State) (d : Nat) (f : Die → Die) : (s.onDie d f).code = s.code := rfl
@[simp] theorem State.onDie_tlbs (s : State) (d : Nat) (f : Die → Die) : (s.onDie d f).tlbs = s.tlbs := rfl
@[simp] theorem State.onDie_walkCopies (s : State) (d : Nat) (f : Die → Die) : (s.onDie d f).walkCopies = s.walkCopies := rfl
@[simp] theorem State.onDie_walks (s : State) (d : Nat) (f : Die → Die) : (s.onDie d f).walks = s.walks := rfl
@[simp] theorem State.onDie_inflight (s : State) (d : Nat) (f : Die → Die) : (s.onDie d f).inflight = s.inflight := rfl
@[simp] theorem State.onDie_atoms (s : State) (d : Nat) (f : Die → Die) : (s.onDie d f).atoms = s.atoms := rfl
@[simp] theorem State.onDie_writeBacks (s : State) (d : Nat) (f : Die → Die) : (s.onDie d f).writeBacks = s.writeBacks := rfl
@[simp] theorem State.onDie_swTags (s : State) (d : Nat) (f : Die → Die) : (s.onDie d f).swTags = s.swTags := rfl
@[simp] theorem State.onDie_swStamps (s : State) (d : Nat) (f : Die → Die) : (s.onDie d f).swStamps = s.swStamps := rfl
@[simp] theorem State.onDie_swQueues (s : State) (d : Nat) (f : Die → Die) : (s.onDie d f).swQueues = s.swQueues := rfl
@[simp] theorem State.onDie_swSince (s : State) (d : Nat) (f : Die → Die) : (s.onDie d f).swSince = s.swSince := rfl
@[simp] theorem State.onDie_swWalks (s : State) (d : Nat) (f : Die → Die) : (s.onDie d f).swWalks = s.swWalks := rfl
@[simp] theorem State.onDie_rings (s : State) (d : Nat) (f : Die → Die) : (s.onDie d f).rings = s.rings := rfl
@[simp] theorem State.onDie_copyOps (s : State) (d : Nat) (f : Die → Die) : (s.onDie d f).copyOps = s.copyOps := rfl
@[simp] theorem State.onDie_xfms (s : State) (d : Nat) (f : Die → Die) : (s.onDie d f).xfms = s.xfms := rfl
@[simp] theorem State.onDie_mats (s : State) (d : Nat) (f : Die → Die) : (s.onDie d f).mats = s.mats := rfl
@[simp] theorem State.onDie_rastSubs (s : State) (d : Nat) (f : Die → Die) : (s.onDie d f).rastSubs = s.rastSubs := rfl
@[simp] theorem State.onDie_rastOrders (s : State) (d : Nat) (f : Die → Die) : (s.onDie d f).rastOrders = s.rastOrders := rfl
@[simp] theorem State.onDie_rays (s : State) (d : Nat) (f : Die → Die) : (s.onDie d f).rays = s.rays := rfl
@[simp] theorem State.onDie_colls (s : State) (d : Nat) (f : Die → Die) : (s.onDie d f).colls = s.colls := rfl
@[simp] theorem State.onDie_tripped (s : State) (d : Nat) (f : Die → Die) : (s.onDie d f).tripped = s.tripped := rfl
@[simp] theorem State.onDie_bad (s : State) (d : Nat) (f : Die → Die) : (s.onDie d f).bad = s.bad := rfl
@[simp] theorem State.onDie_focus (s : State) (d : Nat) (f : Die → Die) : (s.onDie d f).focus = s.focus := rfl
@[simp] theorem State.onDie_used (s : State) (d : Nat) (f : Die → Die) : (s.onDie d f).used = s.used := rfl
@[simp] theorem State.onDie_made (s : State) (d : Nat) (f : Die → Die) : (s.onDie d f).made = s.made := rfl
@[simp] theorem State.onDie_inputs (s : State) (d : Nat) (f : Die → Die) : (s.onDie d f).inputs = s.inputs := rfl
@[simp] theorem State.onDie_free (s : State) (d : Nat) (f : Die → Die) : (s.onDie d f).free = s.free := rfl
@[simp] theorem State.onDie_nextId (s : State) (d : Nat) (f : Die → Die) : (s.onDie d f).nextId = s.nextId := rfl

/-! ## One function -/

@[simp] theorem State.onFunc_time (s : State) (n : Nat) (f : Func → Func) : (s.onFunc n f).time = s.time := rfl
@[simp] theorem State.onFunc_dies (s : State) (n : Nat) (f : Func → Func) : (s.onFunc n f).dies = s.dies := rfl
@[simp] theorem State.onFunc_boot (s : State) (n : Nat) (f : Func → Func) : (s.onFunc n f).boot = s.boot := rfl
@[simp] theorem State.onFunc_interleave (s : State) (n : Nat) (f : Func → Func) : (s.onFunc n f).interleave = s.interleave := rfl
@[simp] theorem State.onFunc_hypEntry (s : State) (n : Nat) (f : Func → Func) : (s.onFunc n f).hypEntry = s.hypEntry := rfl
@[simp] theorem State.onFunc_hypConst (s : State) (n : Nat) (f : Func → Func) : (s.onFunc n f).hypConst = s.hypConst := rfl
@[simp] theorem State.onFunc_platformSum (s : State) (n : Nat) (f : Func → Func) : (s.onFunc n f).platformSum = s.platformSum := rfl
@[simp] theorem State.onFunc_hypSum (s : State) (n : Nat) (f : Func → Func) : (s.onFunc n f).hypSum = s.hypSum := rfl
@[simp] theorem State.onFunc_device (s : State) (n : Nat) (f : Func → Func) : (s.onFunc n f).device = s.device := rfl
@[simp] theorem State.onFunc_routes (s : State) (n : Nat) (f : Func → Func) : (s.onFunc n f).routes = s.routes := rfl
@[simp] theorem State.onFunc_panels (s : State) (n : Nat) (f : Func → Func) : (s.onFunc n f).panels = s.panels := rfl
@[simp] theorem State.onFunc_cores (s : State) (n : Nat) (f : Func → Func) : (s.onFunc n f).cores = s.cores := rfl
@[simp] theorem State.onFunc_clusters (s : State) (n : Nat) (f : Func → Func) : (s.onFunc n f).clusters = s.clusters := rfl
@[simp] theorem State.onFunc_pool (s : State) (n : Nat) (f : Func → Func) : (s.onFunc n f).pool = s.pool := rfl
@[simp] theorem State.onFunc_mem (s : State) (n : Nat) (f : Func → Func) : (s.onFunc n f).mem = s.mem := rfl
@[simp] theorem State.onFunc_hbm (s : State) (n : Nat) (f : Func → Func) : (s.onFunc n f).hbm = s.hbm := rfl
@[simp] theorem State.onFunc_copies (s : State) (n : Nat) (f : Func → Func) : (s.onFunc n f).copies = s.copies := rfl
@[simp] theorem State.onFunc_code (s : State) (n : Nat) (f : Func → Func) : (s.onFunc n f).code = s.code := rfl
@[simp] theorem State.onFunc_tlbs (s : State) (n : Nat) (f : Func → Func) : (s.onFunc n f).tlbs = s.tlbs := rfl
@[simp] theorem State.onFunc_walkCopies (s : State) (n : Nat) (f : Func → Func) : (s.onFunc n f).walkCopies = s.walkCopies := rfl
@[simp] theorem State.onFunc_walks (s : State) (n : Nat) (f : Func → Func) : (s.onFunc n f).walks = s.walks := rfl
@[simp] theorem State.onFunc_inflight (s : State) (n : Nat) (f : Func → Func) : (s.onFunc n f).inflight = s.inflight := rfl
@[simp] theorem State.onFunc_atoms (s : State) (n : Nat) (f : Func → Func) : (s.onFunc n f).atoms = s.atoms := rfl
@[simp] theorem State.onFunc_writeBacks (s : State) (n : Nat) (f : Func → Func) : (s.onFunc n f).writeBacks = s.writeBacks := rfl
@[simp] theorem State.onFunc_swTags (s : State) (n : Nat) (f : Func → Func) : (s.onFunc n f).swTags = s.swTags := rfl
@[simp] theorem State.onFunc_swStamps (s : State) (n : Nat) (f : Func → Func) : (s.onFunc n f).swStamps = s.swStamps := rfl
@[simp] theorem State.onFunc_swQueues (s : State) (n : Nat) (f : Func → Func) : (s.onFunc n f).swQueues = s.swQueues := rfl
@[simp] theorem State.onFunc_swSince (s : State) (n : Nat) (f : Func → Func) : (s.onFunc n f).swSince = s.swSince := rfl
@[simp] theorem State.onFunc_swWalks (s : State) (n : Nat) (f : Func → Func) : (s.onFunc n f).swWalks = s.swWalks := rfl
@[simp] theorem State.onFunc_rings (s : State) (n : Nat) (f : Func → Func) : (s.onFunc n f).rings = s.rings := rfl
@[simp] theorem State.onFunc_copyOps (s : State) (n : Nat) (f : Func → Func) : (s.onFunc n f).copyOps = s.copyOps := rfl
@[simp] theorem State.onFunc_xfms (s : State) (n : Nat) (f : Func → Func) : (s.onFunc n f).xfms = s.xfms := rfl
@[simp] theorem State.onFunc_mats (s : State) (n : Nat) (f : Func → Func) : (s.onFunc n f).mats = s.mats := rfl
@[simp] theorem State.onFunc_rastSubs (s : State) (n : Nat) (f : Func → Func) : (s.onFunc n f).rastSubs = s.rastSubs := rfl
@[simp] theorem State.onFunc_rastOrders (s : State) (n : Nat) (f : Func → Func) : (s.onFunc n f).rastOrders = s.rastOrders := rfl
@[simp] theorem State.onFunc_rays (s : State) (n : Nat) (f : Func → Func) : (s.onFunc n f).rays = s.rays := rfl
@[simp] theorem State.onFunc_colls (s : State) (n : Nat) (f : Func → Func) : (s.onFunc n f).colls = s.colls := rfl
@[simp] theorem State.onFunc_tripped (s : State) (n : Nat) (f : Func → Func) : (s.onFunc n f).tripped = s.tripped := rfl
@[simp] theorem State.onFunc_bad (s : State) (n : Nat) (f : Func → Func) : (s.onFunc n f).bad = s.bad := rfl
@[simp] theorem State.onFunc_focus (s : State) (n : Nat) (f : Func → Func) : (s.onFunc n f).focus = s.focus := rfl
@[simp] theorem State.onFunc_used (s : State) (n : Nat) (f : Func → Func) : (s.onFunc n f).used = s.used := rfl
@[simp] theorem State.onFunc_made (s : State) (n : Nat) (f : Func → Func) : (s.onFunc n f).made = s.made := rfl
@[simp] theorem State.onFunc_inputs (s : State) (n : Nat) (f : Func → Func) : (s.onFunc n f).inputs = s.inputs := rfl
@[simp] theorem State.onFunc_free (s : State) (n : Nat) (f : Func → Func) : (s.onFunc n f).free = s.free := rfl
@[simp] theorem State.onFunc_nextId (s : State) (n : Nat) (f : Func → Func) : (s.onFunc n f).nextId = s.nextId := rfl

/-! ## One panel replaced -/

@[simp] theorem State.setPanel_time (s : State) (p : Panel) : (s.setPanel p).time = s.time := rfl
@[simp] theorem State.setPanel_dies (s : State) (p : Panel) : (s.setPanel p).dies = s.dies := rfl
@[simp] theorem State.setPanel_boot (s : State) (p : Panel) : (s.setPanel p).boot = s.boot := rfl
@[simp] theorem State.setPanel_interleave (s : State) (p : Panel) : (s.setPanel p).interleave = s.interleave := rfl
@[simp] theorem State.setPanel_hypEntry (s : State) (p : Panel) : (s.setPanel p).hypEntry = s.hypEntry := rfl
@[simp] theorem State.setPanel_hypConst (s : State) (p : Panel) : (s.setPanel p).hypConst = s.hypConst := rfl
@[simp] theorem State.setPanel_platformSum (s : State) (p : Panel) : (s.setPanel p).platformSum = s.platformSum := rfl
@[simp] theorem State.setPanel_hypSum (s : State) (p : Panel) : (s.setPanel p).hypSum = s.hypSum := rfl
@[simp] theorem State.setPanel_device (s : State) (p : Panel) : (s.setPanel p).device = s.device := rfl
@[simp] theorem State.setPanel_routes (s : State) (p : Panel) : (s.setPanel p).routes = s.routes := rfl
@[simp] theorem State.setPanel_fns (s : State) (p : Panel) : (s.setPanel p).fns = s.fns := rfl
@[simp] theorem State.setPanel_cores (s : State) (p : Panel) : (s.setPanel p).cores = s.cores := rfl
@[simp] theorem State.setPanel_clusters (s : State) (p : Panel) : (s.setPanel p).clusters = s.clusters := rfl
@[simp] theorem State.setPanel_pool (s : State) (p : Panel) : (s.setPanel p).pool = s.pool := rfl
@[simp] theorem State.setPanel_mem (s : State) (p : Panel) : (s.setPanel p).mem = s.mem := rfl
@[simp] theorem State.setPanel_hbm (s : State) (p : Panel) : (s.setPanel p).hbm = s.hbm := rfl
@[simp] theorem State.setPanel_copies (s : State) (p : Panel) : (s.setPanel p).copies = s.copies := rfl
@[simp] theorem State.setPanel_code (s : State) (p : Panel) : (s.setPanel p).code = s.code := rfl
@[simp] theorem State.setPanel_tlbs (s : State) (p : Panel) : (s.setPanel p).tlbs = s.tlbs := rfl
@[simp] theorem State.setPanel_walkCopies (s : State) (p : Panel) : (s.setPanel p).walkCopies = s.walkCopies := rfl
@[simp] theorem State.setPanel_walks (s : State) (p : Panel) : (s.setPanel p).walks = s.walks := rfl
@[simp] theorem State.setPanel_inflight (s : State) (p : Panel) : (s.setPanel p).inflight = s.inflight := rfl
@[simp] theorem State.setPanel_atoms (s : State) (p : Panel) : (s.setPanel p).atoms = s.atoms := rfl
@[simp] theorem State.setPanel_writeBacks (s : State) (p : Panel) : (s.setPanel p).writeBacks = s.writeBacks := rfl
@[simp] theorem State.setPanel_swTags (s : State) (p : Panel) : (s.setPanel p).swTags = s.swTags := rfl
@[simp] theorem State.setPanel_swStamps (s : State) (p : Panel) : (s.setPanel p).swStamps = s.swStamps := rfl
@[simp] theorem State.setPanel_swQueues (s : State) (p : Panel) : (s.setPanel p).swQueues = s.swQueues := rfl
@[simp] theorem State.setPanel_swSince (s : State) (p : Panel) : (s.setPanel p).swSince = s.swSince := rfl
@[simp] theorem State.setPanel_swWalks (s : State) (p : Panel) : (s.setPanel p).swWalks = s.swWalks := rfl
@[simp] theorem State.setPanel_rings (s : State) (p : Panel) : (s.setPanel p).rings = s.rings := rfl
@[simp] theorem State.setPanel_copyOps (s : State) (p : Panel) : (s.setPanel p).copyOps = s.copyOps := rfl
@[simp] theorem State.setPanel_xfms (s : State) (p : Panel) : (s.setPanel p).xfms = s.xfms := rfl
@[simp] theorem State.setPanel_mats (s : State) (p : Panel) : (s.setPanel p).mats = s.mats := rfl
@[simp] theorem State.setPanel_rastSubs (s : State) (p : Panel) : (s.setPanel p).rastSubs = s.rastSubs := rfl
@[simp] theorem State.setPanel_rastOrders (s : State) (p : Panel) : (s.setPanel p).rastOrders = s.rastOrders := rfl
@[simp] theorem State.setPanel_rays (s : State) (p : Panel) : (s.setPanel p).rays = s.rays := rfl
@[simp] theorem State.setPanel_colls (s : State) (p : Panel) : (s.setPanel p).colls = s.colls := rfl
@[simp] theorem State.setPanel_tripped (s : State) (p : Panel) : (s.setPanel p).tripped = s.tripped := rfl
@[simp] theorem State.setPanel_bad (s : State) (p : Panel) : (s.setPanel p).bad = s.bad := rfl
@[simp] theorem State.setPanel_focus (s : State) (p : Panel) : (s.setPanel p).focus = s.focus := rfl
@[simp] theorem State.setPanel_used (s : State) (p : Panel) : (s.setPanel p).used = s.used := rfl
@[simp] theorem State.setPanel_made (s : State) (p : Panel) : (s.setPanel p).made = s.made := rfl
@[simp] theorem State.setPanel_inputs (s : State) (p : Panel) : (s.setPanel p).inputs = s.inputs := rfl
@[simp] theorem State.setPanel_free (s : State) (p : Panel) : (s.setPanel p).free = s.free := rfl
@[simp] theorem State.setPanel_nextId (s : State) (p : Panel) : (s.setPanel p).nextId = s.nextId := rfl

/-! ## One panel -/

@[simp] theorem State.onPanel_time (s : State) (id : Nat) (f : Panel → Panel) : (s.onPanel id f).time = s.time := rfl
@[simp] theorem State.onPanel_dies (s : State) (id : Nat) (f : Panel → Panel) : (s.onPanel id f).dies = s.dies := rfl
@[simp] theorem State.onPanel_boot (s : State) (id : Nat) (f : Panel → Panel) : (s.onPanel id f).boot = s.boot := rfl
@[simp] theorem State.onPanel_interleave (s : State) (id : Nat) (f : Panel → Panel) : (s.onPanel id f).interleave = s.interleave := rfl
@[simp] theorem State.onPanel_hypEntry (s : State) (id : Nat) (f : Panel → Panel) : (s.onPanel id f).hypEntry = s.hypEntry := rfl
@[simp] theorem State.onPanel_hypConst (s : State) (id : Nat) (f : Panel → Panel) : (s.onPanel id f).hypConst = s.hypConst := rfl
@[simp] theorem State.onPanel_platformSum (s : State) (id : Nat) (f : Panel → Panel) : (s.onPanel id f).platformSum = s.platformSum := rfl
@[simp] theorem State.onPanel_hypSum (s : State) (id : Nat) (f : Panel → Panel) : (s.onPanel id f).hypSum = s.hypSum := rfl
@[simp] theorem State.onPanel_device (s : State) (id : Nat) (f : Panel → Panel) : (s.onPanel id f).device = s.device := rfl
@[simp] theorem State.onPanel_routes (s : State) (id : Nat) (f : Panel → Panel) : (s.onPanel id f).routes = s.routes := rfl
@[simp] theorem State.onPanel_fns (s : State) (id : Nat) (f : Panel → Panel) : (s.onPanel id f).fns = s.fns := rfl
@[simp] theorem State.onPanel_cores (s : State) (id : Nat) (f : Panel → Panel) : (s.onPanel id f).cores = s.cores := rfl
@[simp] theorem State.onPanel_clusters (s : State) (id : Nat) (f : Panel → Panel) : (s.onPanel id f).clusters = s.clusters := rfl
@[simp] theorem State.onPanel_pool (s : State) (id : Nat) (f : Panel → Panel) : (s.onPanel id f).pool = s.pool := rfl
@[simp] theorem State.onPanel_mem (s : State) (id : Nat) (f : Panel → Panel) : (s.onPanel id f).mem = s.mem := rfl
@[simp] theorem State.onPanel_hbm (s : State) (id : Nat) (f : Panel → Panel) : (s.onPanel id f).hbm = s.hbm := rfl
@[simp] theorem State.onPanel_copies (s : State) (id : Nat) (f : Panel → Panel) : (s.onPanel id f).copies = s.copies := rfl
@[simp] theorem State.onPanel_code (s : State) (id : Nat) (f : Panel → Panel) : (s.onPanel id f).code = s.code := rfl
@[simp] theorem State.onPanel_tlbs (s : State) (id : Nat) (f : Panel → Panel) : (s.onPanel id f).tlbs = s.tlbs := rfl
@[simp] theorem State.onPanel_walkCopies (s : State) (id : Nat) (f : Panel → Panel) : (s.onPanel id f).walkCopies = s.walkCopies := rfl
@[simp] theorem State.onPanel_walks (s : State) (id : Nat) (f : Panel → Panel) : (s.onPanel id f).walks = s.walks := rfl
@[simp] theorem State.onPanel_inflight (s : State) (id : Nat) (f : Panel → Panel) : (s.onPanel id f).inflight = s.inflight := rfl
@[simp] theorem State.onPanel_atoms (s : State) (id : Nat) (f : Panel → Panel) : (s.onPanel id f).atoms = s.atoms := rfl
@[simp] theorem State.onPanel_writeBacks (s : State) (id : Nat) (f : Panel → Panel) : (s.onPanel id f).writeBacks = s.writeBacks := rfl
@[simp] theorem State.onPanel_swTags (s : State) (id : Nat) (f : Panel → Panel) : (s.onPanel id f).swTags = s.swTags := rfl
@[simp] theorem State.onPanel_swStamps (s : State) (id : Nat) (f : Panel → Panel) : (s.onPanel id f).swStamps = s.swStamps := rfl
@[simp] theorem State.onPanel_swQueues (s : State) (id : Nat) (f : Panel → Panel) : (s.onPanel id f).swQueues = s.swQueues := rfl
@[simp] theorem State.onPanel_swSince (s : State) (id : Nat) (f : Panel → Panel) : (s.onPanel id f).swSince = s.swSince := rfl
@[simp] theorem State.onPanel_swWalks (s : State) (id : Nat) (f : Panel → Panel) : (s.onPanel id f).swWalks = s.swWalks := rfl
@[simp] theorem State.onPanel_rings (s : State) (id : Nat) (f : Panel → Panel) : (s.onPanel id f).rings = s.rings := rfl
@[simp] theorem State.onPanel_copyOps (s : State) (id : Nat) (f : Panel → Panel) : (s.onPanel id f).copyOps = s.copyOps := rfl
@[simp] theorem State.onPanel_xfms (s : State) (id : Nat) (f : Panel → Panel) : (s.onPanel id f).xfms = s.xfms := rfl
@[simp] theorem State.onPanel_mats (s : State) (id : Nat) (f : Panel → Panel) : (s.onPanel id f).mats = s.mats := rfl
@[simp] theorem State.onPanel_rastSubs (s : State) (id : Nat) (f : Panel → Panel) : (s.onPanel id f).rastSubs = s.rastSubs := rfl
@[simp] theorem State.onPanel_rastOrders (s : State) (id : Nat) (f : Panel → Panel) : (s.onPanel id f).rastOrders = s.rastOrders := rfl
@[simp] theorem State.onPanel_rays (s : State) (id : Nat) (f : Panel → Panel) : (s.onPanel id f).rays = s.rays := rfl
@[simp] theorem State.onPanel_colls (s : State) (id : Nat) (f : Panel → Panel) : (s.onPanel id f).colls = s.colls := rfl
@[simp] theorem State.onPanel_tripped (s : State) (id : Nat) (f : Panel → Panel) : (s.onPanel id f).tripped = s.tripped := rfl
@[simp] theorem State.onPanel_bad (s : State) (id : Nat) (f : Panel → Panel) : (s.onPanel id f).bad = s.bad := rfl
@[simp] theorem State.onPanel_focus (s : State) (id : Nat) (f : Panel → Panel) : (s.onPanel id f).focus = s.focus := rfl
@[simp] theorem State.onPanel_used (s : State) (id : Nat) (f : Panel → Panel) : (s.onPanel id f).used = s.used := rfl
@[simp] theorem State.onPanel_made (s : State) (id : Nat) (f : Panel → Panel) : (s.onPanel id f).made = s.made := rfl
@[simp] theorem State.onPanel_inputs (s : State) (id : Nat) (f : Panel → Panel) : (s.onPanel id f).inputs = s.inputs := rfl
@[simp] theorem State.onPanel_free (s : State) (id : Nat) (f : Panel → Panel) : (s.onPanel id f).free = s.free := rfl
@[simp] theorem State.onPanel_nextId (s : State) (id : Nat) (f : Panel → Panel) : (s.onPanel id f).nextId = s.nextId := rfl

/-! ## The event's skein -/

@[simp] theorem State.onOwn_time (s : State) (fr : Frame) (f : Skein → Skein) : (s.onOwn fr f).time = s.time := rfl
@[simp] theorem State.onOwn_dies (s : State) (fr : Frame) (f : Skein → Skein) : (s.onOwn fr f).dies = s.dies := rfl
@[simp] theorem State.onOwn_boot (s : State) (fr : Frame) (f : Skein → Skein) : (s.onOwn fr f).boot = s.boot := rfl
@[simp] theorem State.onOwn_interleave (s : State) (fr : Frame) (f : Skein → Skein) : (s.onOwn fr f).interleave = s.interleave := rfl
@[simp] theorem State.onOwn_hypEntry (s : State) (fr : Frame) (f : Skein → Skein) : (s.onOwn fr f).hypEntry = s.hypEntry := rfl
@[simp] theorem State.onOwn_hypConst (s : State) (fr : Frame) (f : Skein → Skein) : (s.onOwn fr f).hypConst = s.hypConst := rfl
@[simp] theorem State.onOwn_platformSum (s : State) (fr : Frame) (f : Skein → Skein) : (s.onOwn fr f).platformSum = s.platformSum := rfl
@[simp] theorem State.onOwn_hypSum (s : State) (fr : Frame) (f : Skein → Skein) : (s.onOwn fr f).hypSum = s.hypSum := rfl
@[simp] theorem State.onOwn_device (s : State) (fr : Frame) (f : Skein → Skein) : (s.onOwn fr f).device = s.device := rfl
@[simp] theorem State.onOwn_routes (s : State) (fr : Frame) (f : Skein → Skein) : (s.onOwn fr f).routes = s.routes := rfl
@[simp] theorem State.onOwn_fns (s : State) (fr : Frame) (f : Skein → Skein) : (s.onOwn fr f).fns = s.fns := rfl
@[simp] theorem State.onOwn_cores (s : State) (fr : Frame) (f : Skein → Skein) : (s.onOwn fr f).cores = s.cores := rfl
@[simp] theorem State.onOwn_clusters (s : State) (fr : Frame) (f : Skein → Skein) : (s.onOwn fr f).clusters = s.clusters := rfl
@[simp] theorem State.onOwn_pool (s : State) (fr : Frame) (f : Skein → Skein) : (s.onOwn fr f).pool = s.pool := rfl
@[simp] theorem State.onOwn_mem (s : State) (fr : Frame) (f : Skein → Skein) : (s.onOwn fr f).mem = s.mem := rfl
@[simp] theorem State.onOwn_hbm (s : State) (fr : Frame) (f : Skein → Skein) : (s.onOwn fr f).hbm = s.hbm := rfl
@[simp] theorem State.onOwn_copies (s : State) (fr : Frame) (f : Skein → Skein) : (s.onOwn fr f).copies = s.copies := rfl
@[simp] theorem State.onOwn_code (s : State) (fr : Frame) (f : Skein → Skein) : (s.onOwn fr f).code = s.code := rfl
@[simp] theorem State.onOwn_tlbs (s : State) (fr : Frame) (f : Skein → Skein) : (s.onOwn fr f).tlbs = s.tlbs := rfl
@[simp] theorem State.onOwn_walkCopies (s : State) (fr : Frame) (f : Skein → Skein) : (s.onOwn fr f).walkCopies = s.walkCopies := rfl
@[simp] theorem State.onOwn_walks (s : State) (fr : Frame) (f : Skein → Skein) : (s.onOwn fr f).walks = s.walks := rfl
@[simp] theorem State.onOwn_inflight (s : State) (fr : Frame) (f : Skein → Skein) : (s.onOwn fr f).inflight = s.inflight := rfl
@[simp] theorem State.onOwn_atoms (s : State) (fr : Frame) (f : Skein → Skein) : (s.onOwn fr f).atoms = s.atoms := rfl
@[simp] theorem State.onOwn_writeBacks (s : State) (fr : Frame) (f : Skein → Skein) : (s.onOwn fr f).writeBacks = s.writeBacks := rfl
@[simp] theorem State.onOwn_swTags (s : State) (fr : Frame) (f : Skein → Skein) : (s.onOwn fr f).swTags = s.swTags := rfl
@[simp] theorem State.onOwn_swStamps (s : State) (fr : Frame) (f : Skein → Skein) : (s.onOwn fr f).swStamps = s.swStamps := rfl
@[simp] theorem State.onOwn_swQueues (s : State) (fr : Frame) (f : Skein → Skein) : (s.onOwn fr f).swQueues = s.swQueues := rfl
@[simp] theorem State.onOwn_swSince (s : State) (fr : Frame) (f : Skein → Skein) : (s.onOwn fr f).swSince = s.swSince := rfl
@[simp] theorem State.onOwn_swWalks (s : State) (fr : Frame) (f : Skein → Skein) : (s.onOwn fr f).swWalks = s.swWalks := rfl
@[simp] theorem State.onOwn_rings (s : State) (fr : Frame) (f : Skein → Skein) : (s.onOwn fr f).rings = s.rings := rfl
@[simp] theorem State.onOwn_copyOps (s : State) (fr : Frame) (f : Skein → Skein) : (s.onOwn fr f).copyOps = s.copyOps := rfl
@[simp] theorem State.onOwn_xfms (s : State) (fr : Frame) (f : Skein → Skein) : (s.onOwn fr f).xfms = s.xfms := rfl
@[simp] theorem State.onOwn_mats (s : State) (fr : Frame) (f : Skein → Skein) : (s.onOwn fr f).mats = s.mats := rfl
@[simp] theorem State.onOwn_rastSubs (s : State) (fr : Frame) (f : Skein → Skein) : (s.onOwn fr f).rastSubs = s.rastSubs := rfl
@[simp] theorem State.onOwn_rastOrders (s : State) (fr : Frame) (f : Skein → Skein) : (s.onOwn fr f).rastOrders = s.rastOrders := rfl
@[simp] theorem State.onOwn_rays (s : State) (fr : Frame) (f : Skein → Skein) : (s.onOwn fr f).rays = s.rays := rfl
@[simp] theorem State.onOwn_colls (s : State) (fr : Frame) (f : Skein → Skein) : (s.onOwn fr f).colls = s.colls := rfl
@[simp] theorem State.onOwn_tripped (s : State) (fr : Frame) (f : Skein → Skein) : (s.onOwn fr f).tripped = s.tripped := rfl
@[simp] theorem State.onOwn_bad (s : State) (fr : Frame) (f : Skein → Skein) : (s.onOwn fr f).bad = s.bad := rfl
@[simp] theorem State.onOwn_focus (s : State) (fr : Frame) (f : Skein → Skein) : (s.onOwn fr f).focus = s.focus := rfl
@[simp] theorem State.onOwn_used (s : State) (fr : Frame) (f : Skein → Skein) : (s.onOwn fr f).used = s.used := rfl
@[simp] theorem State.onOwn_made (s : State) (fr : Frame) (f : Skein → Skein) : (s.onOwn fr f).made = s.made := rfl
@[simp] theorem State.onOwn_inputs (s : State) (fr : Frame) (f : Skein → Skein) : (s.onOwn fr f).inputs = s.inputs := rfl
@[simp] theorem State.onOwn_free (s : State) (fr : Frame) (f : Skein → Skein) : (s.onOwn fr f).free = s.free := rfl
@[simp] theorem State.onOwn_nextId (s : State) (fr : Frame) (f : Skein → Skein) : (s.onOwn fr f).nextId = s.nextId := rfl

/-! ## A write left outstanding -/

@[simp] theorem State.addWrite_time (s : State) (fr : Frame) (w : VarWrite) : (s.addWrite fr w).time = s.time := by unfold State.addWrite; split <;> rfl
@[simp] theorem State.addWrite_dies (s : State) (fr : Frame) (w : VarWrite) : (s.addWrite fr w).dies = s.dies := by unfold State.addWrite; split <;> rfl
@[simp] theorem State.addWrite_boot (s : State) (fr : Frame) (w : VarWrite) : (s.addWrite fr w).boot = s.boot := by unfold State.addWrite; split <;> rfl
@[simp] theorem State.addWrite_interleave (s : State) (fr : Frame) (w : VarWrite) : (s.addWrite fr w).interleave = s.interleave := by unfold State.addWrite; split <;> rfl
@[simp] theorem State.addWrite_hypEntry (s : State) (fr : Frame) (w : VarWrite) : (s.addWrite fr w).hypEntry = s.hypEntry := by unfold State.addWrite; split <;> rfl
@[simp] theorem State.addWrite_hypConst (s : State) (fr : Frame) (w : VarWrite) : (s.addWrite fr w).hypConst = s.hypConst := by unfold State.addWrite; split <;> rfl
@[simp] theorem State.addWrite_platformSum (s : State) (fr : Frame) (w : VarWrite) : (s.addWrite fr w).platformSum = s.platformSum := by unfold State.addWrite; split <;> rfl
@[simp] theorem State.addWrite_hypSum (s : State) (fr : Frame) (w : VarWrite) : (s.addWrite fr w).hypSum = s.hypSum := by unfold State.addWrite; split <;> rfl
@[simp] theorem State.addWrite_device (s : State) (fr : Frame) (w : VarWrite) : (s.addWrite fr w).device = s.device := by unfold State.addWrite; split <;> rfl
@[simp] theorem State.addWrite_routes (s : State) (fr : Frame) (w : VarWrite) : (s.addWrite fr w).routes = s.routes := by unfold State.addWrite; split <;> rfl
@[simp] theorem State.addWrite_fns (s : State) (fr : Frame) (w : VarWrite) : (s.addWrite fr w).fns = s.fns := by unfold State.addWrite; split <;> rfl
@[simp] theorem State.addWrite_cores (s : State) (fr : Frame) (w : VarWrite) : (s.addWrite fr w).cores = s.cores := by unfold State.addWrite; split <;> rfl
@[simp] theorem State.addWrite_clusters (s : State) (fr : Frame) (w : VarWrite) : (s.addWrite fr w).clusters = s.clusters := by unfold State.addWrite; split <;> rfl
@[simp] theorem State.addWrite_pool (s : State) (fr : Frame) (w : VarWrite) : (s.addWrite fr w).pool = s.pool := by unfold State.addWrite; split <;> rfl
@[simp] theorem State.addWrite_mem (s : State) (fr : Frame) (w : VarWrite) : (s.addWrite fr w).mem = s.mem := by unfold State.addWrite; split <;> rfl
@[simp] theorem State.addWrite_hbm (s : State) (fr : Frame) (w : VarWrite) : (s.addWrite fr w).hbm = s.hbm := by unfold State.addWrite; split <;> rfl
@[simp] theorem State.addWrite_copies (s : State) (fr : Frame) (w : VarWrite) : (s.addWrite fr w).copies = s.copies := by unfold State.addWrite; split <;> rfl
@[simp] theorem State.addWrite_code (s : State) (fr : Frame) (w : VarWrite) : (s.addWrite fr w).code = s.code := by unfold State.addWrite; split <;> rfl
@[simp] theorem State.addWrite_tlbs (s : State) (fr : Frame) (w : VarWrite) : (s.addWrite fr w).tlbs = s.tlbs := by unfold State.addWrite; split <;> rfl
@[simp] theorem State.addWrite_walkCopies (s : State) (fr : Frame) (w : VarWrite) : (s.addWrite fr w).walkCopies = s.walkCopies := by unfold State.addWrite; split <;> rfl
@[simp] theorem State.addWrite_walks (s : State) (fr : Frame) (w : VarWrite) : (s.addWrite fr w).walks = s.walks := by unfold State.addWrite; split <;> rfl
@[simp] theorem State.addWrite_inflight (s : State) (fr : Frame) (w : VarWrite) : (s.addWrite fr w).inflight = s.inflight := by unfold State.addWrite; split <;> rfl
@[simp] theorem State.addWrite_atoms (s : State) (fr : Frame) (w : VarWrite) : (s.addWrite fr w).atoms = s.atoms := by unfold State.addWrite; split <;> rfl
@[simp] theorem State.addWrite_writeBacks (s : State) (fr : Frame) (w : VarWrite) : (s.addWrite fr w).writeBacks = s.writeBacks := by unfold State.addWrite; split <;> rfl
@[simp] theorem State.addWrite_swTags (s : State) (fr : Frame) (w : VarWrite) : (s.addWrite fr w).swTags = s.swTags := by unfold State.addWrite; split <;> rfl
@[simp] theorem State.addWrite_swStamps (s : State) (fr : Frame) (w : VarWrite) : (s.addWrite fr w).swStamps = s.swStamps := by unfold State.addWrite; split <;> rfl
@[simp] theorem State.addWrite_swQueues (s : State) (fr : Frame) (w : VarWrite) : (s.addWrite fr w).swQueues = s.swQueues := by unfold State.addWrite; split <;> rfl
@[simp] theorem State.addWrite_swSince (s : State) (fr : Frame) (w : VarWrite) : (s.addWrite fr w).swSince = s.swSince := by unfold State.addWrite; split <;> rfl
@[simp] theorem State.addWrite_swWalks (s : State) (fr : Frame) (w : VarWrite) : (s.addWrite fr w).swWalks = s.swWalks := by unfold State.addWrite; split <;> rfl
@[simp] theorem State.addWrite_rings (s : State) (fr : Frame) (w : VarWrite) : (s.addWrite fr w).rings = s.rings := by unfold State.addWrite; split <;> rfl
@[simp] theorem State.addWrite_copyOps (s : State) (fr : Frame) (w : VarWrite) : (s.addWrite fr w).copyOps = s.copyOps := by unfold State.addWrite; split <;> rfl
@[simp] theorem State.addWrite_xfms (s : State) (fr : Frame) (w : VarWrite) : (s.addWrite fr w).xfms = s.xfms := by unfold State.addWrite; split <;> rfl
@[simp] theorem State.addWrite_mats (s : State) (fr : Frame) (w : VarWrite) : (s.addWrite fr w).mats = s.mats := by unfold State.addWrite; split <;> rfl
@[simp] theorem State.addWrite_rastSubs (s : State) (fr : Frame) (w : VarWrite) : (s.addWrite fr w).rastSubs = s.rastSubs := by unfold State.addWrite; split <;> rfl
@[simp] theorem State.addWrite_rastOrders (s : State) (fr : Frame) (w : VarWrite) : (s.addWrite fr w).rastOrders = s.rastOrders := by unfold State.addWrite; split <;> rfl
@[simp] theorem State.addWrite_rays (s : State) (fr : Frame) (w : VarWrite) : (s.addWrite fr w).rays = s.rays := by unfold State.addWrite; split <;> rfl
@[simp] theorem State.addWrite_colls (s : State) (fr : Frame) (w : VarWrite) : (s.addWrite fr w).colls = s.colls := by unfold State.addWrite; split <;> rfl
@[simp] theorem State.addWrite_tripped (s : State) (fr : Frame) (w : VarWrite) : (s.addWrite fr w).tripped = s.tripped := by unfold State.addWrite; split <;> rfl
@[simp] theorem State.addWrite_bad (s : State) (fr : Frame) (w : VarWrite) : (s.addWrite fr w).bad = s.bad := by unfold State.addWrite; split <;> rfl
@[simp] theorem State.addWrite_focus (s : State) (fr : Frame) (w : VarWrite) : (s.addWrite fr w).focus = s.focus := by unfold State.addWrite; split <;> rfl
@[simp] theorem State.addWrite_used (s : State) (fr : Frame) (w : VarWrite) : (s.addWrite fr w).used = s.used := by unfold State.addWrite; split <;> rfl
@[simp] theorem State.addWrite_made (s : State) (fr : Frame) (w : VarWrite) : (s.addWrite fr w).made = s.made := by unfold State.addWrite; split <;> rfl
@[simp] theorem State.addWrite_inputs (s : State) (fr : Frame) (w : VarWrite) : (s.addWrite fr w).inputs = s.inputs := by unfold State.addWrite; split <;> rfl
@[simp] theorem State.addWrite_free (s : State) (fr : Frame) (w : VarWrite) : (s.addWrite fr w).free = s.free := by unfold State.addWrite; split <;> rfl
@[simp] theorem State.addWrite_nextId (s : State) (fr : Frame) (w : VarWrite) : (s.addWrite fr w).nextId = s.nextId := by unfold State.addWrite; split <;> rfl

/-! ## A core's note -/

@[simp] theorem State.setCoreNote_time (s : State) (core : Nat) (n : CoreNote) : (s.setCoreNote core n).time = s.time := rfl
@[simp] theorem State.setCoreNote_dies (s : State) (core : Nat) (n : CoreNote) : (s.setCoreNote core n).dies = s.dies := rfl
@[simp] theorem State.setCoreNote_boot (s : State) (core : Nat) (n : CoreNote) : (s.setCoreNote core n).boot = s.boot := rfl
@[simp] theorem State.setCoreNote_interleave (s : State) (core : Nat) (n : CoreNote) : (s.setCoreNote core n).interleave = s.interleave := rfl
@[simp] theorem State.setCoreNote_hypEntry (s : State) (core : Nat) (n : CoreNote) : (s.setCoreNote core n).hypEntry = s.hypEntry := rfl
@[simp] theorem State.setCoreNote_hypConst (s : State) (core : Nat) (n : CoreNote) : (s.setCoreNote core n).hypConst = s.hypConst := rfl
@[simp] theorem State.setCoreNote_platformSum (s : State) (core : Nat) (n : CoreNote) : (s.setCoreNote core n).platformSum = s.platformSum := rfl
@[simp] theorem State.setCoreNote_hypSum (s : State) (core : Nat) (n : CoreNote) : (s.setCoreNote core n).hypSum = s.hypSum := rfl
@[simp] theorem State.setCoreNote_device (s : State) (core : Nat) (n : CoreNote) : (s.setCoreNote core n).device = s.device := rfl
@[simp] theorem State.setCoreNote_routes (s : State) (core : Nat) (n : CoreNote) : (s.setCoreNote core n).routes = s.routes := rfl
@[simp] theorem State.setCoreNote_fns (s : State) (core : Nat) (n : CoreNote) : (s.setCoreNote core n).fns = s.fns := rfl
@[simp] theorem State.setCoreNote_panels (s : State) (core : Nat) (n : CoreNote) : (s.setCoreNote core n).panels = s.panels := rfl
@[simp] theorem State.setCoreNote_clusters (s : State) (core : Nat) (n : CoreNote) : (s.setCoreNote core n).clusters = s.clusters := rfl
@[simp] theorem State.setCoreNote_pool (s : State) (core : Nat) (n : CoreNote) : (s.setCoreNote core n).pool = s.pool := rfl
@[simp] theorem State.setCoreNote_mem (s : State) (core : Nat) (n : CoreNote) : (s.setCoreNote core n).mem = s.mem := rfl
@[simp] theorem State.setCoreNote_hbm (s : State) (core : Nat) (n : CoreNote) : (s.setCoreNote core n).hbm = s.hbm := rfl
@[simp] theorem State.setCoreNote_copies (s : State) (core : Nat) (n : CoreNote) : (s.setCoreNote core n).copies = s.copies := rfl
@[simp] theorem State.setCoreNote_code (s : State) (core : Nat) (n : CoreNote) : (s.setCoreNote core n).code = s.code := rfl
@[simp] theorem State.setCoreNote_tlbs (s : State) (core : Nat) (n : CoreNote) : (s.setCoreNote core n).tlbs = s.tlbs := rfl
@[simp] theorem State.setCoreNote_walkCopies (s : State) (core : Nat) (n : CoreNote) : (s.setCoreNote core n).walkCopies = s.walkCopies := rfl
@[simp] theorem State.setCoreNote_walks (s : State) (core : Nat) (n : CoreNote) : (s.setCoreNote core n).walks = s.walks := rfl
@[simp] theorem State.setCoreNote_inflight (s : State) (core : Nat) (n : CoreNote) : (s.setCoreNote core n).inflight = s.inflight := rfl
@[simp] theorem State.setCoreNote_atoms (s : State) (core : Nat) (n : CoreNote) : (s.setCoreNote core n).atoms = s.atoms := rfl
@[simp] theorem State.setCoreNote_writeBacks (s : State) (core : Nat) (n : CoreNote) : (s.setCoreNote core n).writeBacks = s.writeBacks := rfl
@[simp] theorem State.setCoreNote_swTags (s : State) (core : Nat) (n : CoreNote) : (s.setCoreNote core n).swTags = s.swTags := rfl
@[simp] theorem State.setCoreNote_swStamps (s : State) (core : Nat) (n : CoreNote) : (s.setCoreNote core n).swStamps = s.swStamps := rfl
@[simp] theorem State.setCoreNote_swQueues (s : State) (core : Nat) (n : CoreNote) : (s.setCoreNote core n).swQueues = s.swQueues := rfl
@[simp] theorem State.setCoreNote_swSince (s : State) (core : Nat) (n : CoreNote) : (s.setCoreNote core n).swSince = s.swSince := rfl
@[simp] theorem State.setCoreNote_swWalks (s : State) (core : Nat) (n : CoreNote) : (s.setCoreNote core n).swWalks = s.swWalks := rfl
@[simp] theorem State.setCoreNote_rings (s : State) (core : Nat) (n : CoreNote) : (s.setCoreNote core n).rings = s.rings := rfl
@[simp] theorem State.setCoreNote_copyOps (s : State) (core : Nat) (n : CoreNote) : (s.setCoreNote core n).copyOps = s.copyOps := rfl
@[simp] theorem State.setCoreNote_xfms (s : State) (core : Nat) (n : CoreNote) : (s.setCoreNote core n).xfms = s.xfms := rfl
@[simp] theorem State.setCoreNote_mats (s : State) (core : Nat) (n : CoreNote) : (s.setCoreNote core n).mats = s.mats := rfl
@[simp] theorem State.setCoreNote_rastSubs (s : State) (core : Nat) (n : CoreNote) : (s.setCoreNote core n).rastSubs = s.rastSubs := rfl
@[simp] theorem State.setCoreNote_rastOrders (s : State) (core : Nat) (n : CoreNote) : (s.setCoreNote core n).rastOrders = s.rastOrders := rfl
@[simp] theorem State.setCoreNote_rays (s : State) (core : Nat) (n : CoreNote) : (s.setCoreNote core n).rays = s.rays := rfl
@[simp] theorem State.setCoreNote_colls (s : State) (core : Nat) (n : CoreNote) : (s.setCoreNote core n).colls = s.colls := rfl
@[simp] theorem State.setCoreNote_tripped (s : State) (core : Nat) (n : CoreNote) : (s.setCoreNote core n).tripped = s.tripped := rfl
@[simp] theorem State.setCoreNote_bad (s : State) (core : Nat) (n : CoreNote) : (s.setCoreNote core n).bad = s.bad := rfl
@[simp] theorem State.setCoreNote_focus (s : State) (core : Nat) (n : CoreNote) : (s.setCoreNote core n).focus = s.focus := rfl
@[simp] theorem State.setCoreNote_used (s : State) (core : Nat) (n : CoreNote) : (s.setCoreNote core n).used = s.used := rfl
@[simp] theorem State.setCoreNote_made (s : State) (core : Nat) (n : CoreNote) : (s.setCoreNote core n).made = s.made := rfl
@[simp] theorem State.setCoreNote_inputs (s : State) (core : Nat) (n : CoreNote) : (s.setCoreNote core n).inputs = s.inputs := rfl
@[simp] theorem State.setCoreNote_free (s : State) (core : Nat) (n : CoreNote) : (s.setCoreNote core n).free = s.free := rfl
@[simp] theorem State.setCoreNote_nextId (s : State) (core : Nat) (n : CoreNote) : (s.setCoreNote core n).nextId = s.nextId := rfl

/-! ## A pool entry -/

@[simp] theorem State.onEntry_time (s : State) (id : Nat) (f : PoolEntry → PoolEntry) : (s.onEntry id f).time = s.time := rfl
@[simp] theorem State.onEntry_dies (s : State) (id : Nat) (f : PoolEntry → PoolEntry) : (s.onEntry id f).dies = s.dies := rfl
@[simp] theorem State.onEntry_boot (s : State) (id : Nat) (f : PoolEntry → PoolEntry) : (s.onEntry id f).boot = s.boot := rfl
@[simp] theorem State.onEntry_interleave (s : State) (id : Nat) (f : PoolEntry → PoolEntry) : (s.onEntry id f).interleave = s.interleave := rfl
@[simp] theorem State.onEntry_hypEntry (s : State) (id : Nat) (f : PoolEntry → PoolEntry) : (s.onEntry id f).hypEntry = s.hypEntry := rfl
@[simp] theorem State.onEntry_hypConst (s : State) (id : Nat) (f : PoolEntry → PoolEntry) : (s.onEntry id f).hypConst = s.hypConst := rfl
@[simp] theorem State.onEntry_platformSum (s : State) (id : Nat) (f : PoolEntry → PoolEntry) : (s.onEntry id f).platformSum = s.platformSum := rfl
@[simp] theorem State.onEntry_hypSum (s : State) (id : Nat) (f : PoolEntry → PoolEntry) : (s.onEntry id f).hypSum = s.hypSum := rfl
@[simp] theorem State.onEntry_device (s : State) (id : Nat) (f : PoolEntry → PoolEntry) : (s.onEntry id f).device = s.device := rfl
@[simp] theorem State.onEntry_routes (s : State) (id : Nat) (f : PoolEntry → PoolEntry) : (s.onEntry id f).routes = s.routes := rfl
@[simp] theorem State.onEntry_fns (s : State) (id : Nat) (f : PoolEntry → PoolEntry) : (s.onEntry id f).fns = s.fns := rfl
@[simp] theorem State.onEntry_panels (s : State) (id : Nat) (f : PoolEntry → PoolEntry) : (s.onEntry id f).panels = s.panels := rfl
@[simp] theorem State.onEntry_cores (s : State) (id : Nat) (f : PoolEntry → PoolEntry) : (s.onEntry id f).cores = s.cores := rfl
@[simp] theorem State.onEntry_clusters (s : State) (id : Nat) (f : PoolEntry → PoolEntry) : (s.onEntry id f).clusters = s.clusters := rfl
@[simp] theorem State.onEntry_mem (s : State) (id : Nat) (f : PoolEntry → PoolEntry) : (s.onEntry id f).mem = s.mem := rfl
@[simp] theorem State.onEntry_hbm (s : State) (id : Nat) (f : PoolEntry → PoolEntry) : (s.onEntry id f).hbm = s.hbm := rfl
@[simp] theorem State.onEntry_copies (s : State) (id : Nat) (f : PoolEntry → PoolEntry) : (s.onEntry id f).copies = s.copies := rfl
@[simp] theorem State.onEntry_code (s : State) (id : Nat) (f : PoolEntry → PoolEntry) : (s.onEntry id f).code = s.code := rfl
@[simp] theorem State.onEntry_tlbs (s : State) (id : Nat) (f : PoolEntry → PoolEntry) : (s.onEntry id f).tlbs = s.tlbs := rfl
@[simp] theorem State.onEntry_walkCopies (s : State) (id : Nat) (f : PoolEntry → PoolEntry) : (s.onEntry id f).walkCopies = s.walkCopies := rfl
@[simp] theorem State.onEntry_walks (s : State) (id : Nat) (f : PoolEntry → PoolEntry) : (s.onEntry id f).walks = s.walks := rfl
@[simp] theorem State.onEntry_inflight (s : State) (id : Nat) (f : PoolEntry → PoolEntry) : (s.onEntry id f).inflight = s.inflight := rfl
@[simp] theorem State.onEntry_atoms (s : State) (id : Nat) (f : PoolEntry → PoolEntry) : (s.onEntry id f).atoms = s.atoms := rfl
@[simp] theorem State.onEntry_writeBacks (s : State) (id : Nat) (f : PoolEntry → PoolEntry) : (s.onEntry id f).writeBacks = s.writeBacks := rfl
@[simp] theorem State.onEntry_swTags (s : State) (id : Nat) (f : PoolEntry → PoolEntry) : (s.onEntry id f).swTags = s.swTags := rfl
@[simp] theorem State.onEntry_swStamps (s : State) (id : Nat) (f : PoolEntry → PoolEntry) : (s.onEntry id f).swStamps = s.swStamps := rfl
@[simp] theorem State.onEntry_swQueues (s : State) (id : Nat) (f : PoolEntry → PoolEntry) : (s.onEntry id f).swQueues = s.swQueues := rfl
@[simp] theorem State.onEntry_swSince (s : State) (id : Nat) (f : PoolEntry → PoolEntry) : (s.onEntry id f).swSince = s.swSince := rfl
@[simp] theorem State.onEntry_swWalks (s : State) (id : Nat) (f : PoolEntry → PoolEntry) : (s.onEntry id f).swWalks = s.swWalks := rfl
@[simp] theorem State.onEntry_rings (s : State) (id : Nat) (f : PoolEntry → PoolEntry) : (s.onEntry id f).rings = s.rings := rfl
@[simp] theorem State.onEntry_copyOps (s : State) (id : Nat) (f : PoolEntry → PoolEntry) : (s.onEntry id f).copyOps = s.copyOps := rfl
@[simp] theorem State.onEntry_xfms (s : State) (id : Nat) (f : PoolEntry → PoolEntry) : (s.onEntry id f).xfms = s.xfms := rfl
@[simp] theorem State.onEntry_mats (s : State) (id : Nat) (f : PoolEntry → PoolEntry) : (s.onEntry id f).mats = s.mats := rfl
@[simp] theorem State.onEntry_rastSubs (s : State) (id : Nat) (f : PoolEntry → PoolEntry) : (s.onEntry id f).rastSubs = s.rastSubs := rfl
@[simp] theorem State.onEntry_rastOrders (s : State) (id : Nat) (f : PoolEntry → PoolEntry) : (s.onEntry id f).rastOrders = s.rastOrders := rfl
@[simp] theorem State.onEntry_rays (s : State) (id : Nat) (f : PoolEntry → PoolEntry) : (s.onEntry id f).rays = s.rays := rfl
@[simp] theorem State.onEntry_colls (s : State) (id : Nat) (f : PoolEntry → PoolEntry) : (s.onEntry id f).colls = s.colls := rfl
@[simp] theorem State.onEntry_tripped (s : State) (id : Nat) (f : PoolEntry → PoolEntry) : (s.onEntry id f).tripped = s.tripped := rfl
@[simp] theorem State.onEntry_bad (s : State) (id : Nat) (f : PoolEntry → PoolEntry) : (s.onEntry id f).bad = s.bad := rfl
@[simp] theorem State.onEntry_focus (s : State) (id : Nat) (f : PoolEntry → PoolEntry) : (s.onEntry id f).focus = s.focus := rfl
@[simp] theorem State.onEntry_used (s : State) (id : Nat) (f : PoolEntry → PoolEntry) : (s.onEntry id f).used = s.used := rfl
@[simp] theorem State.onEntry_made (s : State) (id : Nat) (f : PoolEntry → PoolEntry) : (s.onEntry id f).made = s.made := rfl
@[simp] theorem State.onEntry_inputs (s : State) (id : Nat) (f : PoolEntry → PoolEntry) : (s.onEntry id f).inputs = s.inputs := rfl
@[simp] theorem State.onEntry_free (s : State) (id : Nat) (f : PoolEntry → PoolEntry) : (s.onEntry id f).free = s.free := rfl
@[simp] theorem State.onEntry_nextId (s : State) (id : Nat) (f : PoolEntry → PoolEntry) : (s.onEntry id f).nextId = s.nextId := rfl

/-! ## Cached copies -/

@[simp] theorem State.dropCopies_time (s : State) (f : Copy → Bool) : (s.dropCopies f).time = s.time := rfl
@[simp] theorem State.dropCopies_dies (s : State) (f : Copy → Bool) : (s.dropCopies f).dies = s.dies := rfl
@[simp] theorem State.dropCopies_boot (s : State) (f : Copy → Bool) : (s.dropCopies f).boot = s.boot := rfl
@[simp] theorem State.dropCopies_interleave (s : State) (f : Copy → Bool) : (s.dropCopies f).interleave = s.interleave := rfl
@[simp] theorem State.dropCopies_hypEntry (s : State) (f : Copy → Bool) : (s.dropCopies f).hypEntry = s.hypEntry := rfl
@[simp] theorem State.dropCopies_hypConst (s : State) (f : Copy → Bool) : (s.dropCopies f).hypConst = s.hypConst := rfl
@[simp] theorem State.dropCopies_platformSum (s : State) (f : Copy → Bool) : (s.dropCopies f).platformSum = s.platformSum := rfl
@[simp] theorem State.dropCopies_hypSum (s : State) (f : Copy → Bool) : (s.dropCopies f).hypSum = s.hypSum := rfl
@[simp] theorem State.dropCopies_device (s : State) (f : Copy → Bool) : (s.dropCopies f).device = s.device := rfl
@[simp] theorem State.dropCopies_routes (s : State) (f : Copy → Bool) : (s.dropCopies f).routes = s.routes := rfl
@[simp] theorem State.dropCopies_fns (s : State) (f : Copy → Bool) : (s.dropCopies f).fns = s.fns := rfl
@[simp] theorem State.dropCopies_panels (s : State) (f : Copy → Bool) : (s.dropCopies f).panels = s.panels := rfl
@[simp] theorem State.dropCopies_cores (s : State) (f : Copy → Bool) : (s.dropCopies f).cores = s.cores := rfl
@[simp] theorem State.dropCopies_clusters (s : State) (f : Copy → Bool) : (s.dropCopies f).clusters = s.clusters := rfl
@[simp] theorem State.dropCopies_pool (s : State) (f : Copy → Bool) : (s.dropCopies f).pool = s.pool := rfl
@[simp] theorem State.dropCopies_mem (s : State) (f : Copy → Bool) : (s.dropCopies f).mem = s.mem := rfl
@[simp] theorem State.dropCopies_hbm (s : State) (f : Copy → Bool) : (s.dropCopies f).hbm = s.hbm := rfl
@[simp] theorem State.dropCopies_code (s : State) (f : Copy → Bool) : (s.dropCopies f).code = s.code := rfl
@[simp] theorem State.dropCopies_tlbs (s : State) (f : Copy → Bool) : (s.dropCopies f).tlbs = s.tlbs := rfl
@[simp] theorem State.dropCopies_walkCopies (s : State) (f : Copy → Bool) : (s.dropCopies f).walkCopies = s.walkCopies := rfl
@[simp] theorem State.dropCopies_walks (s : State) (f : Copy → Bool) : (s.dropCopies f).walks = s.walks := rfl
@[simp] theorem State.dropCopies_inflight (s : State) (f : Copy → Bool) : (s.dropCopies f).inflight = s.inflight := rfl
@[simp] theorem State.dropCopies_atoms (s : State) (f : Copy → Bool) : (s.dropCopies f).atoms = s.atoms := rfl
@[simp] theorem State.dropCopies_writeBacks (s : State) (f : Copy → Bool) : (s.dropCopies f).writeBacks = s.writeBacks := rfl
@[simp] theorem State.dropCopies_swTags (s : State) (f : Copy → Bool) : (s.dropCopies f).swTags = s.swTags := rfl
@[simp] theorem State.dropCopies_swStamps (s : State) (f : Copy → Bool) : (s.dropCopies f).swStamps = s.swStamps := rfl
@[simp] theorem State.dropCopies_swQueues (s : State) (f : Copy → Bool) : (s.dropCopies f).swQueues = s.swQueues := rfl
@[simp] theorem State.dropCopies_swSince (s : State) (f : Copy → Bool) : (s.dropCopies f).swSince = s.swSince := rfl
@[simp] theorem State.dropCopies_swWalks (s : State) (f : Copy → Bool) : (s.dropCopies f).swWalks = s.swWalks := rfl
@[simp] theorem State.dropCopies_rings (s : State) (f : Copy → Bool) : (s.dropCopies f).rings = s.rings := rfl
@[simp] theorem State.dropCopies_copyOps (s : State) (f : Copy → Bool) : (s.dropCopies f).copyOps = s.copyOps := rfl
@[simp] theorem State.dropCopies_xfms (s : State) (f : Copy → Bool) : (s.dropCopies f).xfms = s.xfms := rfl
@[simp] theorem State.dropCopies_mats (s : State) (f : Copy → Bool) : (s.dropCopies f).mats = s.mats := rfl
@[simp] theorem State.dropCopies_rastSubs (s : State) (f : Copy → Bool) : (s.dropCopies f).rastSubs = s.rastSubs := rfl
@[simp] theorem State.dropCopies_rastOrders (s : State) (f : Copy → Bool) : (s.dropCopies f).rastOrders = s.rastOrders := rfl
@[simp] theorem State.dropCopies_rays (s : State) (f : Copy → Bool) : (s.dropCopies f).rays = s.rays := rfl
@[simp] theorem State.dropCopies_colls (s : State) (f : Copy → Bool) : (s.dropCopies f).colls = s.colls := rfl
@[simp] theorem State.dropCopies_tripped (s : State) (f : Copy → Bool) : (s.dropCopies f).tripped = s.tripped := rfl
@[simp] theorem State.dropCopies_bad (s : State) (f : Copy → Bool) : (s.dropCopies f).bad = s.bad := rfl
@[simp] theorem State.dropCopies_focus (s : State) (f : Copy → Bool) : (s.dropCopies f).focus = s.focus := rfl
@[simp] theorem State.dropCopies_used (s : State) (f : Copy → Bool) : (s.dropCopies f).used = s.used := rfl
@[simp] theorem State.dropCopies_made (s : State) (f : Copy → Bool) : (s.dropCopies f).made = s.made := rfl
@[simp] theorem State.dropCopies_inputs (s : State) (f : Copy → Bool) : (s.dropCopies f).inputs = s.inputs := rfl
@[simp] theorem State.dropCopies_free (s : State) (f : Copy → Bool) : (s.dropCopies f).free = s.free := rfl
@[simp] theorem State.dropCopies_nextId (s : State) (f : Copy → Bool) : (s.dropCopies f).nextId = s.nextId := rfl

/-! ## Walks forgotten -/

@[simp] theorem State.endWalks_time (s : State) (panel : Nat) (k : Option Nat) : (s.endWalks panel k).time = s.time := rfl
@[simp] theorem State.endWalks_dies (s : State) (panel : Nat) (k : Option Nat) : (s.endWalks panel k).dies = s.dies := rfl
@[simp] theorem State.endWalks_boot (s : State) (panel : Nat) (k : Option Nat) : (s.endWalks panel k).boot = s.boot := rfl
@[simp] theorem State.endWalks_interleave (s : State) (panel : Nat) (k : Option Nat) : (s.endWalks panel k).interleave = s.interleave := rfl
@[simp] theorem State.endWalks_hypEntry (s : State) (panel : Nat) (k : Option Nat) : (s.endWalks panel k).hypEntry = s.hypEntry := rfl
@[simp] theorem State.endWalks_hypConst (s : State) (panel : Nat) (k : Option Nat) : (s.endWalks panel k).hypConst = s.hypConst := rfl
@[simp] theorem State.endWalks_platformSum (s : State) (panel : Nat) (k : Option Nat) : (s.endWalks panel k).platformSum = s.platformSum := rfl
@[simp] theorem State.endWalks_hypSum (s : State) (panel : Nat) (k : Option Nat) : (s.endWalks panel k).hypSum = s.hypSum := rfl
@[simp] theorem State.endWalks_device (s : State) (panel : Nat) (k : Option Nat) : (s.endWalks panel k).device = s.device := rfl
@[simp] theorem State.endWalks_routes (s : State) (panel : Nat) (k : Option Nat) : (s.endWalks panel k).routes = s.routes := rfl
@[simp] theorem State.endWalks_fns (s : State) (panel : Nat) (k : Option Nat) : (s.endWalks panel k).fns = s.fns := rfl
@[simp] theorem State.endWalks_panels (s : State) (panel : Nat) (k : Option Nat) : (s.endWalks panel k).panels = s.panels := rfl
@[simp] theorem State.endWalks_cores (s : State) (panel : Nat) (k : Option Nat) : (s.endWalks panel k).cores = s.cores := rfl
@[simp] theorem State.endWalks_clusters (s : State) (panel : Nat) (k : Option Nat) : (s.endWalks panel k).clusters = s.clusters := rfl
@[simp] theorem State.endWalks_pool (s : State) (panel : Nat) (k : Option Nat) : (s.endWalks panel k).pool = s.pool := rfl
@[simp] theorem State.endWalks_mem (s : State) (panel : Nat) (k : Option Nat) : (s.endWalks panel k).mem = s.mem := rfl
@[simp] theorem State.endWalks_hbm (s : State) (panel : Nat) (k : Option Nat) : (s.endWalks panel k).hbm = s.hbm := rfl
@[simp] theorem State.endWalks_copies (s : State) (panel : Nat) (k : Option Nat) : (s.endWalks panel k).copies = s.copies := rfl
@[simp] theorem State.endWalks_code (s : State) (panel : Nat) (k : Option Nat) : (s.endWalks panel k).code = s.code := rfl
@[simp] theorem State.endWalks_tlbs (s : State) (panel : Nat) (k : Option Nat) : (s.endWalks panel k).tlbs = s.tlbs := rfl
@[simp] theorem State.endWalks_walkCopies (s : State) (panel : Nat) (k : Option Nat) : (s.endWalks panel k).walkCopies = s.walkCopies := rfl
@[simp] theorem State.endWalks_inflight (s : State) (panel : Nat) (k : Option Nat) : (s.endWalks panel k).inflight = s.inflight := rfl
@[simp] theorem State.endWalks_atoms (s : State) (panel : Nat) (k : Option Nat) : (s.endWalks panel k).atoms = s.atoms := rfl
@[simp] theorem State.endWalks_writeBacks (s : State) (panel : Nat) (k : Option Nat) : (s.endWalks panel k).writeBacks = s.writeBacks := rfl
@[simp] theorem State.endWalks_swTags (s : State) (panel : Nat) (k : Option Nat) : (s.endWalks panel k).swTags = s.swTags := rfl
@[simp] theorem State.endWalks_swStamps (s : State) (panel : Nat) (k : Option Nat) : (s.endWalks panel k).swStamps = s.swStamps := rfl
@[simp] theorem State.endWalks_swQueues (s : State) (panel : Nat) (k : Option Nat) : (s.endWalks panel k).swQueues = s.swQueues := rfl
@[simp] theorem State.endWalks_swSince (s : State) (panel : Nat) (k : Option Nat) : (s.endWalks panel k).swSince = s.swSince := rfl
@[simp] theorem State.endWalks_swWalks (s : State) (panel : Nat) (k : Option Nat) : (s.endWalks panel k).swWalks = s.swWalks := rfl
@[simp] theorem State.endWalks_rings (s : State) (panel : Nat) (k : Option Nat) : (s.endWalks panel k).rings = s.rings := rfl
@[simp] theorem State.endWalks_copyOps (s : State) (panel : Nat) (k : Option Nat) : (s.endWalks panel k).copyOps = s.copyOps := rfl
@[simp] theorem State.endWalks_xfms (s : State) (panel : Nat) (k : Option Nat) : (s.endWalks panel k).xfms = s.xfms := rfl
@[simp] theorem State.endWalks_mats (s : State) (panel : Nat) (k : Option Nat) : (s.endWalks panel k).mats = s.mats := rfl
@[simp] theorem State.endWalks_rastSubs (s : State) (panel : Nat) (k : Option Nat) : (s.endWalks panel k).rastSubs = s.rastSubs := rfl
@[simp] theorem State.endWalks_rastOrders (s : State) (panel : Nat) (k : Option Nat) : (s.endWalks panel k).rastOrders = s.rastOrders := rfl
@[simp] theorem State.endWalks_rays (s : State) (panel : Nat) (k : Option Nat) : (s.endWalks panel k).rays = s.rays := rfl
@[simp] theorem State.endWalks_colls (s : State) (panel : Nat) (k : Option Nat) : (s.endWalks panel k).colls = s.colls := rfl
@[simp] theorem State.endWalks_tripped (s : State) (panel : Nat) (k : Option Nat) : (s.endWalks panel k).tripped = s.tripped := rfl
@[simp] theorem State.endWalks_bad (s : State) (panel : Nat) (k : Option Nat) : (s.endWalks panel k).bad = s.bad := rfl
@[simp] theorem State.endWalks_focus (s : State) (panel : Nat) (k : Option Nat) : (s.endWalks panel k).focus = s.focus := rfl
@[simp] theorem State.endWalks_used (s : State) (panel : Nat) (k : Option Nat) : (s.endWalks panel k).used = s.used := rfl
@[simp] theorem State.endWalks_made (s : State) (panel : Nat) (k : Option Nat) : (s.endWalks panel k).made = s.made := rfl
@[simp] theorem State.endWalks_inputs (s : State) (panel : Nat) (k : Option Nat) : (s.endWalks panel k).inputs = s.inputs := rfl
@[simp] theorem State.endWalks_free (s : State) (panel : Nat) (k : Option Nat) : (s.endWalks panel k).free = s.free := rfl
@[simp] theorem State.endWalks_nextId (s : State) (panel : Nat) (k : Option Nat) : (s.endWalks panel k).nextId = s.nextId := rfl

/-! ## One walk -/

@[simp] theorem State.onWalk_time (s : State) (id : Nat) (f : Walk → Walk) : (s.onWalk id f).time = s.time := rfl
@[simp] theorem State.onWalk_dies (s : State) (id : Nat) (f : Walk → Walk) : (s.onWalk id f).dies = s.dies := rfl
@[simp] theorem State.onWalk_boot (s : State) (id : Nat) (f : Walk → Walk) : (s.onWalk id f).boot = s.boot := rfl
@[simp] theorem State.onWalk_interleave (s : State) (id : Nat) (f : Walk → Walk) : (s.onWalk id f).interleave = s.interleave := rfl
@[simp] theorem State.onWalk_hypEntry (s : State) (id : Nat) (f : Walk → Walk) : (s.onWalk id f).hypEntry = s.hypEntry := rfl
@[simp] theorem State.onWalk_hypConst (s : State) (id : Nat) (f : Walk → Walk) : (s.onWalk id f).hypConst = s.hypConst := rfl
@[simp] theorem State.onWalk_platformSum (s : State) (id : Nat) (f : Walk → Walk) : (s.onWalk id f).platformSum = s.platformSum := rfl
@[simp] theorem State.onWalk_hypSum (s : State) (id : Nat) (f : Walk → Walk) : (s.onWalk id f).hypSum = s.hypSum := rfl
@[simp] theorem State.onWalk_device (s : State) (id : Nat) (f : Walk → Walk) : (s.onWalk id f).device = s.device := rfl
@[simp] theorem State.onWalk_routes (s : State) (id : Nat) (f : Walk → Walk) : (s.onWalk id f).routes = s.routes := rfl
@[simp] theorem State.onWalk_fns (s : State) (id : Nat) (f : Walk → Walk) : (s.onWalk id f).fns = s.fns := rfl
@[simp] theorem State.onWalk_panels (s : State) (id : Nat) (f : Walk → Walk) : (s.onWalk id f).panels = s.panels := rfl
@[simp] theorem State.onWalk_cores (s : State) (id : Nat) (f : Walk → Walk) : (s.onWalk id f).cores = s.cores := rfl
@[simp] theorem State.onWalk_clusters (s : State) (id : Nat) (f : Walk → Walk) : (s.onWalk id f).clusters = s.clusters := rfl
@[simp] theorem State.onWalk_pool (s : State) (id : Nat) (f : Walk → Walk) : (s.onWalk id f).pool = s.pool := rfl
@[simp] theorem State.onWalk_mem (s : State) (id : Nat) (f : Walk → Walk) : (s.onWalk id f).mem = s.mem := rfl
@[simp] theorem State.onWalk_hbm (s : State) (id : Nat) (f : Walk → Walk) : (s.onWalk id f).hbm = s.hbm := rfl
@[simp] theorem State.onWalk_copies (s : State) (id : Nat) (f : Walk → Walk) : (s.onWalk id f).copies = s.copies := rfl
@[simp] theorem State.onWalk_code (s : State) (id : Nat) (f : Walk → Walk) : (s.onWalk id f).code = s.code := rfl
@[simp] theorem State.onWalk_tlbs (s : State) (id : Nat) (f : Walk → Walk) : (s.onWalk id f).tlbs = s.tlbs := rfl
@[simp] theorem State.onWalk_walkCopies (s : State) (id : Nat) (f : Walk → Walk) : (s.onWalk id f).walkCopies = s.walkCopies := rfl
@[simp] theorem State.onWalk_inflight (s : State) (id : Nat) (f : Walk → Walk) : (s.onWalk id f).inflight = s.inflight := rfl
@[simp] theorem State.onWalk_atoms (s : State) (id : Nat) (f : Walk → Walk) : (s.onWalk id f).atoms = s.atoms := rfl
@[simp] theorem State.onWalk_writeBacks (s : State) (id : Nat) (f : Walk → Walk) : (s.onWalk id f).writeBacks = s.writeBacks := rfl
@[simp] theorem State.onWalk_swTags (s : State) (id : Nat) (f : Walk → Walk) : (s.onWalk id f).swTags = s.swTags := rfl
@[simp] theorem State.onWalk_swStamps (s : State) (id : Nat) (f : Walk → Walk) : (s.onWalk id f).swStamps = s.swStamps := rfl
@[simp] theorem State.onWalk_swQueues (s : State) (id : Nat) (f : Walk → Walk) : (s.onWalk id f).swQueues = s.swQueues := rfl
@[simp] theorem State.onWalk_swSince (s : State) (id : Nat) (f : Walk → Walk) : (s.onWalk id f).swSince = s.swSince := rfl
@[simp] theorem State.onWalk_swWalks (s : State) (id : Nat) (f : Walk → Walk) : (s.onWalk id f).swWalks = s.swWalks := rfl
@[simp] theorem State.onWalk_rings (s : State) (id : Nat) (f : Walk → Walk) : (s.onWalk id f).rings = s.rings := rfl
@[simp] theorem State.onWalk_copyOps (s : State) (id : Nat) (f : Walk → Walk) : (s.onWalk id f).copyOps = s.copyOps := rfl
@[simp] theorem State.onWalk_xfms (s : State) (id : Nat) (f : Walk → Walk) : (s.onWalk id f).xfms = s.xfms := rfl
@[simp] theorem State.onWalk_mats (s : State) (id : Nat) (f : Walk → Walk) : (s.onWalk id f).mats = s.mats := rfl
@[simp] theorem State.onWalk_rastSubs (s : State) (id : Nat) (f : Walk → Walk) : (s.onWalk id f).rastSubs = s.rastSubs := rfl
@[simp] theorem State.onWalk_rastOrders (s : State) (id : Nat) (f : Walk → Walk) : (s.onWalk id f).rastOrders = s.rastOrders := rfl
@[simp] theorem State.onWalk_rays (s : State) (id : Nat) (f : Walk → Walk) : (s.onWalk id f).rays = s.rays := rfl
@[simp] theorem State.onWalk_colls (s : State) (id : Nat) (f : Walk → Walk) : (s.onWalk id f).colls = s.colls := rfl
@[simp] theorem State.onWalk_tripped (s : State) (id : Nat) (f : Walk → Walk) : (s.onWalk id f).tripped = s.tripped := rfl
@[simp] theorem State.onWalk_bad (s : State) (id : Nat) (f : Walk → Walk) : (s.onWalk id f).bad = s.bad := rfl
@[simp] theorem State.onWalk_focus (s : State) (id : Nat) (f : Walk → Walk) : (s.onWalk id f).focus = s.focus := rfl
@[simp] theorem State.onWalk_used (s : State) (id : Nat) (f : Walk → Walk) : (s.onWalk id f).used = s.used := rfl
@[simp] theorem State.onWalk_made (s : State) (id : Nat) (f : Walk → Walk) : (s.onWalk id f).made = s.made := rfl
@[simp] theorem State.onWalk_inputs (s : State) (id : Nat) (f : Walk → Walk) : (s.onWalk id f).inputs = s.inputs := rfl
@[simp] theorem State.onWalk_free (s : State) (id : Nat) (f : Walk → Walk) : (s.onWalk id f).free = s.free := rfl
@[simp] theorem State.onWalk_nextId (s : State) (id : Nat) (f : Walk → Walk) : (s.onWalk id f).nextId = s.nextId := rfl

/-! ## One ring -/

@[simp] theorem State.setRing_time (s : State) (r : Ring) : (s.setRing r).time = s.time := rfl
@[simp] theorem State.setRing_dies (s : State) (r : Ring) : (s.setRing r).dies = s.dies := rfl
@[simp] theorem State.setRing_boot (s : State) (r : Ring) : (s.setRing r).boot = s.boot := rfl
@[simp] theorem State.setRing_interleave (s : State) (r : Ring) : (s.setRing r).interleave = s.interleave := rfl
@[simp] theorem State.setRing_hypEntry (s : State) (r : Ring) : (s.setRing r).hypEntry = s.hypEntry := rfl
@[simp] theorem State.setRing_hypConst (s : State) (r : Ring) : (s.setRing r).hypConst = s.hypConst := rfl
@[simp] theorem State.setRing_platformSum (s : State) (r : Ring) : (s.setRing r).platformSum = s.platformSum := rfl
@[simp] theorem State.setRing_hypSum (s : State) (r : Ring) : (s.setRing r).hypSum = s.hypSum := rfl
@[simp] theorem State.setRing_device (s : State) (r : Ring) : (s.setRing r).device = s.device := rfl
@[simp] theorem State.setRing_routes (s : State) (r : Ring) : (s.setRing r).routes = s.routes := rfl
@[simp] theorem State.setRing_fns (s : State) (r : Ring) : (s.setRing r).fns = s.fns := rfl
@[simp] theorem State.setRing_panels (s : State) (r : Ring) : (s.setRing r).panels = s.panels := rfl
@[simp] theorem State.setRing_cores (s : State) (r : Ring) : (s.setRing r).cores = s.cores := rfl
@[simp] theorem State.setRing_clusters (s : State) (r : Ring) : (s.setRing r).clusters = s.clusters := rfl
@[simp] theorem State.setRing_pool (s : State) (r : Ring) : (s.setRing r).pool = s.pool := rfl
@[simp] theorem State.setRing_mem (s : State) (r : Ring) : (s.setRing r).mem = s.mem := rfl
@[simp] theorem State.setRing_hbm (s : State) (r : Ring) : (s.setRing r).hbm = s.hbm := rfl
@[simp] theorem State.setRing_copies (s : State) (r : Ring) : (s.setRing r).copies = s.copies := rfl
@[simp] theorem State.setRing_code (s : State) (r : Ring) : (s.setRing r).code = s.code := rfl
@[simp] theorem State.setRing_tlbs (s : State) (r : Ring) : (s.setRing r).tlbs = s.tlbs := rfl
@[simp] theorem State.setRing_walkCopies (s : State) (r : Ring) : (s.setRing r).walkCopies = s.walkCopies := rfl
@[simp] theorem State.setRing_walks (s : State) (r : Ring) : (s.setRing r).walks = s.walks := rfl
@[simp] theorem State.setRing_inflight (s : State) (r : Ring) : (s.setRing r).inflight = s.inflight := rfl
@[simp] theorem State.setRing_atoms (s : State) (r : Ring) : (s.setRing r).atoms = s.atoms := rfl
@[simp] theorem State.setRing_writeBacks (s : State) (r : Ring) : (s.setRing r).writeBacks = s.writeBacks := rfl
@[simp] theorem State.setRing_swTags (s : State) (r : Ring) : (s.setRing r).swTags = s.swTags := rfl
@[simp] theorem State.setRing_swStamps (s : State) (r : Ring) : (s.setRing r).swStamps = s.swStamps := rfl
@[simp] theorem State.setRing_swQueues (s : State) (r : Ring) : (s.setRing r).swQueues = s.swQueues := rfl
@[simp] theorem State.setRing_swSince (s : State) (r : Ring) : (s.setRing r).swSince = s.swSince := rfl
@[simp] theorem State.setRing_swWalks (s : State) (r : Ring) : (s.setRing r).swWalks = s.swWalks := rfl
@[simp] theorem State.setRing_copyOps (s : State) (r : Ring) : (s.setRing r).copyOps = s.copyOps := rfl
@[simp] theorem State.setRing_xfms (s : State) (r : Ring) : (s.setRing r).xfms = s.xfms := rfl
@[simp] theorem State.setRing_mats (s : State) (r : Ring) : (s.setRing r).mats = s.mats := rfl
@[simp] theorem State.setRing_rastSubs (s : State) (r : Ring) : (s.setRing r).rastSubs = s.rastSubs := rfl
@[simp] theorem State.setRing_rastOrders (s : State) (r : Ring) : (s.setRing r).rastOrders = s.rastOrders := rfl
@[simp] theorem State.setRing_rays (s : State) (r : Ring) : (s.setRing r).rays = s.rays := rfl
@[simp] theorem State.setRing_colls (s : State) (r : Ring) : (s.setRing r).colls = s.colls := rfl
@[simp] theorem State.setRing_tripped (s : State) (r : Ring) : (s.setRing r).tripped = s.tripped := rfl
@[simp] theorem State.setRing_bad (s : State) (r : Ring) : (s.setRing r).bad = s.bad := rfl
@[simp] theorem State.setRing_focus (s : State) (r : Ring) : (s.setRing r).focus = s.focus := rfl
@[simp] theorem State.setRing_used (s : State) (r : Ring) : (s.setRing r).used = s.used := rfl
@[simp] theorem State.setRing_made (s : State) (r : Ring) : (s.setRing r).made = s.made := rfl
@[simp] theorem State.setRing_inputs (s : State) (r : Ring) : (s.setRing r).inputs = s.inputs := rfl
@[simp] theorem State.setRing_free (s : State) (r : Ring) : (s.setRing r).free = s.free := rfl
@[simp] theorem State.setRing_nextId (s : State) (r : Ring) : (s.setRing r).nextId = s.nextId := rfl

/-! ## One collective -/

@[simp] theorem State.onColl_time (s : State) (id : Nat) (f : CollOp → CollOp) : (s.onColl id f).time = s.time := rfl
@[simp] theorem State.onColl_dies (s : State) (id : Nat) (f : CollOp → CollOp) : (s.onColl id f).dies = s.dies := rfl
@[simp] theorem State.onColl_boot (s : State) (id : Nat) (f : CollOp → CollOp) : (s.onColl id f).boot = s.boot := rfl
@[simp] theorem State.onColl_interleave (s : State) (id : Nat) (f : CollOp → CollOp) : (s.onColl id f).interleave = s.interleave := rfl
@[simp] theorem State.onColl_hypEntry (s : State) (id : Nat) (f : CollOp → CollOp) : (s.onColl id f).hypEntry = s.hypEntry := rfl
@[simp] theorem State.onColl_hypConst (s : State) (id : Nat) (f : CollOp → CollOp) : (s.onColl id f).hypConst = s.hypConst := rfl
@[simp] theorem State.onColl_platformSum (s : State) (id : Nat) (f : CollOp → CollOp) : (s.onColl id f).platformSum = s.platformSum := rfl
@[simp] theorem State.onColl_hypSum (s : State) (id : Nat) (f : CollOp → CollOp) : (s.onColl id f).hypSum = s.hypSum := rfl
@[simp] theorem State.onColl_device (s : State) (id : Nat) (f : CollOp → CollOp) : (s.onColl id f).device = s.device := rfl
@[simp] theorem State.onColl_routes (s : State) (id : Nat) (f : CollOp → CollOp) : (s.onColl id f).routes = s.routes := rfl
@[simp] theorem State.onColl_fns (s : State) (id : Nat) (f : CollOp → CollOp) : (s.onColl id f).fns = s.fns := rfl
@[simp] theorem State.onColl_panels (s : State) (id : Nat) (f : CollOp → CollOp) : (s.onColl id f).panels = s.panels := rfl
@[simp] theorem State.onColl_cores (s : State) (id : Nat) (f : CollOp → CollOp) : (s.onColl id f).cores = s.cores := rfl
@[simp] theorem State.onColl_clusters (s : State) (id : Nat) (f : CollOp → CollOp) : (s.onColl id f).clusters = s.clusters := rfl
@[simp] theorem State.onColl_pool (s : State) (id : Nat) (f : CollOp → CollOp) : (s.onColl id f).pool = s.pool := rfl
@[simp] theorem State.onColl_mem (s : State) (id : Nat) (f : CollOp → CollOp) : (s.onColl id f).mem = s.mem := rfl
@[simp] theorem State.onColl_hbm (s : State) (id : Nat) (f : CollOp → CollOp) : (s.onColl id f).hbm = s.hbm := rfl
@[simp] theorem State.onColl_copies (s : State) (id : Nat) (f : CollOp → CollOp) : (s.onColl id f).copies = s.copies := rfl
@[simp] theorem State.onColl_code (s : State) (id : Nat) (f : CollOp → CollOp) : (s.onColl id f).code = s.code := rfl
@[simp] theorem State.onColl_tlbs (s : State) (id : Nat) (f : CollOp → CollOp) : (s.onColl id f).tlbs = s.tlbs := rfl
@[simp] theorem State.onColl_walkCopies (s : State) (id : Nat) (f : CollOp → CollOp) : (s.onColl id f).walkCopies = s.walkCopies := rfl
@[simp] theorem State.onColl_walks (s : State) (id : Nat) (f : CollOp → CollOp) : (s.onColl id f).walks = s.walks := rfl
@[simp] theorem State.onColl_inflight (s : State) (id : Nat) (f : CollOp → CollOp) : (s.onColl id f).inflight = s.inflight := rfl
@[simp] theorem State.onColl_atoms (s : State) (id : Nat) (f : CollOp → CollOp) : (s.onColl id f).atoms = s.atoms := rfl
@[simp] theorem State.onColl_writeBacks (s : State) (id : Nat) (f : CollOp → CollOp) : (s.onColl id f).writeBacks = s.writeBacks := rfl
@[simp] theorem State.onColl_swTags (s : State) (id : Nat) (f : CollOp → CollOp) : (s.onColl id f).swTags = s.swTags := rfl
@[simp] theorem State.onColl_swStamps (s : State) (id : Nat) (f : CollOp → CollOp) : (s.onColl id f).swStamps = s.swStamps := rfl
@[simp] theorem State.onColl_swQueues (s : State) (id : Nat) (f : CollOp → CollOp) : (s.onColl id f).swQueues = s.swQueues := rfl
@[simp] theorem State.onColl_swSince (s : State) (id : Nat) (f : CollOp → CollOp) : (s.onColl id f).swSince = s.swSince := rfl
@[simp] theorem State.onColl_swWalks (s : State) (id : Nat) (f : CollOp → CollOp) : (s.onColl id f).swWalks = s.swWalks := rfl
@[simp] theorem State.onColl_rings (s : State) (id : Nat) (f : CollOp → CollOp) : (s.onColl id f).rings = s.rings := rfl
@[simp] theorem State.onColl_copyOps (s : State) (id : Nat) (f : CollOp → CollOp) : (s.onColl id f).copyOps = s.copyOps := rfl
@[simp] theorem State.onColl_xfms (s : State) (id : Nat) (f : CollOp → CollOp) : (s.onColl id f).xfms = s.xfms := rfl
@[simp] theorem State.onColl_mats (s : State) (id : Nat) (f : CollOp → CollOp) : (s.onColl id f).mats = s.mats := rfl
@[simp] theorem State.onColl_rastSubs (s : State) (id : Nat) (f : CollOp → CollOp) : (s.onColl id f).rastSubs = s.rastSubs := rfl
@[simp] theorem State.onColl_rastOrders (s : State) (id : Nat) (f : CollOp → CollOp) : (s.onColl id f).rastOrders = s.rastOrders := rfl
@[simp] theorem State.onColl_rays (s : State) (id : Nat) (f : CollOp → CollOp) : (s.onColl id f).rays = s.rays := rfl
@[simp] theorem State.onColl_tripped (s : State) (id : Nat) (f : CollOp → CollOp) : (s.onColl id f).tripped = s.tripped := rfl
@[simp] theorem State.onColl_bad (s : State) (id : Nat) (f : CollOp → CollOp) : (s.onColl id f).bad = s.bad := rfl
@[simp] theorem State.onColl_focus (s : State) (id : Nat) (f : CollOp → CollOp) : (s.onColl id f).focus = s.focus := rfl
@[simp] theorem State.onColl_used (s : State) (id : Nat) (f : CollOp → CollOp) : (s.onColl id f).used = s.used := rfl
@[simp] theorem State.onColl_made (s : State) (id : Nat) (f : CollOp → CollOp) : (s.onColl id f).made = s.made := rfl
@[simp] theorem State.onColl_inputs (s : State) (id : Nat) (f : CollOp → CollOp) : (s.onColl id f).inputs = s.inputs := rfl
@[simp] theorem State.onColl_free (s : State) (id : Nat) (f : CollOp → CollOp) : (s.onColl id f).free = s.free := rfl
@[simp] theorem State.onColl_nextId (s : State) (id : Nat) (f : CollOp → CollOp) : (s.onColl id f).nextId = s.nextId := rfl

/-! ## One submission -/

@[simp] theorem State.onRast_time (s : State) (id : Nat) (f : RastSub → RastSub) : (s.onRast id f).time = s.time := rfl
@[simp] theorem State.onRast_dies (s : State) (id : Nat) (f : RastSub → RastSub) : (s.onRast id f).dies = s.dies := rfl
@[simp] theorem State.onRast_boot (s : State) (id : Nat) (f : RastSub → RastSub) : (s.onRast id f).boot = s.boot := rfl
@[simp] theorem State.onRast_interleave (s : State) (id : Nat) (f : RastSub → RastSub) : (s.onRast id f).interleave = s.interleave := rfl
@[simp] theorem State.onRast_hypEntry (s : State) (id : Nat) (f : RastSub → RastSub) : (s.onRast id f).hypEntry = s.hypEntry := rfl
@[simp] theorem State.onRast_hypConst (s : State) (id : Nat) (f : RastSub → RastSub) : (s.onRast id f).hypConst = s.hypConst := rfl
@[simp] theorem State.onRast_platformSum (s : State) (id : Nat) (f : RastSub → RastSub) : (s.onRast id f).platformSum = s.platformSum := rfl
@[simp] theorem State.onRast_hypSum (s : State) (id : Nat) (f : RastSub → RastSub) : (s.onRast id f).hypSum = s.hypSum := rfl
@[simp] theorem State.onRast_device (s : State) (id : Nat) (f : RastSub → RastSub) : (s.onRast id f).device = s.device := rfl
@[simp] theorem State.onRast_routes (s : State) (id : Nat) (f : RastSub → RastSub) : (s.onRast id f).routes = s.routes := rfl
@[simp] theorem State.onRast_fns (s : State) (id : Nat) (f : RastSub → RastSub) : (s.onRast id f).fns = s.fns := rfl
@[simp] theorem State.onRast_panels (s : State) (id : Nat) (f : RastSub → RastSub) : (s.onRast id f).panels = s.panels := rfl
@[simp] theorem State.onRast_cores (s : State) (id : Nat) (f : RastSub → RastSub) : (s.onRast id f).cores = s.cores := rfl
@[simp] theorem State.onRast_clusters (s : State) (id : Nat) (f : RastSub → RastSub) : (s.onRast id f).clusters = s.clusters := rfl
@[simp] theorem State.onRast_pool (s : State) (id : Nat) (f : RastSub → RastSub) : (s.onRast id f).pool = s.pool := rfl
@[simp] theorem State.onRast_mem (s : State) (id : Nat) (f : RastSub → RastSub) : (s.onRast id f).mem = s.mem := rfl
@[simp] theorem State.onRast_hbm (s : State) (id : Nat) (f : RastSub → RastSub) : (s.onRast id f).hbm = s.hbm := rfl
@[simp] theorem State.onRast_copies (s : State) (id : Nat) (f : RastSub → RastSub) : (s.onRast id f).copies = s.copies := rfl
@[simp] theorem State.onRast_code (s : State) (id : Nat) (f : RastSub → RastSub) : (s.onRast id f).code = s.code := rfl
@[simp] theorem State.onRast_tlbs (s : State) (id : Nat) (f : RastSub → RastSub) : (s.onRast id f).tlbs = s.tlbs := rfl
@[simp] theorem State.onRast_walkCopies (s : State) (id : Nat) (f : RastSub → RastSub) : (s.onRast id f).walkCopies = s.walkCopies := rfl
@[simp] theorem State.onRast_walks (s : State) (id : Nat) (f : RastSub → RastSub) : (s.onRast id f).walks = s.walks := rfl
@[simp] theorem State.onRast_inflight (s : State) (id : Nat) (f : RastSub → RastSub) : (s.onRast id f).inflight = s.inflight := rfl
@[simp] theorem State.onRast_atoms (s : State) (id : Nat) (f : RastSub → RastSub) : (s.onRast id f).atoms = s.atoms := rfl
@[simp] theorem State.onRast_writeBacks (s : State) (id : Nat) (f : RastSub → RastSub) : (s.onRast id f).writeBacks = s.writeBacks := rfl
@[simp] theorem State.onRast_swTags (s : State) (id : Nat) (f : RastSub → RastSub) : (s.onRast id f).swTags = s.swTags := rfl
@[simp] theorem State.onRast_swStamps (s : State) (id : Nat) (f : RastSub → RastSub) : (s.onRast id f).swStamps = s.swStamps := rfl
@[simp] theorem State.onRast_swQueues (s : State) (id : Nat) (f : RastSub → RastSub) : (s.onRast id f).swQueues = s.swQueues := rfl
@[simp] theorem State.onRast_swSince (s : State) (id : Nat) (f : RastSub → RastSub) : (s.onRast id f).swSince = s.swSince := rfl
@[simp] theorem State.onRast_swWalks (s : State) (id : Nat) (f : RastSub → RastSub) : (s.onRast id f).swWalks = s.swWalks := rfl
@[simp] theorem State.onRast_rings (s : State) (id : Nat) (f : RastSub → RastSub) : (s.onRast id f).rings = s.rings := rfl
@[simp] theorem State.onRast_copyOps (s : State) (id : Nat) (f : RastSub → RastSub) : (s.onRast id f).copyOps = s.copyOps := rfl
@[simp] theorem State.onRast_xfms (s : State) (id : Nat) (f : RastSub → RastSub) : (s.onRast id f).xfms = s.xfms := rfl
@[simp] theorem State.onRast_mats (s : State) (id : Nat) (f : RastSub → RastSub) : (s.onRast id f).mats = s.mats := rfl
@[simp] theorem State.onRast_rastOrders (s : State) (id : Nat) (f : RastSub → RastSub) : (s.onRast id f).rastOrders = s.rastOrders := rfl
@[simp] theorem State.onRast_rays (s : State) (id : Nat) (f : RastSub → RastSub) : (s.onRast id f).rays = s.rays := rfl
@[simp] theorem State.onRast_colls (s : State) (id : Nat) (f : RastSub → RastSub) : (s.onRast id f).colls = s.colls := rfl
@[simp] theorem State.onRast_tripped (s : State) (id : Nat) (f : RastSub → RastSub) : (s.onRast id f).tripped = s.tripped := rfl
@[simp] theorem State.onRast_bad (s : State) (id : Nat) (f : RastSub → RastSub) : (s.onRast id f).bad = s.bad := rfl
@[simp] theorem State.onRast_focus (s : State) (id : Nat) (f : RastSub → RastSub) : (s.onRast id f).focus = s.focus := rfl
@[simp] theorem State.onRast_used (s : State) (id : Nat) (f : RastSub → RastSub) : (s.onRast id f).used = s.used := rfl
@[simp] theorem State.onRast_made (s : State) (id : Nat) (f : RastSub → RastSub) : (s.onRast id f).made = s.made := rfl
@[simp] theorem State.onRast_inputs (s : State) (id : Nat) (f : RastSub → RastSub) : (s.onRast id f).inputs = s.inputs := rfl
@[simp] theorem State.onRast_free (s : State) (id : Nat) (f : RastSub → RastSub) : (s.onRast id f).free = s.free := rfl
@[simp] theorem State.onRast_nextId (s : State) (id : Nat) (f : RastSub → RastSub) : (s.onRast id f).nextId = s.nextId := rfl

/-! ## One swatch entry -/

@[simp] theorem State.setSwTag_time (s : State) (n : Nat) (t : SwTag) : (s.setSwTag n t).time = s.time := rfl
@[simp] theorem State.setSwTag_dies (s : State) (n : Nat) (t : SwTag) : (s.setSwTag n t).dies = s.dies := rfl
@[simp] theorem State.setSwTag_boot (s : State) (n : Nat) (t : SwTag) : (s.setSwTag n t).boot = s.boot := rfl
@[simp] theorem State.setSwTag_interleave (s : State) (n : Nat) (t : SwTag) : (s.setSwTag n t).interleave = s.interleave := rfl
@[simp] theorem State.setSwTag_hypEntry (s : State) (n : Nat) (t : SwTag) : (s.setSwTag n t).hypEntry = s.hypEntry := rfl
@[simp] theorem State.setSwTag_hypConst (s : State) (n : Nat) (t : SwTag) : (s.setSwTag n t).hypConst = s.hypConst := rfl
@[simp] theorem State.setSwTag_platformSum (s : State) (n : Nat) (t : SwTag) : (s.setSwTag n t).platformSum = s.platformSum := rfl
@[simp] theorem State.setSwTag_hypSum (s : State) (n : Nat) (t : SwTag) : (s.setSwTag n t).hypSum = s.hypSum := rfl
@[simp] theorem State.setSwTag_device (s : State) (n : Nat) (t : SwTag) : (s.setSwTag n t).device = s.device := rfl
@[simp] theorem State.setSwTag_routes (s : State) (n : Nat) (t : SwTag) : (s.setSwTag n t).routes = s.routes := rfl
@[simp] theorem State.setSwTag_fns (s : State) (n : Nat) (t : SwTag) : (s.setSwTag n t).fns = s.fns := rfl
@[simp] theorem State.setSwTag_panels (s : State) (n : Nat) (t : SwTag) : (s.setSwTag n t).panels = s.panels := rfl
@[simp] theorem State.setSwTag_cores (s : State) (n : Nat) (t : SwTag) : (s.setSwTag n t).cores = s.cores := rfl
@[simp] theorem State.setSwTag_clusters (s : State) (n : Nat) (t : SwTag) : (s.setSwTag n t).clusters = s.clusters := rfl
@[simp] theorem State.setSwTag_pool (s : State) (n : Nat) (t : SwTag) : (s.setSwTag n t).pool = s.pool := rfl
@[simp] theorem State.setSwTag_mem (s : State) (n : Nat) (t : SwTag) : (s.setSwTag n t).mem = s.mem := rfl
@[simp] theorem State.setSwTag_hbm (s : State) (n : Nat) (t : SwTag) : (s.setSwTag n t).hbm = s.hbm := rfl
@[simp] theorem State.setSwTag_copies (s : State) (n : Nat) (t : SwTag) : (s.setSwTag n t).copies = s.copies := rfl
@[simp] theorem State.setSwTag_code (s : State) (n : Nat) (t : SwTag) : (s.setSwTag n t).code = s.code := rfl
@[simp] theorem State.setSwTag_tlbs (s : State) (n : Nat) (t : SwTag) : (s.setSwTag n t).tlbs = s.tlbs := rfl
@[simp] theorem State.setSwTag_walkCopies (s : State) (n : Nat) (t : SwTag) : (s.setSwTag n t).walkCopies = s.walkCopies := rfl
@[simp] theorem State.setSwTag_walks (s : State) (n : Nat) (t : SwTag) : (s.setSwTag n t).walks = s.walks := rfl
@[simp] theorem State.setSwTag_inflight (s : State) (n : Nat) (t : SwTag) : (s.setSwTag n t).inflight = s.inflight := rfl
@[simp] theorem State.setSwTag_atoms (s : State) (n : Nat) (t : SwTag) : (s.setSwTag n t).atoms = s.atoms := rfl
@[simp] theorem State.setSwTag_writeBacks (s : State) (n : Nat) (t : SwTag) : (s.setSwTag n t).writeBacks = s.writeBacks := rfl
@[simp] theorem State.setSwTag_swStamps (s : State) (n : Nat) (t : SwTag) : (s.setSwTag n t).swStamps = s.swStamps := rfl
@[simp] theorem State.setSwTag_swQueues (s : State) (n : Nat) (t : SwTag) : (s.setSwTag n t).swQueues = s.swQueues := rfl
@[simp] theorem State.setSwTag_swSince (s : State) (n : Nat) (t : SwTag) : (s.setSwTag n t).swSince = s.swSince := rfl
@[simp] theorem State.setSwTag_swWalks (s : State) (n : Nat) (t : SwTag) : (s.setSwTag n t).swWalks = s.swWalks := rfl
@[simp] theorem State.setSwTag_rings (s : State) (n : Nat) (t : SwTag) : (s.setSwTag n t).rings = s.rings := rfl
@[simp] theorem State.setSwTag_copyOps (s : State) (n : Nat) (t : SwTag) : (s.setSwTag n t).copyOps = s.copyOps := rfl
@[simp] theorem State.setSwTag_xfms (s : State) (n : Nat) (t : SwTag) : (s.setSwTag n t).xfms = s.xfms := rfl
@[simp] theorem State.setSwTag_mats (s : State) (n : Nat) (t : SwTag) : (s.setSwTag n t).mats = s.mats := rfl
@[simp] theorem State.setSwTag_rastSubs (s : State) (n : Nat) (t : SwTag) : (s.setSwTag n t).rastSubs = s.rastSubs := rfl
@[simp] theorem State.setSwTag_rastOrders (s : State) (n : Nat) (t : SwTag) : (s.setSwTag n t).rastOrders = s.rastOrders := rfl
@[simp] theorem State.setSwTag_rays (s : State) (n : Nat) (t : SwTag) : (s.setSwTag n t).rays = s.rays := rfl
@[simp] theorem State.setSwTag_colls (s : State) (n : Nat) (t : SwTag) : (s.setSwTag n t).colls = s.colls := rfl
@[simp] theorem State.setSwTag_tripped (s : State) (n : Nat) (t : SwTag) : (s.setSwTag n t).tripped = s.tripped := rfl
@[simp] theorem State.setSwTag_bad (s : State) (n : Nat) (t : SwTag) : (s.setSwTag n t).bad = s.bad := rfl
@[simp] theorem State.setSwTag_focus (s : State) (n : Nat) (t : SwTag) : (s.setSwTag n t).focus = s.focus := rfl
@[simp] theorem State.setSwTag_used (s : State) (n : Nat) (t : SwTag) : (s.setSwTag n t).used = s.used := rfl
@[simp] theorem State.setSwTag_made (s : State) (n : Nat) (t : SwTag) : (s.setSwTag n t).made = s.made := rfl
@[simp] theorem State.setSwTag_inputs (s : State) (n : Nat) (t : SwTag) : (s.setSwTag n t).inputs = s.inputs := rfl
@[simp] theorem State.setSwTag_free (s : State) (n : Nat) (t : SwTag) : (s.setSwTag n t).free = s.free := rfl
@[simp] theorem State.setSwTag_nextId (s : State) (n : Nat) (t : SwTag) : (s.setSwTag n t).nextId = s.nextId := rfl

/-! ## One object -/

@[simp] theorem State.setObj_time (s : State) (panel off x : Nat) : (s.setObj panel off x).time = s.time := rfl
@[simp] theorem State.setObj_dies (s : State) (panel off x : Nat) : (s.setObj panel off x).dies = s.dies := rfl
@[simp] theorem State.setObj_boot (s : State) (panel off x : Nat) : (s.setObj panel off x).boot = s.boot := rfl
@[simp] theorem State.setObj_interleave (s : State) (panel off x : Nat) : (s.setObj panel off x).interleave = s.interleave := rfl
@[simp] theorem State.setObj_hypEntry (s : State) (panel off x : Nat) : (s.setObj panel off x).hypEntry = s.hypEntry := rfl
@[simp] theorem State.setObj_hypConst (s : State) (panel off x : Nat) : (s.setObj panel off x).hypConst = s.hypConst := rfl
@[simp] theorem State.setObj_platformSum (s : State) (panel off x : Nat) : (s.setObj panel off x).platformSum = s.platformSum := rfl
@[simp] theorem State.setObj_hypSum (s : State) (panel off x : Nat) : (s.setObj panel off x).hypSum = s.hypSum := rfl
@[simp] theorem State.setObj_device (s : State) (panel off x : Nat) : (s.setObj panel off x).device = s.device := rfl
@[simp] theorem State.setObj_routes (s : State) (panel off x : Nat) : (s.setObj panel off x).routes = s.routes := rfl
@[simp] theorem State.setObj_fns (s : State) (panel off x : Nat) : (s.setObj panel off x).fns = s.fns := rfl
@[simp] theorem State.setObj_cores (s : State) (panel off x : Nat) : (s.setObj panel off x).cores = s.cores := rfl
@[simp] theorem State.setObj_clusters (s : State) (panel off x : Nat) : (s.setObj panel off x).clusters = s.clusters := rfl
@[simp] theorem State.setObj_pool (s : State) (panel off x : Nat) : (s.setObj panel off x).pool = s.pool := rfl
@[simp] theorem State.setObj_mem (s : State) (panel off x : Nat) : (s.setObj panel off x).mem = s.mem := rfl
@[simp] theorem State.setObj_hbm (s : State) (panel off x : Nat) : (s.setObj panel off x).hbm = s.hbm := rfl
@[simp] theorem State.setObj_copies (s : State) (panel off x : Nat) : (s.setObj panel off x).copies = s.copies := rfl
@[simp] theorem State.setObj_code (s : State) (panel off x : Nat) : (s.setObj panel off x).code = s.code := rfl
@[simp] theorem State.setObj_tlbs (s : State) (panel off x : Nat) : (s.setObj panel off x).tlbs = s.tlbs := rfl
@[simp] theorem State.setObj_walkCopies (s : State) (panel off x : Nat) : (s.setObj panel off x).walkCopies = s.walkCopies := rfl
@[simp] theorem State.setObj_walks (s : State) (panel off x : Nat) : (s.setObj panel off x).walks = s.walks := rfl
@[simp] theorem State.setObj_inflight (s : State) (panel off x : Nat) : (s.setObj panel off x).inflight = s.inflight := rfl
@[simp] theorem State.setObj_atoms (s : State) (panel off x : Nat) : (s.setObj panel off x).atoms = s.atoms := rfl
@[simp] theorem State.setObj_writeBacks (s : State) (panel off x : Nat) : (s.setObj panel off x).writeBacks = s.writeBacks := rfl
@[simp] theorem State.setObj_swTags (s : State) (panel off x : Nat) : (s.setObj panel off x).swTags = s.swTags := rfl
@[simp] theorem State.setObj_swStamps (s : State) (panel off x : Nat) : (s.setObj panel off x).swStamps = s.swStamps := rfl
@[simp] theorem State.setObj_swQueues (s : State) (panel off x : Nat) : (s.setObj panel off x).swQueues = s.swQueues := rfl
@[simp] theorem State.setObj_swSince (s : State) (panel off x : Nat) : (s.setObj panel off x).swSince = s.swSince := rfl
@[simp] theorem State.setObj_swWalks (s : State) (panel off x : Nat) : (s.setObj panel off x).swWalks = s.swWalks := rfl
@[simp] theorem State.setObj_rings (s : State) (panel off x : Nat) : (s.setObj panel off x).rings = s.rings := rfl
@[simp] theorem State.setObj_copyOps (s : State) (panel off x : Nat) : (s.setObj panel off x).copyOps = s.copyOps := rfl
@[simp] theorem State.setObj_xfms (s : State) (panel off x : Nat) : (s.setObj panel off x).xfms = s.xfms := rfl
@[simp] theorem State.setObj_mats (s : State) (panel off x : Nat) : (s.setObj panel off x).mats = s.mats := rfl
@[simp] theorem State.setObj_rastSubs (s : State) (panel off x : Nat) : (s.setObj panel off x).rastSubs = s.rastSubs := rfl
@[simp] theorem State.setObj_rastOrders (s : State) (panel off x : Nat) : (s.setObj panel off x).rastOrders = s.rastOrders := rfl
@[simp] theorem State.setObj_rays (s : State) (panel off x : Nat) : (s.setObj panel off x).rays = s.rays := rfl
@[simp] theorem State.setObj_colls (s : State) (panel off x : Nat) : (s.setObj panel off x).colls = s.colls := rfl
@[simp] theorem State.setObj_tripped (s : State) (panel off x : Nat) : (s.setObj panel off x).tripped = s.tripped := rfl
@[simp] theorem State.setObj_focus (s : State) (panel off x : Nat) : (s.setObj panel off x).focus = s.focus := rfl
@[simp] theorem State.setObj_used (s : State) (panel off x : Nat) : (s.setObj panel off x).used = s.used := rfl
@[simp] theorem State.setObj_made (s : State) (panel off x : Nat) : (s.setObj panel off x).made = s.made := rfl
@[simp] theorem State.setObj_inputs (s : State) (panel off x : Nat) : (s.setObj panel off x).inputs = s.inputs := rfl
@[simp] theorem State.setObj_free (s : State) (panel off x : Nat) : (s.setObj panel off x).free = s.free := rfl
@[simp] theorem State.setObj_nextId (s : State) (panel off x : Nat) : (s.setObj panel off x).nextId = s.nextId := rfl

/-! ## Markers cleared -/

@[simp] theorem State.heal_time (s : State) (r : Sys2Proof.Region) (a n : Nat) : (s.heal r a n).time = s.time := rfl
@[simp] theorem State.heal_dies (s : State) (r : Sys2Proof.Region) (a n : Nat) : (s.heal r a n).dies = s.dies := rfl
@[simp] theorem State.heal_boot (s : State) (r : Sys2Proof.Region) (a n : Nat) : (s.heal r a n).boot = s.boot := rfl
@[simp] theorem State.heal_interleave (s : State) (r : Sys2Proof.Region) (a n : Nat) : (s.heal r a n).interleave = s.interleave := rfl
@[simp] theorem State.heal_hypEntry (s : State) (r : Sys2Proof.Region) (a n : Nat) : (s.heal r a n).hypEntry = s.hypEntry := rfl
@[simp] theorem State.heal_hypConst (s : State) (r : Sys2Proof.Region) (a n : Nat) : (s.heal r a n).hypConst = s.hypConst := rfl
@[simp] theorem State.heal_platformSum (s : State) (r : Sys2Proof.Region) (a n : Nat) : (s.heal r a n).platformSum = s.platformSum := rfl
@[simp] theorem State.heal_hypSum (s : State) (r : Sys2Proof.Region) (a n : Nat) : (s.heal r a n).hypSum = s.hypSum := rfl
@[simp] theorem State.heal_device (s : State) (r : Sys2Proof.Region) (a n : Nat) : (s.heal r a n).device = s.device := rfl
@[simp] theorem State.heal_routes (s : State) (r : Sys2Proof.Region) (a n : Nat) : (s.heal r a n).routes = s.routes := rfl
@[simp] theorem State.heal_fns (s : State) (r : Sys2Proof.Region) (a n : Nat) : (s.heal r a n).fns = s.fns := rfl
@[simp] theorem State.heal_panels (s : State) (r : Sys2Proof.Region) (a n : Nat) : (s.heal r a n).panels = s.panels := rfl
@[simp] theorem State.heal_cores (s : State) (r : Sys2Proof.Region) (a n : Nat) : (s.heal r a n).cores = s.cores := rfl
@[simp] theorem State.heal_clusters (s : State) (r : Sys2Proof.Region) (a n : Nat) : (s.heal r a n).clusters = s.clusters := rfl
@[simp] theorem State.heal_pool (s : State) (r : Sys2Proof.Region) (a n : Nat) : (s.heal r a n).pool = s.pool := rfl
@[simp] theorem State.heal_mem (s : State) (r : Sys2Proof.Region) (a n : Nat) : (s.heal r a n).mem = s.mem := rfl
@[simp] theorem State.heal_hbm (s : State) (r : Sys2Proof.Region) (a n : Nat) : (s.heal r a n).hbm = s.hbm := rfl
@[simp] theorem State.heal_copies (s : State) (r : Sys2Proof.Region) (a n : Nat) : (s.heal r a n).copies = s.copies := rfl
@[simp] theorem State.heal_code (s : State) (r : Sys2Proof.Region) (a n : Nat) : (s.heal r a n).code = s.code := rfl
@[simp] theorem State.heal_tlbs (s : State) (r : Sys2Proof.Region) (a n : Nat) : (s.heal r a n).tlbs = s.tlbs := rfl
@[simp] theorem State.heal_walkCopies (s : State) (r : Sys2Proof.Region) (a n : Nat) : (s.heal r a n).walkCopies = s.walkCopies := rfl
@[simp] theorem State.heal_walks (s : State) (r : Sys2Proof.Region) (a n : Nat) : (s.heal r a n).walks = s.walks := rfl
@[simp] theorem State.heal_inflight (s : State) (r : Sys2Proof.Region) (a n : Nat) : (s.heal r a n).inflight = s.inflight := rfl
@[simp] theorem State.heal_atoms (s : State) (r : Sys2Proof.Region) (a n : Nat) : (s.heal r a n).atoms = s.atoms := rfl
@[simp] theorem State.heal_writeBacks (s : State) (r : Sys2Proof.Region) (a n : Nat) : (s.heal r a n).writeBacks = s.writeBacks := rfl
@[simp] theorem State.heal_swTags (s : State) (r : Sys2Proof.Region) (a n : Nat) : (s.heal r a n).swTags = s.swTags := rfl
@[simp] theorem State.heal_swStamps (s : State) (r : Sys2Proof.Region) (a n : Nat) : (s.heal r a n).swStamps = s.swStamps := rfl
@[simp] theorem State.heal_swQueues (s : State) (r : Sys2Proof.Region) (a n : Nat) : (s.heal r a n).swQueues = s.swQueues := rfl
@[simp] theorem State.heal_swSince (s : State) (r : Sys2Proof.Region) (a n : Nat) : (s.heal r a n).swSince = s.swSince := rfl
@[simp] theorem State.heal_swWalks (s : State) (r : Sys2Proof.Region) (a n : Nat) : (s.heal r a n).swWalks = s.swWalks := rfl
@[simp] theorem State.heal_rings (s : State) (r : Sys2Proof.Region) (a n : Nat) : (s.heal r a n).rings = s.rings := rfl
@[simp] theorem State.heal_copyOps (s : State) (r : Sys2Proof.Region) (a n : Nat) : (s.heal r a n).copyOps = s.copyOps := rfl
@[simp] theorem State.heal_xfms (s : State) (r : Sys2Proof.Region) (a n : Nat) : (s.heal r a n).xfms = s.xfms := rfl
@[simp] theorem State.heal_mats (s : State) (r : Sys2Proof.Region) (a n : Nat) : (s.heal r a n).mats = s.mats := rfl
@[simp] theorem State.heal_rastSubs (s : State) (r : Sys2Proof.Region) (a n : Nat) : (s.heal r a n).rastSubs = s.rastSubs := rfl
@[simp] theorem State.heal_rastOrders (s : State) (r : Sys2Proof.Region) (a n : Nat) : (s.heal r a n).rastOrders = s.rastOrders := rfl
@[simp] theorem State.heal_rays (s : State) (r : Sys2Proof.Region) (a n : Nat) : (s.heal r a n).rays = s.rays := rfl
@[simp] theorem State.heal_colls (s : State) (r : Sys2Proof.Region) (a n : Nat) : (s.heal r a n).colls = s.colls := rfl
@[simp] theorem State.heal_tripped (s : State) (r : Sys2Proof.Region) (a n : Nat) : (s.heal r a n).tripped = s.tripped := rfl
@[simp] theorem State.heal_focus (s : State) (r : Sys2Proof.Region) (a n : Nat) : (s.heal r a n).focus = s.focus := rfl
@[simp] theorem State.heal_used (s : State) (r : Sys2Proof.Region) (a n : Nat) : (s.heal r a n).used = s.used := rfl
@[simp] theorem State.heal_made (s : State) (r : Sys2Proof.Region) (a n : Nat) : (s.heal r a n).made = s.made := rfl
@[simp] theorem State.heal_inputs (s : State) (r : Sys2Proof.Region) (a n : Nat) : (s.heal r a n).inputs = s.inputs := rfl
@[simp] theorem State.heal_free (s : State) (r : Sys2Proof.Region) (a n : Nat) : (s.heal r a n).free = s.free := rfl
@[simp] theorem State.heal_nextId (s : State) (r : Sys2Proof.Region) (a n : Nat) : (s.heal r a n).nextId = s.nextId := rfl

/-! ## Markers carried -/

@[simp] theorem State.carry_time (s : State) (r : Sys2Proof.Region) (a : Nat) (q : Sys2Proof.Region) (b n : Nat) : (s.carry r a q b n).time = s.time := rfl
@[simp] theorem State.carry_dies (s : State) (r : Sys2Proof.Region) (a : Nat) (q : Sys2Proof.Region) (b n : Nat) : (s.carry r a q b n).dies = s.dies := rfl
@[simp] theorem State.carry_boot (s : State) (r : Sys2Proof.Region) (a : Nat) (q : Sys2Proof.Region) (b n : Nat) : (s.carry r a q b n).boot = s.boot := rfl
@[simp] theorem State.carry_interleave (s : State) (r : Sys2Proof.Region) (a : Nat) (q : Sys2Proof.Region) (b n : Nat) : (s.carry r a q b n).interleave = s.interleave := rfl
@[simp] theorem State.carry_hypEntry (s : State) (r : Sys2Proof.Region) (a : Nat) (q : Sys2Proof.Region) (b n : Nat) : (s.carry r a q b n).hypEntry = s.hypEntry := rfl
@[simp] theorem State.carry_hypConst (s : State) (r : Sys2Proof.Region) (a : Nat) (q : Sys2Proof.Region) (b n : Nat) : (s.carry r a q b n).hypConst = s.hypConst := rfl
@[simp] theorem State.carry_platformSum (s : State) (r : Sys2Proof.Region) (a : Nat) (q : Sys2Proof.Region) (b n : Nat) : (s.carry r a q b n).platformSum = s.platformSum := rfl
@[simp] theorem State.carry_hypSum (s : State) (r : Sys2Proof.Region) (a : Nat) (q : Sys2Proof.Region) (b n : Nat) : (s.carry r a q b n).hypSum = s.hypSum := rfl
@[simp] theorem State.carry_device (s : State) (r : Sys2Proof.Region) (a : Nat) (q : Sys2Proof.Region) (b n : Nat) : (s.carry r a q b n).device = s.device := rfl
@[simp] theorem State.carry_routes (s : State) (r : Sys2Proof.Region) (a : Nat) (q : Sys2Proof.Region) (b n : Nat) : (s.carry r a q b n).routes = s.routes := rfl
@[simp] theorem State.carry_fns (s : State) (r : Sys2Proof.Region) (a : Nat) (q : Sys2Proof.Region) (b n : Nat) : (s.carry r a q b n).fns = s.fns := rfl
@[simp] theorem State.carry_panels (s : State) (r : Sys2Proof.Region) (a : Nat) (q : Sys2Proof.Region) (b n : Nat) : (s.carry r a q b n).panels = s.panels := rfl
@[simp] theorem State.carry_cores (s : State) (r : Sys2Proof.Region) (a : Nat) (q : Sys2Proof.Region) (b n : Nat) : (s.carry r a q b n).cores = s.cores := rfl
@[simp] theorem State.carry_clusters (s : State) (r : Sys2Proof.Region) (a : Nat) (q : Sys2Proof.Region) (b n : Nat) : (s.carry r a q b n).clusters = s.clusters := rfl
@[simp] theorem State.carry_pool (s : State) (r : Sys2Proof.Region) (a : Nat) (q : Sys2Proof.Region) (b n : Nat) : (s.carry r a q b n).pool = s.pool := rfl
@[simp] theorem State.carry_mem (s : State) (r : Sys2Proof.Region) (a : Nat) (q : Sys2Proof.Region) (b n : Nat) : (s.carry r a q b n).mem = s.mem := rfl
@[simp] theorem State.carry_hbm (s : State) (r : Sys2Proof.Region) (a : Nat) (q : Sys2Proof.Region) (b n : Nat) : (s.carry r a q b n).hbm = s.hbm := rfl
@[simp] theorem State.carry_copies (s : State) (r : Sys2Proof.Region) (a : Nat) (q : Sys2Proof.Region) (b n : Nat) : (s.carry r a q b n).copies = s.copies := rfl
@[simp] theorem State.carry_code (s : State) (r : Sys2Proof.Region) (a : Nat) (q : Sys2Proof.Region) (b n : Nat) : (s.carry r a q b n).code = s.code := rfl
@[simp] theorem State.carry_tlbs (s : State) (r : Sys2Proof.Region) (a : Nat) (q : Sys2Proof.Region) (b n : Nat) : (s.carry r a q b n).tlbs = s.tlbs := rfl
@[simp] theorem State.carry_walkCopies (s : State) (r : Sys2Proof.Region) (a : Nat) (q : Sys2Proof.Region) (b n : Nat) : (s.carry r a q b n).walkCopies = s.walkCopies := rfl
@[simp] theorem State.carry_walks (s : State) (r : Sys2Proof.Region) (a : Nat) (q : Sys2Proof.Region) (b n : Nat) : (s.carry r a q b n).walks = s.walks := rfl
@[simp] theorem State.carry_inflight (s : State) (r : Sys2Proof.Region) (a : Nat) (q : Sys2Proof.Region) (b n : Nat) : (s.carry r a q b n).inflight = s.inflight := rfl
@[simp] theorem State.carry_atoms (s : State) (r : Sys2Proof.Region) (a : Nat) (q : Sys2Proof.Region) (b n : Nat) : (s.carry r a q b n).atoms = s.atoms := rfl
@[simp] theorem State.carry_writeBacks (s : State) (r : Sys2Proof.Region) (a : Nat) (q : Sys2Proof.Region) (b n : Nat) : (s.carry r a q b n).writeBacks = s.writeBacks := rfl
@[simp] theorem State.carry_swTags (s : State) (r : Sys2Proof.Region) (a : Nat) (q : Sys2Proof.Region) (b n : Nat) : (s.carry r a q b n).swTags = s.swTags := rfl
@[simp] theorem State.carry_swStamps (s : State) (r : Sys2Proof.Region) (a : Nat) (q : Sys2Proof.Region) (b n : Nat) : (s.carry r a q b n).swStamps = s.swStamps := rfl
@[simp] theorem State.carry_swQueues (s : State) (r : Sys2Proof.Region) (a : Nat) (q : Sys2Proof.Region) (b n : Nat) : (s.carry r a q b n).swQueues = s.swQueues := rfl
@[simp] theorem State.carry_swSince (s : State) (r : Sys2Proof.Region) (a : Nat) (q : Sys2Proof.Region) (b n : Nat) : (s.carry r a q b n).swSince = s.swSince := rfl
@[simp] theorem State.carry_swWalks (s : State) (r : Sys2Proof.Region) (a : Nat) (q : Sys2Proof.Region) (b n : Nat) : (s.carry r a q b n).swWalks = s.swWalks := rfl
@[simp] theorem State.carry_rings (s : State) (r : Sys2Proof.Region) (a : Nat) (q : Sys2Proof.Region) (b n : Nat) : (s.carry r a q b n).rings = s.rings := rfl
@[simp] theorem State.carry_copyOps (s : State) (r : Sys2Proof.Region) (a : Nat) (q : Sys2Proof.Region) (b n : Nat) : (s.carry r a q b n).copyOps = s.copyOps := rfl
@[simp] theorem State.carry_xfms (s : State) (r : Sys2Proof.Region) (a : Nat) (q : Sys2Proof.Region) (b n : Nat) : (s.carry r a q b n).xfms = s.xfms := rfl
@[simp] theorem State.carry_mats (s : State) (r : Sys2Proof.Region) (a : Nat) (q : Sys2Proof.Region) (b n : Nat) : (s.carry r a q b n).mats = s.mats := rfl
@[simp] theorem State.carry_rastSubs (s : State) (r : Sys2Proof.Region) (a : Nat) (q : Sys2Proof.Region) (b n : Nat) : (s.carry r a q b n).rastSubs = s.rastSubs := rfl
@[simp] theorem State.carry_rastOrders (s : State) (r : Sys2Proof.Region) (a : Nat) (q : Sys2Proof.Region) (b n : Nat) : (s.carry r a q b n).rastOrders = s.rastOrders := rfl
@[simp] theorem State.carry_rays (s : State) (r : Sys2Proof.Region) (a : Nat) (q : Sys2Proof.Region) (b n : Nat) : (s.carry r a q b n).rays = s.rays := rfl
@[simp] theorem State.carry_colls (s : State) (r : Sys2Proof.Region) (a : Nat) (q : Sys2Proof.Region) (b n : Nat) : (s.carry r a q b n).colls = s.colls := rfl
@[simp] theorem State.carry_tripped (s : State) (r : Sys2Proof.Region) (a : Nat) (q : Sys2Proof.Region) (b n : Nat) : (s.carry r a q b n).tripped = s.tripped := rfl
@[simp] theorem State.carry_focus (s : State) (r : Sys2Proof.Region) (a : Nat) (q : Sys2Proof.Region) (b n : Nat) : (s.carry r a q b n).focus = s.focus := rfl
@[simp] theorem State.carry_used (s : State) (r : Sys2Proof.Region) (a : Nat) (q : Sys2Proof.Region) (b n : Nat) : (s.carry r a q b n).used = s.used := rfl
@[simp] theorem State.carry_made (s : State) (r : Sys2Proof.Region) (a : Nat) (q : Sys2Proof.Region) (b n : Nat) : (s.carry r a q b n).made = s.made := rfl
@[simp] theorem State.carry_inputs (s : State) (r : Sys2Proof.Region) (a : Nat) (q : Sys2Proof.Region) (b n : Nat) : (s.carry r a q b n).inputs = s.inputs := rfl
@[simp] theorem State.carry_free (s : State) (r : Sys2Proof.Region) (a : Nat) (q : Sys2Proof.Region) (b n : Nat) : (s.carry r a q b n).free = s.free := rfl
@[simp] theorem State.carry_nextId (s : State) (r : Sys2Proof.Region) (a : Nat) (q : Sys2Proof.Region) (b n : Nat) : (s.carry r a q b n).nextId = s.nextId := rfl

/-! ## Fresh memory -/

@[simp] theorem State.setMem_time (s : State) (m : Bytes) (a n : Nat) : (s.setMem m a n).time = s.time := rfl
@[simp] theorem State.setMem_dies (s : State) (m : Bytes) (a n : Nat) : (s.setMem m a n).dies = s.dies := rfl
@[simp] theorem State.setMem_boot (s : State) (m : Bytes) (a n : Nat) : (s.setMem m a n).boot = s.boot := rfl
@[simp] theorem State.setMem_interleave (s : State) (m : Bytes) (a n : Nat) : (s.setMem m a n).interleave = s.interleave := rfl
@[simp] theorem State.setMem_hypEntry (s : State) (m : Bytes) (a n : Nat) : (s.setMem m a n).hypEntry = s.hypEntry := rfl
@[simp] theorem State.setMem_hypConst (s : State) (m : Bytes) (a n : Nat) : (s.setMem m a n).hypConst = s.hypConst := rfl
@[simp] theorem State.setMem_platformSum (s : State) (m : Bytes) (a n : Nat) : (s.setMem m a n).platformSum = s.platformSum := rfl
@[simp] theorem State.setMem_hypSum (s : State) (m : Bytes) (a n : Nat) : (s.setMem m a n).hypSum = s.hypSum := rfl
@[simp] theorem State.setMem_device (s : State) (m : Bytes) (a n : Nat) : (s.setMem m a n).device = s.device := rfl
@[simp] theorem State.setMem_routes (s : State) (m : Bytes) (a n : Nat) : (s.setMem m a n).routes = s.routes := rfl
@[simp] theorem State.setMem_fns (s : State) (m : Bytes) (a n : Nat) : (s.setMem m a n).fns = s.fns := rfl
@[simp] theorem State.setMem_panels (s : State) (m : Bytes) (a n : Nat) : (s.setMem m a n).panels = s.panels := rfl
@[simp] theorem State.setMem_cores (s : State) (m : Bytes) (a n : Nat) : (s.setMem m a n).cores = s.cores := rfl
@[simp] theorem State.setMem_clusters (s : State) (m : Bytes) (a n : Nat) : (s.setMem m a n).clusters = s.clusters := rfl
@[simp] theorem State.setMem_pool (s : State) (m : Bytes) (a n : Nat) : (s.setMem m a n).pool = s.pool := rfl
@[simp] theorem State.setMem_hbm (s : State) (m : Bytes) (a n : Nat) : (s.setMem m a n).hbm = s.hbm := rfl
@[simp] theorem State.setMem_copies (s : State) (m : Bytes) (a n : Nat) : (s.setMem m a n).copies = s.copies := rfl
@[simp] theorem State.setMem_code (s : State) (m : Bytes) (a n : Nat) : (s.setMem m a n).code = s.code := rfl
@[simp] theorem State.setMem_tlbs (s : State) (m : Bytes) (a n : Nat) : (s.setMem m a n).tlbs = s.tlbs := rfl
@[simp] theorem State.setMem_walkCopies (s : State) (m : Bytes) (a n : Nat) : (s.setMem m a n).walkCopies = s.walkCopies := rfl
@[simp] theorem State.setMem_walks (s : State) (m : Bytes) (a n : Nat) : (s.setMem m a n).walks = s.walks := rfl
@[simp] theorem State.setMem_inflight (s : State) (m : Bytes) (a n : Nat) : (s.setMem m a n).inflight = s.inflight := rfl
@[simp] theorem State.setMem_atoms (s : State) (m : Bytes) (a n : Nat) : (s.setMem m a n).atoms = s.atoms := rfl
@[simp] theorem State.setMem_writeBacks (s : State) (m : Bytes) (a n : Nat) : (s.setMem m a n).writeBacks = s.writeBacks := rfl
@[simp] theorem State.setMem_swTags (s : State) (m : Bytes) (a n : Nat) : (s.setMem m a n).swTags = s.swTags := rfl
@[simp] theorem State.setMem_swStamps (s : State) (m : Bytes) (a n : Nat) : (s.setMem m a n).swStamps = s.swStamps := rfl
@[simp] theorem State.setMem_swQueues (s : State) (m : Bytes) (a n : Nat) : (s.setMem m a n).swQueues = s.swQueues := rfl
@[simp] theorem State.setMem_swSince (s : State) (m : Bytes) (a n : Nat) : (s.setMem m a n).swSince = s.swSince := rfl
@[simp] theorem State.setMem_swWalks (s : State) (m : Bytes) (a n : Nat) : (s.setMem m a n).swWalks = s.swWalks := rfl
@[simp] theorem State.setMem_rings (s : State) (m : Bytes) (a n : Nat) : (s.setMem m a n).rings = s.rings := rfl
@[simp] theorem State.setMem_copyOps (s : State) (m : Bytes) (a n : Nat) : (s.setMem m a n).copyOps = s.copyOps := rfl
@[simp] theorem State.setMem_xfms (s : State) (m : Bytes) (a n : Nat) : (s.setMem m a n).xfms = s.xfms := rfl
@[simp] theorem State.setMem_mats (s : State) (m : Bytes) (a n : Nat) : (s.setMem m a n).mats = s.mats := rfl
@[simp] theorem State.setMem_rastSubs (s : State) (m : Bytes) (a n : Nat) : (s.setMem m a n).rastSubs = s.rastSubs := rfl
@[simp] theorem State.setMem_rastOrders (s : State) (m : Bytes) (a n : Nat) : (s.setMem m a n).rastOrders = s.rastOrders := rfl
@[simp] theorem State.setMem_rays (s : State) (m : Bytes) (a n : Nat) : (s.setMem m a n).rays = s.rays := rfl
@[simp] theorem State.setMem_colls (s : State) (m : Bytes) (a n : Nat) : (s.setMem m a n).colls = s.colls := rfl
@[simp] theorem State.setMem_tripped (s : State) (m : Bytes) (a n : Nat) : (s.setMem m a n).tripped = s.tripped := rfl
@[simp] theorem State.setMem_focus (s : State) (m : Bytes) (a n : Nat) : (s.setMem m a n).focus = s.focus := rfl
@[simp] theorem State.setMem_used (s : State) (m : Bytes) (a n : Nat) : (s.setMem m a n).used = s.used := rfl
@[simp] theorem State.setMem_made (s : State) (m : Bytes) (a n : Nat) : (s.setMem m a n).made = s.made := rfl
@[simp] theorem State.setMem_inputs (s : State) (m : Bytes) (a n : Nat) : (s.setMem m a n).inputs = s.inputs := rfl
@[simp] theorem State.setMem_free (s : State) (m : Bytes) (a n : Nat) : (s.setMem m a n).free = s.free := rfl
@[simp] theorem State.setMem_nextId (s : State) (m : Bytes) (a n : Nat) : (s.setMem m a n).nextId = s.nextId := rfl

/-! ## One skein of a panel -/

@[simp] theorem Panel.onSkein_id (p : Panel) (k : Nat) (f : Skein → Skein) : (p.onSkein k f).id = p.id := rfl
@[simp] theorem Panel.onSkein_fn (p : Panel) (k : Nat) (f : Skein → Skein) : (p.onSkein k f).fn = p.fn := rfl
@[simp] theorem Panel.onSkein_handle (p : Panel) (k : Nat) (f : Skein → Skein) : (p.onSkein k f).handle = p.handle := rfl
@[simp] theorem Panel.onSkein_node (p : Panel) (k : Nat) (f : Skein → Skein) : (p.onSkein k f).node = p.node := rfl
@[simp] theorem Panel.onSkein_label (p : Panel) (k : Nat) (f : Skein → Skein) : (p.onSkein k f).label = p.label := rfl
@[simp] theorem Panel.onSkein_ix (p : Panel) (k : Nat) (f : Skein → Skein) : (p.onSkein k f).ix = p.ix := rfl
@[simp] theorem Panel.onSkein_argAddr (p : Panel) (k : Nat) (f : Skein → Skein) : (p.onSkein k f).argAddr = p.argAddr := rfl
@[simp] theorem Panel.onSkein_kernel (p : Panel) (k : Nat) (f : Skein → Skein) : (p.onSkein k f).kernel = p.kernel := rfl
@[simp] theorem Panel.onSkein_image (p : Panel) (k : Nat) (f : Skein → Skein) : (p.onSkein k f).image = p.image := rfl
@[simp] theorem Panel.onSkein_core (p : Panel) (k : Nat) (f : Skein → Skein) : (p.onSkein k f).core = p.core := rfl
@[simp] theorem Panel.onSkein_granules (p : Panel) (k : Nat) (f : Skein → Skein) : (p.onSkein k f).granules = p.granules := rfl
@[simp] theorem Panel.onSkein_scratchAt (p : Panel) (k : Nat) (f : Skein → Skein) : (p.onSkein k f).scratchAt = p.scratchAt := rfl
@[simp] theorem Panel.onSkein_opbufAt (p : Panel) (k : Nat) (f : Skein → Skein) : (p.onSkein k f).opbufAt = p.opbufAt := rfl
@[simp] theorem Panel.onSkein_ringAt (p : Panel) (k : Nat) (f : Skein → Skein) : (p.onSkein k f).ringAt = p.ringAt := rfl
@[simp] theorem Panel.onSkein_ringBytes (p : Panel) (k : Nat) (f : Skein → Skein) : (p.onSkein k f).ringBytes = p.ringBytes := rfl
@[simp] theorem Panel.onSkein_since (p : Panel) (k : Nat) (f : Skein → Skein) : (p.onSkein k f).since = p.since := rfl
@[simp] theorem Panel.onSkein_level (p : Panel) (k : Nat) (f : Skein → Skein) : (p.onSkein k f).level = p.level := rfl
@[simp] theorem Panel.onSkein_slot (p : Panel) (k : Nat) (f : Skein → Skein) : (p.onSkein k f).slot = p.slot := rfl
@[simp] theorem Panel.onSkein_gang (p : Panel) (k : Nat) (f : Skein → Skein) : (p.onSkein k f).gang = p.gang := rfl
@[simp] theorem Panel.onSkein_scratch (p : Panel) (k : Nat) (f : Skein → Skein) : (p.onSkein k f).scratch = p.scratch := rfl
@[simp] theorem Panel.onSkein_opbuf (p : Panel) (k : Nat) (f : Skein → Skein) : (p.onSkein k f).opbuf = p.opbuf := rfl
@[simp] theorem Panel.onSkein_resv (p : Panel) (k : Nat) (f : Skein → Skein) : (p.onSkein k f).resv = p.resv := rfl
@[simp] theorem Panel.onSkein_bars (p : Panel) (k : Nat) (f : Skein → Skein) : (p.onSkein k f).bars = p.bars := rfl
@[simp] theorem Panel.onSkein_tiles (p : Panel) (k : Nat) (f : Skein → Skein) : (p.onSkein k f).tiles = p.tiles := rfl
@[simp] theorem Panel.onSkein_chans (p : Panel) (k : Nat) (f : Skein → Skein) : (p.onSkein k f).chans = p.chans := rfl
@[simp] theorem Panel.onSkein_cands (p : Panel) (k : Nat) (f : Skein → Skein) : (p.onSkein k f).cands = p.cands := rfl
@[simp] theorem Panel.onSkein_preq (p : Panel) (k : Nat) (f : Skein → Skein) : (p.onSkein k f).preq = p.preq := rfl
@[simp] theorem Panel.onSkein_deadline (p : Panel) (k : Nat) (f : Skein → Skein) : (p.onSkein k f).deadline = p.deadline := rfl
@[simp] theorem Panel.onSkein_timer (p : Panel) (k : Nat) (f : Skein → Skein) : (p.onSkein k f).timer = p.timer := rfl
@[simp] theorem Panel.onSkein_skid (p : Panel) (k : Nat) (f : Skein → Skein) : (p.onSkein k f).skid = p.skid := rfl
@[simp] theorem Panel.onSkein_dbgreq (p : Panel) (k : Nat) (f : Skein → Skein) : (p.onSkein k f).dbgreq = p.dbgreq := rfl
@[simp] theorem Panel.onSkein_dbgstat (p : Panel) (k : Nat) (f : Skein → Skein) : (p.onSkein k f).dbgstat = p.dbgstat := rfl
@[simp] theorem Panel.onSkein_dbgdata (p : Panel) (k : Nat) (f : Skein → Skein) : (p.onSkein k f).dbgdata = p.dbgdata := rfl
@[simp] theorem Panel.onSkein_dbg (p : Panel) (k : Nat) (f : Skein → Skein) : (p.onSkein k f).dbg = p.dbg := rfl
@[simp] theorem Panel.onSkein_quiet (p : Panel) (k : Nat) (f : Skein → Skein) : (p.onSkein k f).quiet = p.quiet := rfl
@[simp] theorem Panel.onSkein_thaw (p : Panel) (k : Nat) (f : Skein → Skein) : (p.onSkein k f).thaw = p.thaw := rfl
@[simp] theorem Panel.onSkein_range (p : Panel) (k : Nat) (f : Skein → Skein) : (p.onSkein k f).range = p.range := rfl
@[simp] theorem Panel.onSkein_halt (p : Panel) (k : Nat) (f : Skein → Skein) : (p.onSkein k f).halt = p.halt := rfl
@[simp] theorem Panel.onSkein_saving (p : Panel) (k : Nat) (f : Skein → Skein) : (p.onSkein k f).saving = p.saving := rfl

/-! ## One lane of a skein -/

@[simp] theorem Skein.onLane_ix (k : Skein) (l : Nat) (f : Lane → Lane) : (k.onLane l f).ix = k.ix := rfl
@[simp] theorem Skein.onLane_pipe (k : Skein) (l : Nat) (f : Lane → Lane) : (k.onLane l f).pipe = k.pipe := rfl
@[simp] theorem Skein.onLane_k (k : Skein) (l : Nat) (f : Lane → Lane) : (k.onLane l f).k = k.k := rfl
@[simp] theorem Skein.onLane_s (k : Skein) (l : Nat) (f : Lane → Lane) : (k.onLane l f).s = k.s := rfl
@[simp] theorem Skein.onLane_xSup (k : Skein) (l : Nat) (f : Lane → Lane) : (k.onLane l f).xSup = k.xSup := rfl
@[simp] theorem Skein.onLane_xHyp (k : Skein) (l : Nat) (f : Lane → Lane) : (k.onLane l f).xHyp = k.xHyp := rfl
@[simp] theorem Skein.onLane_fpmode (k : Skein) (l : Nat) (f : Lane → Lane) : (k.onLane l f).fpmode = k.fpmode := rfl
@[simp] theorem Skein.onLane_fpflags (k : Skein) (l : Nat) (f : Lane → Lane) : (k.onLane l f).fpflags = k.fpflags := rfl
@[simp] theorem Skein.onLane_ply (k : Skein) (l : Nat) (f : Lane → Lane) : (k.onLane l f).ply = k.ply := rfl
@[simp] theorem Skein.onLane_step (k : Skein) (l : Nat) (f : Lane → Lane) : (k.onLane l f).step = k.step := rfl
@[simp] theorem Skein.onLane_bars (k : Skein) (l : Nat) (f : Lane → Lane) : (k.onLane l f).bars = k.bars := rfl
@[simp] theorem Skein.onLane_frags (k : Skein) (l : Nat) (f : Lane → Lane) : (k.onLane l f).frags = k.frags := rfl
@[simp] theorem Skein.onLane_nextIssue (k : Skein) (l : Nat) (f : Lane → Lane) : (k.onLane l f).nextIssue = k.nextIssue := rfl
@[simp] theorem Skein.onLane_seq (k : Skein) (l : Nat) (f : Lane → Lane) : (k.onLane l f).seq = k.seq := rfl
@[simp] theorem Skein.onLane_results (k : Skein) (l : Nat) (f : Lane → Lane) : (k.onLane l f).results = k.results := rfl
@[simp] theorem Skein.onLane_outs (k : Skein) (l : Nat) (f : Lane → Lane) : (k.onLane l f).outs = k.outs := rfl
@[simp] theorem Skein.onLane_sel (k : Skein) (l : Nat) (f : Lane → Lane) : (k.onLane l f).sel = k.sel := rfl
@[simp] theorem Skein.onLane_reads (k : Skein) (l : Nat) (f : Lane → Lane) : (k.onLane l f).reads = k.reads := rfl
@[simp] theorem Skein.onLane_forming (k : Skein) (l : Nat) (f : Lane → Lane) : (k.onLane l f).forming = k.forming := rfl
@[simp] theorem Skein.onLane_waitStart (k : Skein) (l : Nat) (f : Lane → Lane) : (k.onLane l f).waitStart = k.waitStart := rfl
@[simp] theorem Skein.onLane_retired (k : Skein) (l : Nat) (f : Lane → Lane) : (k.onLane l f).retired = k.retired := rfl

/-! ## A write of a skein -/

@[simp] theorem Skein.addOut_ix (k : Skein) (w : VarWrite) : (k.addOut w).ix = k.ix := rfl
@[simp] theorem Skein.addOut_pipe (k : Skein) (w : VarWrite) : (k.addOut w).pipe = k.pipe := rfl
@[simp] theorem Skein.addOut_lanes (k : Skein) (w : VarWrite) : (k.addOut w).lanes = k.lanes := rfl
@[simp] theorem Skein.addOut_k (k : Skein) (w : VarWrite) : (k.addOut w).k = k.k := rfl
@[simp] theorem Skein.addOut_s (k : Skein) (w : VarWrite) : (k.addOut w).s = k.s := rfl
@[simp] theorem Skein.addOut_xSup (k : Skein) (w : VarWrite) : (k.addOut w).xSup = k.xSup := rfl
@[simp] theorem Skein.addOut_xHyp (k : Skein) (w : VarWrite) : (k.addOut w).xHyp = k.xHyp := rfl
@[simp] theorem Skein.addOut_fpmode (k : Skein) (w : VarWrite) : (k.addOut w).fpmode = k.fpmode := rfl
@[simp] theorem Skein.addOut_fpflags (k : Skein) (w : VarWrite) : (k.addOut w).fpflags = k.fpflags := rfl
@[simp] theorem Skein.addOut_ply (k : Skein) (w : VarWrite) : (k.addOut w).ply = k.ply := rfl
@[simp] theorem Skein.addOut_step (k : Skein) (w : VarWrite) : (k.addOut w).step = k.step := rfl
@[simp] theorem Skein.addOut_bars (k : Skein) (w : VarWrite) : (k.addOut w).bars = k.bars := rfl
@[simp] theorem Skein.addOut_frags (k : Skein) (w : VarWrite) : (k.addOut w).frags = k.frags := rfl
@[simp] theorem Skein.addOut_nextIssue (k : Skein) (w : VarWrite) : (k.addOut w).nextIssue = k.nextIssue := rfl
@[simp] theorem Skein.addOut_results (k : Skein) (w : VarWrite) : (k.addOut w).results = k.results := rfl
@[simp] theorem Skein.addOut_sel (k : Skein) (w : VarWrite) : (k.addOut w).sel = k.sel := rfl
@[simp] theorem Skein.addOut_reads (k : Skein) (w : VarWrite) : (k.addOut w).reads = k.reads := rfl
@[simp] theorem Skein.addOut_forming (k : Skein) (w : VarWrite) : (k.addOut w).forming = k.forming := rfl
@[simp] theorem Skein.addOut_waitStart (k : Skein) (w : VarWrite) : (k.addOut w).waitStart = k.waitStart := rfl
@[simp] theorem Skein.addOut_retired (k : Skein) (w : VarWrite) : (k.addOut w).retired = k.retired := rfl

/-! ## A lane moved -/

@[simp] theorem Lane.jump_v (a : Lane) (pc by_ : Dword) : (a.jump pc by_).v = a.v := rfl
@[simp] theorem Lane.jump_qUser (a : Lane) (pc by_ : Dword) : (a.jump pc by_).qUser = a.qUser := rfl
@[simp] theorem Lane.jump_qSup (a : Lane) (pc by_ : Dword) : (a.jump pc by_).qSup = a.qSup := rfl
@[simp] theorem Lane.jump_qHyp (a : Lane) (pc by_ : Dword) : (a.jump pc by_).qHyp = a.qHyp := rfl
@[simp] theorem Lane.jump_tSup (a : Lane) (pc by_ : Dword) : (a.jump pc by_).tSup = a.tSup := rfl
@[simp] theorem Lane.jump_tHyp (a : Lane) (pc by_ : Dword) : (a.jump pc by_).tHyp = a.tHyp := rfl
@[simp] theorem Lane.jump_mode (a : Lane) (pc by_ : Dword) : (a.jump pc by_).mode = a.mode := rfl
@[simp] theorem Lane.jump_exited (a : Lane) (pc by_ : Dword) : (a.jump pc by_).exited = a.exited := rfl
@[simp] theorem Lane.jump_park (a : Lane) (pc by_ : Dword) : (a.jump pc by_).park = a.park := rfl
@[simp] theorem Lane.jump_held (a : Lane) (pc by_ : Dword) : (a.jump pc by_).held = a.held := rfl
@[simp] theorem Lane.jump_yielding (a : Lane) (pc by_ : Dword) : (a.jump pc by_).yielding = a.yielding := rfl
@[simp] theorem Lane.jump_tdepth (a : Lane) (pc by_ : Dword) : (a.jump pc by_).tdepth = a.tdepth := rfl
@[simp] theorem Lane.jump_origin (a : Lane) (pc by_ : Dword) : (a.jump pc by_).origin = a.origin := rfl
@[simp] theorem Lane.jump_saveS (a : Lane) (pc by_ : Dword) : (a.jump pc by_).saveS = a.saveS := rfl
@[simp] theorem Lane.jump_saveH (a : Lane) (pc by_ : Dword) : (a.jump pc by_).saveH = a.saveH := rfl
@[simp] theorem Lane.jump_wake (a : Lane) (pc by_ : Dword) : (a.jump pc by_).wake = a.wake := rfl
@[simp] theorem Lane.jump_entry (a : Lane) (pc by_ : Dword) : (a.jump pc by_).entry = a.entry := rfl
@[simp] theorem Lane.jump_stepDue (a : Lane) (pc by_ : Dword) : (a.jump pc by_).stepDue = a.stepDue := rfl
@[simp] theorem Lane.jump_waitDue (a : Lane) (pc by_ : Dword) : (a.jump pc by_).waitDue = a.waitDue := rfl
@[simp] theorem Lane.jump_back (a : Lane) (pc by_ : Dword) : (a.jump pc by_).back = a.back := rfl

end Sys2Proof.Machine
end

