-- ==== Sys2Proof/Laws/Event.lean ====
section
/-!
SUPPORT. Sys2Proof/Laws/Event.lean: looking up a panel, a skein and a lane after an update, and everything that the end of an issue event
does to the lanes of its skein.
-/
namespace Sys2Proof.Machine

/-! ## Panels -/

theorem find_map_id (ps : List Panel) (id j : Nat) (f : Panel → Panel) (hf : ∀ q, q.id = id → (f q).id = id) :
    ((ps.map fun q => if q.id = id then f q else q).find? fun p => p.id == j) =
      ((ps.find? fun p => p.id == j).map fun p => if j = id then f p else p) := by
  induction ps with
  | nil => rfl
  | cons q qs ih =>
    by_cases hq : q.id = id
    · have h1 := hf q hq
      by_cases hj : id = j
      · subst hj; simp [hq, h1]
      · have h2 : ¬ (f q).id = j := by rw [h1]; exact hj
        have h3 : ¬ q.id = j := by rw [hq]; exact hj
        simp only [List.map_cons, hq, if_true]
        rw [List.find?_cons_of_neg (by simpa using h2), List.find?_cons_of_neg (by simpa using h3), ih]
    · by_cases hj : q.id = j
      · have : ¬ j = id := fun e => hq (hj.trans e)
        simp [hj, this]
      · simp only [List.map_cons, hq, if_false]
        rw [List.find?_cons_of_neg (by simpa using hj), List.find?_cons_of_neg (by simpa using hj), ih]

/-- A panel of a state in which one panel has changed, its number kept. -/
theorem State.panel?_onPanel (s : State) (id j : Nat) (f : Panel → Panel) (hf : ∀ q, q.id = id → (f q).id = id) :
    (s.onPanel id f).panel? j = (s.panel? j).map fun p => if j = id then f p else p := find_map_id s.panels id j f hf

/-- A panel of a state in which one panel has been replaced. -/
theorem State.panel?_setPanel (s : State) (j : Nat) (p : Panel) :
    (s.setPanel p).panel? j = (s.panel? j).map fun q => if j = p.id then p else q :=
  find_map_id s.panels p.id j (fun _ => p) fun _ _ => rfl

theorem State.panel?_id {s : State} {id : Nat} {p : Panel} (h : s.panel? id = some p) : p.id = id := by
  have := List.find?_some h; simpa using this

/-- Every number has its first panel only: the panels agree when the lists agree. -/
theorem State.panel?_congr {s t : State} (h : t.panels = s.panels) (id : Nat) : t.panel? id = s.panel? id := by
  unfold State.panel?; rw [h]

/-! ## Skeins of a panel -/


theorem Panel.skein?_onSkein (p : Panel) (k j : Nat) (f : Skein → Skein) :
    (p.onSkein k f).skein? j = (p.skein? j).map fun q => if j = k then f q else q := by
  unfold Panel.skein? Panel.onSkein
  simp only [List.getElem?_modify]
  congr 1; funext q
  by_cases h : k = j <;> simp [h, eq_comm]

theorem Panel.onSkein_onSkein (p : Panel) (k : Nat) (f g : Skein → Skein) :
    (p.onSkein k f).onSkein k g = p.onSkein k fun q => g (f q) := by
  unfold Panel.onSkein
  simp [List.modify_modify_eq, Function.comp_def]

/-- A panel of a state in which one skein has changed. -/
theorem State.panel?_onSkein (s : State) (id k j : Nat) (f : Skein → Skein) :
    (s.onPanel id fun p => p.onSkein k f).panel? j = (s.panel? j).map fun p => if j = id then p.onSkein k f else p :=
  State.panel?_onPanel s id j (fun p => p.onSkein k f) fun _ h => h

theorem State.panel?_onOwn (s : State) (fr : Frame) (j : Nat) (f : Skein → Skein) :
    (s.onOwn fr f).panel? j = (s.panel? j).map fun p => if j = fr.p.id then p.onSkein fr.kx f else p :=
  State.panel?_onSkein s _ _ j f

/-- A skein of a state in which one skein has changed. -/
theorem State.skeinAt_onSkein (s : State) (id k j i : Nat) (f : Skein → Skein) :
    (s.onPanel id fun p => p.onSkein k f).skeinAt j i = (s.skeinAt j i).map fun q => if j = id ∧ i = k then f q else q := by
  unfold State.skeinAt
  rw [State.panel?_onPanel s id j (fun p => p.onSkein k f) (fun _ h => h)]
  cases s.panel? j with
  | none => rfl
  | some p =>
    by_cases h : j = id
    · simp [h, Panel.skein?_onSkein]
    · simp [h]

theorem State.skeinAt_onOwn (s : State) (fr : Frame) (j i : Nat) (f : Skein → Skein) :
    (s.onOwn fr f).skeinAt j i = (s.skeinAt j i).map fun q => if j = fr.p.id ∧ i = fr.kx then f q else q :=
  State.skeinAt_onSkein s _ _ j i f

/-! ## Lanes of a skein -/

theorem Skein.lanes_onLane (k : Skein) (n : Nat) (f : Lane → Lane) (l : Nat) :
    (k.onLane n f).lanes[l]? = (k.lanes[l]?).map fun a => if l = n then f a else a := by
  unfold Skein.onLane
  simp only [List.getElem?_modify]
  congr 1; funext q
  by_cases h : n = l <;> simp [h, eq_comm]

/-- A lane of a skein in which some lanes have changed, each once. -/
theorem Skein.lanes_onLanes (k : Skein) (ls : List Nat) (f : Nat → Lane → Lane) (l : Nat) (hd : ls.Nodup) :
    (k.onLanes ls f).lanes[l]? = (k.lanes[l]?).map fun a => if l ∈ ls then f l a else a := by
  unfold Skein.onLanes
  induction ls generalizing k with
  | nil => simp
  | cons n ls ih =>
    rw [List.nodup_cons] at hd
    rw [List.foldl_cons, ih _ hd.2, Skein.lanes_onLane, Option.map_map]
    congr 1; funext a
    by_cases h : l = n
    · subst h; simp [hd.1]
    · simp [h]

/-- A lane that is not among those changed. -/
theorem Skein.lanes_onLanes_of_not_mem (k : Skein) (ls : List Nat) (f : Nat → Lane → Lane) (l : Nat) (h : l ∉ ls) :
    (k.onLanes ls f).lanes[l]? = k.lanes[l]? := by
  unfold Skein.onLanes
  induction ls generalizing k with
  | nil => rfl
  | cons n ls ih =>
    simp only [List.mem_cons, not_or] at h
    rw [List.foldl_cons, ih _ h.2, Skein.lanes_onLane]
    cases k.lanes[l]? <;> simp [h.1]

/-- Changing lanes changes nothing else of a skein. -/
theorem Skein.onLanes_rest (k : Skein) (ls : List Nat) (f : Nat → Lane → Lane) :
    k.onLanes ls f = { k with lanes := (k.onLanes ls f).lanes } := by
  unfold Skein.onLanes
  induction ls generalizing k with
  | nil => rfl
  | cons n ls ih => rw [List.foldl_cons, ih]; rfl

theorem Skein.lane_of {k : Skein} {l : Nat} {a : Lane} (h : k.lanes[l]? = some a) : k.lane l = a := by
  unfold Skein.lane; rw [List.getD_eq_getElem?_getD, h]; rfl

/-! ## The frame of an event -/

/-- What opening an event finds: the panel and the skein in focus, and a nonempty issue set, ascending and without repeats, of lanes 0 to
31. -/
theorem openFrame_facts {s : State} {fr : Frame} (h : s.openFrame = .ok fr) :
    s.panel? fr.p.id = some fr.p ∧ (∃ k, fr.p.skein? fr.kx = some k ∧ fr.k = k.view ∧ fr.lanes = k.issueSet fr.cycle) ∧
      fr.lanes ≠ [] ∧ fr.lanes.Nodup ∧ (∀ l ∈ fr.lanes, l < 32) ∧ s.focus = (fr.p.id, fr.kx) ∧ fr.cycle = s.cycle fr.p.core ∧ fr.hypEntry = s.hypEntry ∧
      fr.next = nextPc fr.pc := by
  unfold State.openFrame at h
  split at h
  · cases h
  · rename_i p hp
    split at h
    · cases h
    · rename_i k hk
      split at h
      · cases h
      · rename_i l ls hl
        cases h
        have hid := State.panel?_id hp
        have hs : (k.issueSet (s.cycle p.core)).Sublist (List.range 32) := by
          unfold Skein.issueSet
          split
          · exact List.filter_sublist
          · unfold Skein.select
            simp only
            split
            · exact List.nil_sublist _
            · exact List.filter_sublist.trans (List.filter_sublist.trans List.filter_sublist)
        rw [hl] at hs
        refine ⟨by rw [hid]; exact hp, ⟨k, hk, rfl, hl.symm⟩, by simp, hs.nodup List.nodup_range, ?_, ?_, rfl, rfl, rfl⟩
        · intro i hi; simpa using hs.subset hi
        · rw [hid]

/-- The skein of the event, of which the event reads the view (R217). -/
theorem openFrame_skeinAt {s : State} {fr : Frame} (h : s.openFrame = .ok fr) :
    ∃ k, s.skeinAt fr.p.id fr.kx = some k ∧ fr.k = k.view := by
  obtain ⟨h1, ⟨k, h2, h3, _⟩, _⟩ := openFrame_facts h
  exact ⟨k, by unfold State.skeinAt; rw [h1]; exact h2, h3⟩

/-- What the view of a skein keeps of it (R217). -/
theorem Skein.view_rest (k : Skein) :
    k.view = { k with lanes := k.view.lanes, k := k.view.k, s := k.view.s, xSup := k.view.xSup, xHyp := k.view.xHyp, results := k.view.results } := by
  unfold Skein.view; split <;> rfl

/-- An event that does not wait for translations reads the skein as it is. -/
theorem Skein.view_of_none (k : Skein) (h : k.view.reads = none) : k.view = k := by
  have h1 : k.reads = none := by rw [← h, Skein.view_rest]
  unfold Skein.view; rw [h1]

/-- The skein of an event that does not wait for translations. -/
theorem openFrame_skein_now {s : State} {fr : Frame} (h : s.openFrame = .ok fr) (hr : fr.k.reads = none) :
    fr.p.skein? fr.kx = some fr.k ∧ s.skeinAt fr.p.id fr.kx = some fr.k := by
  obtain ⟨h1, ⟨k, h2, h3, _⟩, _⟩ := openFrame_facts h
  have h4 : fr.k = k := by rw [h3] at hr ⊢; exact Skein.view_of_none k hr
  exact ⟨h4 ▸ h2, by unfold State.skeinAt; rw [h1, h4]; exact h2⟩

/-! ## Traps of a panel -/

theorem takeTraps_id (p : Panel) (k c : Nat) (e : Dword) (ts : List Trap) : (p.takeTraps k c e ts).id = p.id := by
  unfold Panel.takeTraps
  split
  · rfl
  · rfl
  · simp only
    split
    · rfl
    · unfold Panel.startHalt; split <;> rfl

theorem startHalt_skeins (p : Panel) (c k : Nat) (x : Cause) (ls : Word) (v : Dword) : (p.startHalt c k x ls v).skeins = p.skeins := by
  unfold Panel.startHalt; split <;> rfl

/-- Taking traps changes the lanes of the one skein and the halt, nothing else. -/
theorem takeTraps_rest (p : Panel) (k c : Nat) (e : Dword) (ts : List Trap) :
    p.takeTraps k c e ts = { p with skeins := (p.takeTraps k c e ts).skeins, halt := (p.takeTraps k c e ts).halt } := by
  unfold Panel.takeTraps
  split
  · rfl
  · rfl
  · simp only
    split
    · rfl
    · unfold Panel.startHalt; split <;> rfl

theorem foldl_onLane_rest (ts : List Trap) (f : Trap → Lane → Lane) (k : Skein) :
    (ts.foldl (fun k t => k.onLane t.lane (f t)) k) = { k with lanes := (ts.foldl (fun k t => k.onLane t.lane (f t)) k).lanes } := by
  induction ts generalizing k with
  | nil => rfl
  | cons t ts ih => rw [List.foldl_cons, ih]; rfl

theorem foldl_onLane_lanes (ts : List Trap) (f : Trap → Lane → Lane) (k : Skein) (l : Nat) :
    (ts.foldl (fun k t => k.onLane t.lane (f t)) k).lanes[l]? =
      (k.lanes[l]?).map fun a => (ts.filter fun t => t.lane == l).foldl (fun a t => f t a) a := by
  induction ts generalizing k with
  | nil => simp
  | cons t ts ih =>
    rw [List.foldl_cons, ih, Skein.lanes_onLane, Option.map_map]
    congr 1; funext a
    by_cases h : t.lane = l
    · simp [h]
    · have h' : ¬ l = t.lane := fun e => h e.symm
      simp [h, h']

/-- A halted panel takes no trap (R390). -/
theorem takeTraps_halted (p : Panel) (k c : Nat) (e : Dword) (ts : List Trap) (h : p.halt.isSome = true) : p.takeTraps k c e ts = p := by
  unfold Panel.takeTraps
  cases hp : p.halt with
  | none => rw [hp] at h; cases h
  | some x => rfl

/-- The skeins after taking traps: with the panel halted they stay (R390), else the one skein's lanes take theirs in order. -/
theorem takeTraps_skein (p : Panel) (k c : Nat) (e : Dword) (ts : List Trap) (j : Nat) :
    (p.takeTraps k c e ts).skein? j =
      (p.skein? j).map fun q => if j = k ∧ p.halt = none then
        ts.foldl (fun q t => q.onLane t.lane fun l => (l.takeTrap p.image.entry e t).1) q else q := by
  unfold Panel.takeTraps
  split
  · rename_i h
    simp [h]
  · rename_i h h1
    by_cases hj : j = k
    · subst hj; simp [h1]
    · simp [hj]
  · rename_i sk hn h
    simp only
    have hx : ∀ q : Panel, q.skeins = (p.onSkein k fun _ => ts.foldl (fun q t => q.onLane t.lane fun l => (l.takeTrap p.image.entry e t).1) sk).skeins →
        q.skein? j = (p.skein? j).map fun q => if j = k ∧ p.halt = none then
          ts.foldl (fun q t => q.onLane t.lane fun l => (l.takeTrap p.image.entry e t).1) q else q := by
      intro q hq
      have : q.skein? j = (p.onSkein k fun _ => ts.foldl (fun q t => q.onLane t.lane fun l => (l.takeTrap p.image.entry e t).1) sk).skein? j := by
        unfold Panel.skein?; rw [hq]
      rw [this, Panel.skein?_onSkein]
      by_cases hj : j = k
      · subst hj; simp [h, hn]
      · simp [hj]
    split
    · exact hx _ rfl
    · exact hx _ (startHalt_skeins ..)

/-! ## The end of an event -/

/-- What the end of an event makes of the skein, before traps: the lanes move and the skein waits its stall (R17, R26, R50). -/
theorem deferSteps_rest (fr : Frame) (ls : List Nat) (k : Skein) : deferSteps fr ls k = { k with lanes := (deferSteps fr ls k).lanes } := by
  unfold deferSteps
  split
  · exact Skein.onLanes_rest ..
  · rfl

/-- With no stepping, no lane steps after the event (R392). -/
theorem deferSteps_off (fr : Frame) (ls : List Nat) (k : Skein) (h : stepping fr k = false) : deferSteps fr ls k = k := by
  simp [deferSteps, h]

theorem stepTraps_off (fr : Frame) (ls : List Nat) (k : Skein) (h : stepping fr k = false) : stepTraps fr k ls = [] := by
  simp [stepTraps, h]

/-- The end of an event changes nothing but panels, and of them only the event's own. -/
theorem State.closeEvent_rest (s : State) (fr : Frame) (n : Nat) (next : Dword) (goes : List (Nat × Dword × Dword)) (stays : List Nat)
    (traps : List Trap) :
    s.closeEvent fr n next goes stays traps = { s with panels := (s.closeEvent fr n next goes stays traps).panels } := rfl

/-- A panel after the end of an event: another panel keeps, the event's own keeps all but its one skein, its halt and the end of its
freeze. -/
theorem State.closeEvent_panel (s : State) (fr : Frame) (n : Nat) (next : Dword) (goes : List (Nat × Dword × Dword)) (stays : List Nat)
    (traps : List Trap) (j : Nat) :
    ∃ f : Panel → Panel, (∀ p, f p = { p with skeins := (f p).skeins, halt := (f p).halt, thaw := (f p).thaw }) ∧
      (s.closeEvent fr n next goes stays traps).panel? j = (s.panel? j).map fun p => if j = fr.p.id then f p else p := by
  unfold State.closeEvent
  simp only
  rw [State.panel?_onPanel _ _ _ _ (by intro q hq; unfold Panel.thawed; simp only; rw [takeTraps_id]; exact hq)]
  refine ⟨_, fun p => ?_, rfl⟩
  unfold Panel.thawed
  simp only
  rw [takeTraps_rest]; rfl

theorem thawed_skein (p : Panel) (fr : Frame) (j : Nat) : (p.thawed fr).skein? j = p.skein? j := rfl

theorem closePanel_skein (fr : Frame) (on : List Nat) (mv : Skein → Skein) (c : Nat) (e : Dword) (traps : List Trap) (p : Panel) (k : Skein)
    (g : Halt → Halt) (hk : p.skein? fr.kx = some k) (hs : stepping fr (mv k) = false) :
    let p2 : Panel := { p.onSkein fr.kx mv with halt := p.halt.map g }
    let steps := match p2.skein? fr.kx with
      | some k => stepTraps fr k on
      | none => []
    (((p2.onSkein fr.kx (deferSteps fr on)).takeTraps fr.kx c e (traps ++ steps)).thawed fr).skein? fr.kx =
      some ((if p.halt = none then traps else []).foldl (fun q t => q.onLane t.lane fun l => (l.takeTrap p.image.entry e t).1) (mv k)) := by
  intro p2 steps
  have h2 : p2.skein? fr.kx = some (mv k) := by
    show (p.onSkein fr.kx mv).skein? fr.kx = _
    rw [Panel.skein?_onSkein, hk]; simp
  have h3 : steps = [] := by simp only [steps, h2]; exact stepTraps_off _ _ _ hs
  rw [thawed_skein, takeTraps_skein, Panel.skein?_onSkein, h2, h3, List.append_nil]
  simp only [Option.map_some, if_true, deferSteps_off _ _ _ hs]
  have h4 : (p2.onSkein fr.kx (deferSteps fr on)).halt = p.halt.map g := rfl
  rw [h4]
  by_cases hh : p.halt = none
  · simp only [hh, Option.map_none, and_self, if_true]; rfl
  · simp [hh]

/-- The skein of the event after its end, when nothing steps: every lane of the issue set that neither traps nor stays transfers or goes
on, every lane that traps takes its traps in order unless the panel is halted (R390), and of the rest of the skein only its selection, the
reads it kept, its wait start and its next issue change. -/
theorem State.closeEvent_skein (s : State) (fr : Frame) (n : Nat) (next : Dword) (goes : List (Nat × Dword × Dword)) (stays : List Nat)
    (traps : List Trap) (p : Panel) (k : Skein) (hp : s.panel? fr.p.id = some p) (hk : p.skein? fr.kx = some k)
    (hs : stepping fr k = false) :
    (s.closeEvent fr n next goes stays traps).skeinAt fr.p.id fr.kx =
      some ((if p.halt = none then traps else []).foldl (fun q t => q.onLane t.lane fun l => (l.takeTrap p.image.entry fr.hypEntry t).1)
        { k.onLanes (fr.lanes.filter fun l => !(traps.map (·.lane)).contains l && !stays.contains l) (fun l a =>
            if a.exited then a
            else match goes.find? fun g => g.1 == l with
              | some g => a.jump g.2.1 g.2.2
              | none => a.advance next) with
          nextIssue := fr.cycle + 1 + n, sel := none, reads := none, waitStart := none }) := by
  unfold State.closeEvent State.skeinAt
  simp only
  rw [State.panel?_onPanel _ _ _ _ (by intro q hq; unfold Panel.thawed; simp only; rw [takeTraps_id]; exact hq), hp]
  simp only [Option.map_some, Option.bind_some, if_true]
  exact closePanel_skein fr _ (fun k => { k.onLanes _ _ with nextIssue := _, sel := none, reads := none, waitStart := none }) _ _ _ p k _ hk
    (by rw [Skein.onLanes_rest]; exact hs)

/-- The end of an event leaves every skein but its own as it is. -/
theorem State.closeEvent_others (s : State) (fr : Frame) (n : Nat) (next : Dword) (goes : List (Nat × Dword × Dword)) (stays : List Nat)
    (traps : List Trap) (j i : Nat) (h : ¬ (j = fr.p.id ∧ i = fr.kx)) :
    (s.closeEvent fr n next goes stays traps).skeinAt j i = s.skeinAt j i := by
  unfold State.closeEvent State.skeinAt
  simp only
  rw [State.panel?_onPanel _ _ _ _ (by intro q hq; unfold Panel.thawed; simp only; rw [takeTraps_id]; exact hq)]
  cases s.panel? j with
  | none => rfl
  | some p =>
    by_cases hj : j = fr.p.id
    · have hi : ¬ i = fr.kx := fun e => h ⟨hj, e⟩
      simp only [Option.map_some, Option.bind_some, hj, if_true, thawed_skein, takeTraps_skein, Panel.skein?_onSkein, hi, false_and, if_false, Option.map_id']
      show (p.onSkein fr.kx _).skein? i = _
      rw [Panel.skein?_onSkein]
      simp [hi]
    · simp [hj]

/-- Traps move no skein but change its lanes. -/
theorem State.closeEvent_skein_rest (s : State) (fr : Frame) (n : Nat) (next : Dword) (goes : List (Nat × Dword × Dword)) (stays : List Nat)
    (traps : List Trap) (k : Skein) (hk : s.skeinAt fr.p.id fr.kx = some k) (hs : stepping fr k = false) :
    ∃ k1, (s.closeEvent fr n next goes stays traps).skeinAt fr.p.id fr.kx = some k1 ∧
      k1 = { k with lanes := k1.lanes, nextIssue := fr.cycle + 1 + n, sel := none, reads := none, waitStart := none } := by
  unfold State.skeinAt at hk
  cases hp : s.panel? fr.p.id with
  | none => rw [hp] at hk; cases hk
  | some p =>
    rw [hp] at hk
    refine ⟨_, State.closeEvent_skein s fr n next goes stays traps p k hp hk hs, ?_⟩
    rw [foldl_onLane_rest, Skein.onLanes_rest]

/-- The lanes of the event after its end, when nothing steps. -/
theorem State.closeEvent_lane (s : State) (fr : Frame) (n : Nat) (next : Dword) (goes : List (Nat × Dword × Dword)) (stays : List Nat)
    (traps : List Trap) (p : Panel) (k : Skein) (a : Lane) (l : Nat) (hp : s.panel? fr.p.id = some p) (hk : p.skein? fr.kx = some k)
    (ha : k.lanes[l]? = some a) (hs : stepping fr k = false) (hd : fr.lanes.Nodup) :
    (s.closeEvent fr n next goes stays traps).laneAt fr.p.id fr.kx l =
      some (((if p.halt = none then traps else []).filter fun t => t.lane == l).foldl (fun a t => (a.takeTrap p.image.entry fr.hypEntry t).1)
        (if l ∈ fr.lanes ∧ l ∉ traps.map (·.lane) ∧ l ∉ stays ∧ a.exited = false then
          (match goes.find? fun g => g.1 == l with
            | some g => a.jump g.2.1 g.2.2
            | none => a.advance next)
        else a)) := by
  unfold State.laneAt
  rw [State.closeEvent_skein s fr n next goes stays traps p k hp hk hs, Option.bind_some, foldl_onLane_lanes,
    Skein.lanes_onLanes _ _ _ _ (hd.filter _), ha, Option.map_some, Option.map_some]
  congr 2
  by_cases h : a.exited
  · simp [h]
  · simp only [List.mem_filter, Bool.and_eq_true, Bool.not_eq_true', List.contains_eq_mem, decide_eq_false_iff_not, h, Bool.false_eq_true,
      if_false, and_true]

/-- A lane of the issue set that neither traps nor stays. -/
theorem State.closeEvent_lane_goes (s : State) (fr : Frame) (n : Nat) (next : Dword) (goes : List (Nat × Dword × Dword)) (stays : List Nat)
    (traps : List Trap) (p : Panel) (k : Skein) (a : Lane) (l : Nat) (hp : s.panel? fr.p.id = some p) (hk : p.skein? fr.kx = some k)
    (ha : k.lanes[l]? = some a) (hs : stepping fr k = false) (hd : fr.lanes.Nodup) (hl : l ∈ fr.lanes) (ht : ∀ t ∈ traps, t.lane ≠ l)
    (hn : l ∉ stays) (he : a.exited = false) :
    (s.closeEvent fr n next goes stays traps).laneAt fr.p.id fr.kx l =
      some (match goes.find? fun g => g.1 == l with
        | some g => a.jump g.2.1 g.2.2
        | none => a.advance next) := by
  rw [State.closeEvent_lane s fr n next goes stays traps p k a l hp hk ha hs hd]
  have h1 : ((if p.halt = none then traps else []).filter fun t => t.lane == l) = [] := by
    split
    · simpa using ht
    · rfl
  have h2 : l ∉ traps.map (·.lane) := by simpa using ht
  simp only [h1, List.foldl_nil, hl, h2, hn, he, not_false_eq_true, and_self, if_true]

/-- A lane that takes one trap. -/
theorem State.closeEvent_lane_trap (s : State) (fr : Frame) (n : Nat) (next : Dword) (goes : List (Nat × Dword × Dword)) (stays : List Nat)
    (traps : List Trap) (p : Panel) (k : Skein) (a : Lane) (t : Trap) (hp : s.panel? fr.p.id = some p) (hk : p.skein? fr.kx = some k)
    (ha : k.lanes[t.lane]? = some a) (hs : stepping fr k = false) (hd : fr.lanes.Nodup) (hh : p.halt = none)
    (ht : (traps.filter fun u => u.lane == t.lane) = [t]) :
    (s.closeEvent fr n next goes stays traps).laneAt fr.p.id fr.kx t.lane = some (a.takeTrap p.image.entry fr.hypEntry t).1 := by
  rw [State.closeEvent_lane s fr n next goes stays traps p k a t.lane hp hk ha hs hd, if_pos hh, ht]
  have h2 : t.lane ∈ traps.map (·.lane) := by
    have : t ∈ traps.filter fun u => u.lane == t.lane := by rw [ht]; simp
    exact List.mem_map_of_mem (List.mem_filter.1 this).1
  have h3 : ¬ (t.lane ∈ fr.lanes ∧ t.lane ∉ traps.map (·.lane) ∧ t.lane ∉ stays ∧ a.exited = false) := fun h => h.2.1 h2
  simp only [List.foldl_cons, List.foldl_nil, h3, if_false]

/-- A lane that takes one trap, whether the skein steps or not: lanes that trap do not step (R392). -/
theorem State.closeEvent_lane_traps (s : State) (fr : Frame) (n : Nat) (next : Dword) (goes : List (Nat × Dword × Dword)) (stays : List Nat)
    (traps : List Trap) (p : Panel) (k : Skein) (a : Lane) (t : Trap) (hp : s.panel? fr.p.id = some p) (hk : p.skein? fr.kx = some k)
    (ha : k.lanes[t.lane]? = some a) (hh : p.halt = none) (ht : (traps.filter fun u => u.lane == t.lane) = [t]) :
    (s.closeEvent fr n next goes stays traps).laneAt fr.p.id fr.kx t.lane = some (a.takeTrap p.image.entry fr.hypEntry t).1 := by
  have hin : t.lane ∈ traps.map (·.lane) := by
    have : t ∈ traps.filter fun u => u.lane == t.lane := by rw [ht]; simp
    exact List.mem_map_of_mem (List.mem_filter.1 this).1
  have hon : t.lane ∉ fr.lanes.filter fun l => !(traps.map (·.lane)).contains l && !stays.contains l := by
    simp only [List.mem_filter, Bool.and_eq_true, Bool.not_eq_true', List.contains_eq_mem, decide_eq_false_iff_not]
    exact fun h => h.2.1 hin
  have hst : ∀ q : Skein, ((stepTraps fr q (fr.lanes.filter fun l => !(traps.map (·.lane)).contains l && !stays.contains l)).filter
      fun u => u.lane == t.lane) = [] := by
    intro q
    rw [List.filter_eq_nil_iff]
    intro u hu
    unfold stepTraps at hu
    split at hu
    · obtain ⟨l, hl, rfl⟩ := List.mem_map.1 hu
      have := (List.mem_filter.1 hl).1
      simp only [beq_iff_eq]
      intro e; exact hon (e ▸ this)
    · cases hu
  unfold State.closeEvent State.laneAt State.skeinAt
  simp only
  rw [State.panel?_onPanel _ _ _ _ (by intro q hq; unfold Panel.thawed; simp only; rw [takeTraps_id]; exact hq), hp]
  simp only [Option.map_some, Option.bind_some, if_true]
  rw [thawed_skein, takeTraps_skein, Panel.skein?_onSkein]
  have hsk : ∀ (x : Option Halt) (mv : Skein → Skein), ({ p.onSkein fr.kx mv with halt := x } : Panel).skein? fr.kx = some (mv k) := by
    intro x mv
    show (p.onSkein fr.kx mv).skein? fr.kx = _
    rw [Panel.skein?_onSkein, hk]; simp
  rw [hsk]
  simp only [Option.map_some, if_true, Option.bind_some]
  rw [if_pos ⟨trivial, show p.halt.map _ = none by rw [hh]; rfl⟩]
  rw [foldl_onLane_lanes, List.filter_append, hst, List.append_nil, ht]
  have hl : ∀ q : Skein, (deferSteps fr (fr.lanes.filter fun l => !(traps.map (·.lane)).contains l && !stays.contains l) q).lanes[t.lane]? =
      q.lanes[t.lane]? := by
    intro q; unfold deferSteps; split
    · exact Skein.lanes_onLanes_of_not_mem _ _ _ _ hon
    · rfl
  rw [hl]
  show ((Skein.onLanes _ _ _).lanes[t.lane]?).map _ = _
  rw [Skein.lanes_onLanes_of_not_mem _ _ _ _ hon, ha]
  rfl

/-! ## An event of one member (R19) -/

/-- Each lane's first trap of a list whose lanes differ is the list. -/
theorem firstTraps_of_nodup (ts : List Trap) (h : (ts.map (·.lane)).Nodup) : firstTraps ts = ts := by
  have key : ∀ (us acc : List Trap), ((acc ++ us).map (·.lane)).Nodup →
      us.foldl (fun acc t => if acc.any fun u => u.lane == t.lane then acc else acc ++ [t]) acc = acc ++ us := by
    intro us
    induction us with
    | nil => simp
    | cons t us ih =>
      intro acc hd
      have hn : (acc.any fun u => u.lane == t.lane) = false := by
        rw [List.any_eq_false]
        intro u hu he
        simp only [List.map_append, List.map_cons, List.nodup_append] at hd
        exact hd.2.2 u.lane (List.mem_map_of_mem hu) t.lane (by simp) (by simpa using he)
      rw [List.foldl_cons, hn]
      simp only [Bool.false_eq_true, if_false]
      rw [ih _ (by simpa using hd), List.append_assoc, List.singleton_append]
  exact (key ts [] (by simpa using h)).trans (List.nil_append ts)

/-- One member committed, when neither it nor a read of it traps: its plan takes effect, and the lanes that
will take FPEXC with its result stay (R84). -/
theorem State.commit_one (s : State) (fr : Frame) (m : Member) (hn : fr.next = nextPc fr.pc)
    (ht : fr.staticTrap false .user m.form m.slot m.hi = none) (hs : fr.shortLanes m.once m.form m.slot = []) :
    s.commit fr [m] =
      let pl := m.plan fr fr.lanes
      let bad := s.spoiled fr m.slot m.once m.cross fr.lanes
      let exc := (pl.excTraps (fr.p.fpEnables fr.mode) fr.pc false).filter fun t => !bad.contains t.lane
      let excs := firstTraps exc
      (s.onOwn fr fun k => pl.apply fr (fr.leader m.slot) (excs.map (·.lane)) bad exc (fr.p.fpEnables fr.mode != 0) k).closeEvent fr m.slot.stall.val (nextPc fr.pc) (pl.goes.map fun g => (g.1, g.2, fr.pc))
        (excs.map (·.lane)) [] := by
  have h0 : fr.memberPc 0 = fr.pc := by simp [Frame.memberPc]
  have h1 : fr.nextAfter 1 = nextPc fr.pc := by simp [Frame.nextAfter, h0]
  have h2 : fr.memberTraps m fr.pc fr.pc false = [] := by simp [Frame.memberTraps, ht, hs]
  have h3 : ({ fr with pc := fr.pc, next := nextPc fr.pc } : Frame) = fr := by rw [← hn]
  have h4 : firstTraps [] = [] := rfl
  unfold State.commit
  simp only [List.zipIdx_cons, List.zipIdx_nil, List.map_cons, List.map_nil, List.flatten_cons, List.flatten_nil, List.append_nil, zero_add,
    List.length_cons, List.length_nil, h0, h2, h4, h3, filter_not_nil, List.foldl_cons, List.foldl_nil, lt_self_iff_false, decide_false,
    Nat.zero_max, h1, State.onOwn, List.take_zero, List.any_nil, Bool.not_false, List.filter_true, List.zip_cons_cons, List.zip_nil_right,
    List.getD_cons_zero]

/-- With no FP trap enabled no member traps FPEXC (R84). -/
theorem Plan.excTraps_zero (pl : Plan) (epc : Dword) (pair : Bool) : pl.excTraps 0 epc pair = [] := by
  have h : ∀ w : Word, excBits 0 w = 0 := by intro w; simp [excBits]
  simp [Plan.excTraps, h]

end Sys2Proof.Machine
end

