-- ==== Sys2Proof/Laws/Apply.lean ====
section
/-!
SUPPORT. Sys2Proof/Laws/Apply.lean: everything that the plan of an instruction that may pair does to its skein.
-/
namespace Sys2Proof.Machine

/-- A lane apart from its result queues and its park. -/
def laneButQueues (a : Lane) : Lane := { a with qUser := [], qSup := [], qHyp := [], park := none }
/-- A lane apart from its registers, its result queues and its park. -/
def laneButRegs (a : Lane) : Lane := { laneButQueues a with v := [], tSup := [], tHyp := [] }
/-- A skein apart from its lanes. -/
def skeinButLanes (k : Skein) : Skein := { k with lanes := [] }
/-- A skein apart from its lanes, its register files and its pending results. -/
def skeinButFiles (k : Skein) : Skein := { k with lanes := [], k := [], s := [], xSup := [], xHyp := [], results := [] }

/-- Skeins that agree apart from lanes agree apart from lanes, files and results. -/
theorem butFiles_of {k q : Skein} (h : skeinButLanes k = skeinButLanes q) : skeinButFiles k = skeinButFiles q := by
  have : skeinButFiles k = skeinButFiles (skeinButLanes k) := rfl
  rw [this, h]; rfl
/-- A change of lanes is one of lanes only. -/
theorem butLanes_onLanes (k : Skein) (ls f) : skeinButLanes (k.onLanes ls f) = skeinButLanes k := by rw [Skein.onLanes_rest]; rfl

/-- What a change of one lane keeps of every lane. -/
theorem onLane_keeps {α : Type} (P : Lane → α) (k : Skein) (n : Nat) (f : Lane → Lane) (hf : ∀ a, P (f a) = P a) (l : Nat) :
    ((k.onLane n f).lanes[l]?).map P = (k.lanes[l]?).map P := by
  rw [Skein.lanes_onLane, Option.map_map]; congr 1; funext a
  by_cases h : l = n <;> simp [h, hf]

/-- Lanes that agree apart from queues agree apart from registers and queues. -/
theorem laneButRegs_of {x y : Option Lane} (h : x.map laneButQueues = y.map laneButQueues) : x.map laneButRegs = y.map laneButRegs := by
  have : ∀ z : Option Lane, z.map laneButRegs = (z.map laneButQueues).map laneButRegs := by intro z; cases z <;> rfl
  rw [this x, this y, h]

/-- A push changes nothing but result queues. -/
theorem Skein.push_rest (k : Skein) (l m seq n) : skeinButLanes (k.push l m seq n) = skeinButLanes k ∧ ∀ j : Nat, (((k.push l m seq n).lanes)[j]?).map laneButQueues = (k.lanes[j]?).map laneButQueues := by
  unfold Skein.push
  generalize List.range n = is
  induction is generalizing k with
  | nil => exact ⟨rfl, fun _ => rfl⟩
  | cons i is ih =>
    simp only [List.foldl_cons]
    obtain ⟨h1, h2⟩ := ih (k.onLane l fun a => a.setBank m (bankPush (a.bank m) (2 * seq + i)))
    refine ⟨h1, fun j => ?_⟩
    rw [h2, onLane_keeps]
    intro a; cases m <;> rfl

/-- Pushes change nothing but result queues. -/
theorem Skein.pushes_rest (ps : List Nat) (k : Skein) (m seq n) : skeinButLanes (ps.foldl (fun k l => k.push l m seq n) k) = skeinButLanes k ∧ ∀ j : Nat, (((ps.foldl (fun k l => k.push l m seq n) k).lanes)[j]?).map laneButQueues = (k.lanes[j]?).map laneButQueues := by
  induction ps generalizing k with
  | nil => exact ⟨rfl, fun _ => rfl⟩
  | cons i is ih =>
    simp only [List.foldl_cons]
    obtain ⟨h1, h2⟩ := ih (k.push i m seq n)
    obtain ⟨h3, h4⟩ := Skein.push_rest k i m seq n
    exact ⟨h1.trans h3, fun j => (h2 j).trans (h4 j)⟩

/-- A value that lands changes register files only. -/
theorem Skein.writeTarget_rest (k : Skein) (t x) : skeinButFiles (k.writeTarget t x) = skeinButFiles k ∧ (k.writeTarget t x).results = k.results ∧ ∀ j : Nat, ((k.writeTarget t x).lanes[j]?).map laneButRegs = (k.lanes[j]?).map laneButRegs := by
  unfold Skein.writeTarget
  cases t <;> simp only
  · exact ⟨rfl, rfl, fun j => by apply onLane_keeps; intro a; rfl⟩
  · exact ⟨rfl, rfl, fun j => by apply onLane_keeps; intro a; rfl⟩
  · exact ⟨rfl, rfl, fun j => by apply onLane_keeps; intro a; rfl⟩
  · exact ⟨rfl, by trivial, fun j => by trivial⟩
  · exact ⟨rfl, by trivial, fun j => by trivial⟩
  · exact ⟨rfl, by trivial, fun j => by trivial⟩
  · split
    · exact ⟨rfl, rfl, fun j => rfl⟩
    · exact ⟨rfl, rfl, fun j => rfl⟩

/-- Values that land change register files only. -/
theorem Skein.writeTargets_rest (k : Skein) (ws) : skeinButFiles (k.writeTargets ws) = skeinButFiles k ∧ (k.writeTargets ws).results = k.results ∧ ∀ j : Nat, ((k.writeTargets ws).lanes[j]?).map laneButRegs = (k.lanes[j]?).map laneButRegs := by
  unfold Skein.writeTargets
  induction ws generalizing k with
  | nil => exact ⟨rfl, rfl, fun j => rfl⟩
  | cons w ws ih =>
    simp only [List.foldl_cons]
    obtain ⟨h1, h1', h2⟩ := ih (k.writeTarget w.1 w.2)
    obtain ⟨h3, h3', h4⟩ := Skein.writeTarget_rest k w.1 w.2
    exact ⟨h1.trans h3, h1'.trans h3', fun j => (h2 j).trans (h4 j)⟩

/-- Link registers are written at once; pending results of the same registers go, and nothing else changes. -/
theorem Skein.links_rest (xs : List (Nat × List (Target × Word))) (k : Skein) :
    skeinButFiles (xs.foldl (fun k x => k.writeNow x.2) k) = skeinButFiles k ∧
    (∀ j : Nat, ((xs.foldl (fun k x => k.writeNow x.2) k).lanes[j]?).map laneButRegs = (k.lanes[j]?).map laneButRegs) := by
  induction xs generalizing k with
  | nil => exact ⟨rfl, fun j => rfl⟩
  | cons w ws ih =>
    simp only [List.foldl_cons]
    obtain ⟨h1, h2⟩ := ih (k.writeNow w.2)
    obtain ⟨h3, _, h4⟩ := Skein.writeTargets_rest k w.2
    refine ⟨h1.trans h3, fun j => (h2 j).trans (h4 j)⟩

/-- Parking changes no lane but in its park. -/
theorem Skein.parks_rest (xs : List (Nat × Park)) (k : Skein) :
    skeinButLanes (xs.foldl (fun k x => k.onLane x.1 fun a => { a with park := some x.2 }) k) = skeinButLanes k ∧
    (∀ j : Nat, ((xs.foldl (fun k x => k.onLane x.1 fun a => { a with park := some x.2 }) k).lanes[j]?).map laneButQueues = (k.lanes[j]?).map laneButQueues) := by
  induction xs generalizing k with
  | nil => exact ⟨rfl, fun j => rfl⟩
  | cons w ws ih =>
    simp only [List.foldl_cons]
    obtain ⟨h1, h2⟩ := ih (k.onLane w.1 fun a => { a with park := some w.2 })
    refine ⟨h1, fun j => by rw [h2]; apply onLane_keeps; intro a; rfl⟩

/-- A change of some lanes keeps every other lane. -/
theorem Skein.exits_rest (ls : List Nat) (f : Nat → Lane → Lane) (k : Skein) (j : Nat) (hj : j ∉ ls) : (k.onLanes ls f).lanes[j]? = k.lanes[j]? := by
  unfold Skein.onLanes
  induction ls generalizing k with
  | nil => rfl
  | cons l ls ih =>
    simp only [List.mem_cons, not_or] at hj
    rw [List.foldl_cons, ih _ hj.2, Skein.lanes_onLane]
    cases k.lanes[j]? <;> simp [hj.1]

/-- Everything that the plan of an instruction does to its skein: what it keeps of the skein, of each lane, of each mode, the result that it leaves
pending, and what an instruction without link, exit and mode write changes. -/
theorem Plan.apply_rest (pl : Plan) (fr : Frame) (lead : Nat) (dead spoiled : List Nat) (exc : List Trap) (hold : Bool) (k : Skein) :
    let k1 := pl.apply fr lead dead spoiled exc hold k
    (∃ m, skeinButFiles k1 = { skeinButFiles k with seq := k.seq + 1, fpmode := m }) ∧
    (∀ j : Nat, j ∉ pl.exits → (k1.lanes[j]?).map laneButRegs = (k.lanes[j]?).map laneButRegs) ∧
    (∀ j : Nat, (k1.lanes[j]?).map (·.mode) = (k.lanes[j]?).map (·.mode)) ∧
    (pl.links = [] → pl.lat ≠ 0 → k1.results = k.results ++ [pl.result fr lead dead spoiled exc hold k.seq]) ∧
    (pl.links = [] → pl.exits = [] → pl.fpmode = none →
      (∃ r, skeinButLanes k1 = { skeinButLanes k with results := r, seq := k.seq + 1 }) ∧
      ∀ j : Nat, (k1.lanes[j]?).map laneButQueues = (k.lanes[j]?).map laneButQueues) := by
  intro k1
  set ps := (if pl.dst = .none then ([] : List Nat) else ((pl.vals.filter fun v => !dead.contains v.1).map (·.1)) ++ ((pl.passes.filter fun v => !dead.contains v.1).map (·.1))) with hps
  obtain ⟨a1, a2⟩ := Skein.pushes_rest ps k fr.mode k.seq (if pl.wide then 2 else 1)
  set q1 := ps.foldl (fun k_1 l => k_1.push l fr.mode k.seq (if pl.wide then 2 else 1)) k with hq1
  set q3 : Skein := { (if pl.lat = 0 then q1 else { q1 with results := q1.results ++ [pl.result fr lead dead spoiled exc hold k.seq] }) with seq := k.seq + 1 } with hq3
  obtain ⟨b1, b2⟩ := Skein.links_rest (pl.links.filter fun x => !dead.contains x.1) q3
  set q4 := (pl.links.filter fun x => !dead.contains x.1).foldl (fun k x => k.writeNow x.2) q3 with hq4
  set q5 := q4.onLanes (pl.exits.filter fun l => !dead.contains l) fun _ a => a.exit fr.mode with hq5
  obtain ⟨d1, d2⟩ := Skein.parks_rest (pl.parks.filter fun x => !dead.contains x.1) q5
  set q6 := (pl.parks.filter fun x => !dead.contains x.1).foldl
      (fun k x => k.onLane x.1 fun a => { a with park := some x.2 }) q5 with hq6
  have c1 : skeinButLanes q5 = skeinButLanes q4 := butLanes_onLanes _ _ _
  have hl3 : ∀ j : Nat, (q3.lanes[j]?).map laneButQueues = (k.lanes[j]?).map laneButQueues := by
    intro j; rw [hq3]; split <;> exact a2 j
  have e3 : skeinButFiles q3 = { skeinButFiles k with seq := k.seq + 1 } := by
    have : skeinButFiles q1 = skeinButFiles k := butFiles_of a1
    rw [← this, hq3]; split <;> rfl
  have e0 : ∃ r, skeinButLanes q3 = { skeinButLanes k with results := r, seq := k.seq + 1 } := by
    rw [← a1, hq3]; split
    · exact ⟨q1.results, rfl⟩
    · exact ⟨_, rfl⟩
  have hk1 : k1 = match pl.fpmode with
      | some m => if pl.fpLanes.any fun l => !dead.contains l then { q6 with fpmode := m } else q6
      | none => q6 := rfl
  have hk2 : ∃ m, k1 = { q6 with fpmode := m } := by
    rw [hk1]; split
    · split
      · exact ⟨_, rfl⟩
      · exact ⟨q6.fpmode, rfl⟩
    · exact ⟨q6.fpmode, rfl⟩
  obtain ⟨m, hm⟩ := hk2
  have e6 : skeinButFiles q6 = { skeinButFiles k with seq := k.seq + 1 } := (butFiles_of d1).trans ((butFiles_of c1).trans (b1.trans e3))
  have mode_of_queues : ∀ {x y : Option Lane}, x.map laneButQueues = y.map laneButQueues → x.map (·.mode) = y.map (·.mode) := by
    intro x y h
    have : ∀ z : Option Lane, z.map (·.mode) = (z.map laneButQueues).map (·.mode) := by intro z; cases z <;> rfl
    rw [this x, this y, h]
  have mode_of_regs : ∀ {x y : Option Lane}, x.map laneButRegs = y.map laneButRegs → x.map (·.mode) = y.map (·.mode) := by
    intro x y h
    have : ∀ z : Option Lane, z.map (·.mode) = (z.map laneButRegs).map (·.mode) := by intro z; cases z <;> rfl
    rw [this x, this y, h]
  have exits_mode : ∀ (ls : List Nat) (q : Skein) (j : Nat), ((q.onLanes ls fun _ a => a.exit fr.mode).lanes[j]?).map (·.mode) = (q.lanes[j]?).map (·.mode) := by
    intro ls; unfold Skein.onLanes
    induction ls with
    | nil => intro q j; rfl
    | cons l ls ih =>
      intro q j
      rw [List.foldl_cons, ih]
      apply onLane_keeps
      intro a; unfold Lane.exit; split <;> rfl
  refine ⟨⟨m, ?_⟩, ?_, ?_, ?_, ?_⟩
  rotate_left 2
  · intro j; rw [hm]; show (q6.lanes[j]?).map _ = _
    rw [mode_of_queues (d2 j), exits_mode, mode_of_regs (b2 j), mode_of_queues (hl3 j)]
  rotate_left 2
  · have : skeinButFiles k1 = { skeinButFiles q6 with fpmode := m } := by rw [hm]; rfl
    rw [this, e6]
  · intro j hj; rw [hm]; show (q6.lanes[j]?).map laneButRegs = _
    have : q5.lanes[j]? = q4.lanes[j]? := Skein.exits_rest _ _ _ _ (by intro h; exact hj (List.mem_filter.1 h).1)
    rw [laneButRegs_of (d2 j), this, b2 j, laneButRegs_of (hl3 j)]
  · intro hl hlat
    have h4 : q4 = q3 := by simp only [q4, hl, List.filter_nil, List.foldl_nil]
    rw [hm]; show q6.results = _
    have : q6.results = q1.results ++ [pl.result fr lead dead spoiled exc hold k.seq] := by
      have : q6.results = (skeinButLanes q6).results := rfl
      rw [this, d1, c1, h4, hq3]; simp only [hlat, if_false]; rfl
    rw [this]
    have : q1.results = (skeinButLanes q1).results := rfl
    rw [this, a1]; rfl
  · intro hl he hf
    have : k1 = q6 := by rw [hk1, hf]
    have h4 : q4 = q3 := by simp only [q4, hl, List.filter_nil, List.foldl_nil]
    have h5 : q5 = q4 := by simp only [q5, he, List.filter_nil]; rfl
    rw [this]
    refine ⟨?_, fun j => ?_⟩
    · rw [d1, h5, h4]; exact e0
    · rw [d2 j, h5, h4, hl3]

end Sys2Proof.Machine
end

