-- ==== Sys2Proof/Laws/Cells.lean ====
section
/-!
SUPPORT. Sys2Proof/Laws/Cells.lean: the laws of sparse stores, of register files and of byte memories: what a read after a write gives,
and that every write keeps the canonical form.
-/
namespace Sys2Proof.Machine

/-! ## Reading -/

theorem cellGet_erase {α : Type} (d : α) (m : List (Nat × α)) (i j : Nat) :
    cellGet d (cellErase m i) j = if j = i then d else cellGet d m j := by
  induction m with
  | nil => simp [cellErase, cellGet]
  | cons c m ih =>
    obtain ⟨k, v⟩ := c
    simp only [cellErase, List.filter_cons] at ih ⊢
    by_cases hk : k = i
    · subst hk
      simp only [bne_self_eq_false, Bool.false_eq_true, if_false, ih, cellGet]
      by_cases hj : j = k <;> simp [hj, eq_comm]
    · by_cases hj : k = j
      · subst hj
        simp [hk, cellGet]
      · simp [hk, cellGet, ih, hj]

/-- What a store holds after one index is changed, whether it is canonical or not. -/
theorem cellGet_set {α : Type} [DecidableEq α] (d : α) (m : List (Nat × α)) (i j : Nat) (x : α) :
    cellGet d (cellSet d m i x) j = if j = i then x else cellGet d m j := by
  induction m with
  | nil =>
    by_cases hx : x = d
    · simp [cellSet, cellGet, hx]
    · by_cases hj : i = j <;> simp [cellSet, cellGet, hx, hj, eq_comm]
  | cons c m ih =>
    obtain ⟨k, v⟩ := c
    by_cases h1 : i < k
    · by_cases h2 : x = d
      · have e : cellSet d ((k, v) :: m) i x = (k, v) :: cellErase m i := by simp [cellSet, h1, h2]
        rw [e]
        by_cases hk : k = j
        · have : j ≠ i := by omega
          simp [cellGet, hk, this]
        · have : ¬ k = i := by omega
          by_cases hj : j = i <;> simp [cellGet, cellGet_erase, hk, hj, h2, this]
      · have e : cellSet d ((k, v) :: m) i x = (i, x) :: (k, v) :: m := by simp [cellSet, h1, h2]
        rw [e]
        by_cases hj : j = i
        · simp [cellGet, hj]
        · have : ¬ i = j := fun h => hj h.symm
          simp [cellGet, hj, this]
    · by_cases h3 : i = k
      · subst h3
        by_cases h2 : x = d
        · have e : cellSet d ((i, v) :: m) i x = cellErase m i := by simp [cellSet, h2]
          rw [e, cellGet_erase]
          by_cases hj : j = i
          · simp [hj, h2]
          · have : ¬ i = j := fun h => hj h.symm
            simp [cellGet, hj, this]
        · have e : cellSet d ((i, v) :: m) i x = (i, x) :: m := by simp [cellSet, h2]
          rw [e]
          by_cases hj : j = i
          · simp [cellGet, hj]
          · have : ¬ i = j := fun h => hj h.symm
            simp [cellGet, hj, this]
      · have e : cellSet d ((k, v) :: m) i x = (k, v) :: cellSet d m i x := by simp [cellSet, h1, h3]
        rw [e]
        by_cases hk : k = j
        · have : j ≠ i := by omega
          simp [cellGet, hk, this]
        · simp [cellGet, hk, ih]

/-! ## The canonical form -/

/-- The canonical form, as a statement about the list. -/
theorem cellWf_iff {α : Type} [DecidableEq α] (d : α) (m : List (Nat × α)) :
    cellWf d m = true ↔ m.Pairwise (fun a b => a.1 < b.1) ∧ ∀ c ∈ m, c.2 ≠ d := by
  induction m with
  | nil => simp [cellWf]
  | cons c m ih =>
    obtain ⟨k, v⟩ := c
    cases m with
    | nil => simp [cellWf]
    | cons c' m =>
      obtain ⟨k', v'⟩ := c'
      simp only [cellWf, Bool.and_eq_true, decide_eq_true_eq, ih, List.pairwise_cons, List.mem_cons, forall_eq_or_imp]
      constructor
      · rintro ⟨⟨hv, hk⟩, ⟨⟨h1, h2⟩, h3, h4⟩⟩
        exact ⟨⟨⟨hk, fun a ha => lt_trans hk (h1 a ha)⟩, h1, h2⟩, hv, h3, h4⟩
      · rintro ⟨⟨⟨hk, _⟩, h1, h2⟩, hv, h3, h4⟩
        exact ⟨⟨hv, hk⟩, ⟨⟨h1, h2⟩, h3, h4⟩⟩

/-- Erasing keeps the canonical form. -/
theorem cellErase_wf {α : Type} [DecidableEq α] (d : α) (m : List (Nat × α)) (i : Nat) (h : cellWf d m = true) :
    cellWf d (cellErase m i) = true := by
  rw [cellWf_iff] at h ⊢
  exact ⟨h.1.filter _, fun c hc => h.2 c (List.mem_of_mem_filter hc)⟩

theorem mem_cellErase {α : Type} (m : List (Nat × α)) (i : Nat) (c : Nat × α) : c ∈ cellErase m i ↔ c ∈ m ∧ c.1 ≠ i := by
  simp [cellErase, List.mem_filter]

/-- Every entry of a changed store is the new one or an old one of another index. -/
theorem mem_cellSet {α : Type} [DecidableEq α] (d : α) (m : List (Nat × α)) (i : Nat) (x : α) (c : Nat × α)
    (h : c ∈ cellSet d m i x) : (c = (i, x) ∧ x ≠ d) ∨ c ∈ m := by
  induction m with
  | nil =>
    unfold cellSet at h
    split_ifs at h with hx
    · simp at h
    · simp only [List.mem_singleton] at h
      exact .inl ⟨h, hx⟩
  | cons a m ih =>
    obtain ⟨k, v⟩ := a
    unfold cellSet at h
    split_ifs at h with h1 h2 h3 h4 <;> simp only [List.mem_cons, mem_cellErase] at h ⊢
    · tauto
    · tauto
    · tauto
    · tauto
    · rcases h with h | h
      · exact .inr (.inl h)
      · rcases ih h with h | h
        · exact .inl h
        · exact .inr (.inr h)

/-- Changing one index keeps the canonical form. -/
theorem cellSet_wf {α : Type} [DecidableEq α] (d : α) (m : List (Nat × α)) (i : Nat) (x : α) (h : cellWf d m = true) :
    cellWf d (cellSet d m i x) = true := by
  induction m with
  | nil => unfold cellSet; split_ifs with hx <;> simp [cellWf, hx]
  | cons a m ih =>
    obtain ⟨k, v⟩ := a
    rw [cellWf_iff] at h
    simp only [List.pairwise_cons, List.mem_cons, forall_eq_or_imp] at h
    obtain ⟨⟨hk, hp⟩, hv, hm⟩ := h
    have hmwf : cellWf d m = true := (cellWf_iff d m).2 ⟨hp, hm⟩
    unfold cellSet
    split_ifs with h1 h2 h3 h4
    · rw [cellWf_iff]
      simp only [List.pairwise_cons, List.mem_cons, forall_eq_or_imp, mem_cellErase]
      exact ⟨⟨fun a ha => hk a ha.1, (hp.filter _)⟩, hv, fun a ha => hm a ha.1⟩
    · rw [cellWf_iff]
      simp only [List.pairwise_cons, List.mem_cons, forall_eq_or_imp]
      exact ⟨⟨⟨h1, fun a ha => lt_trans h1 (hk a ha)⟩, hk, hp⟩, h2, hv, hm⟩
    · exact cellErase_wf d m i hmwf
    · rw [cellWf_iff]
      simp only [List.pairwise_cons, List.mem_cons, forall_eq_or_imp]
      exact ⟨⟨fun a ha => h3 ▸ hk a ha, hp⟩, h4, hm⟩
    · have hr := (cellWf_iff d _).1 (ih hmwf)
      rw [cellWf_iff]
      simp only [List.pairwise_cons, List.mem_cons, forall_eq_or_imp]
      refine ⟨⟨fun a ha => ?_, hr.1⟩, hv, hr.2⟩
      rcases mem_cellSet d m i x a ha with h | h
      · rw [h.1]; omega
      · exact hk a h

/-- Two canonical stores that hold the same are the same list. -/
theorem cellWf_ext {α : Type} [DecidableEq α] (d : α) (m n : List (Nat × α)) (hm : cellWf d m = true) (hn : cellWf d n = true)
    (h : ∀ i, cellGet d m i = cellGet d n i) : m = n := by
  have absent : ∀ (l : List (Nat × α)) (i : Nat), (∀ c ∈ l, i < c.1) → cellGet d l i = d := by
    intro l i hl
    induction l with
    | nil => rfl
    | cons c l ih =>
      have := hl c (List.mem_cons_self ..)
      have hc : ¬ c.1 = i := by omega
      simp [cellGet, hc, ih fun c hc => hl c (List.mem_cons_of_mem _ hc)]
  rw [cellWf_iff] at hm hn
  induction m generalizing n with
  | nil =>
    cases n with
    | nil => rfl
    | cons c n =>
      have := h c.1
      simp [cellGet] at this
      exact absurd this.symm (hn.2 c (List.mem_cons_self ..))
  | cons a m ih =>
    cases n with
    | nil =>
      have := h a.1
      simp [cellGet] at this
      exact absurd this (hm.2 a (List.mem_cons_self ..))
    | cons b n =>
      obtain ⟨⟨hap, hp⟩, hav⟩ := And.intro (List.pairwise_cons.1 hm.1) hm.2
      obtain ⟨⟨hbp, hq⟩, hbv⟩ := And.intro (List.pairwise_cons.1 hn.1) hn.2
      have hab : a.1 = b.1 := by
        rcases lt_trichotomy a.1 b.1 with hlt | heq | hlt
        · have e := h a.1
          have hb : ¬ b.1 = a.1 := by omega
          have : cellGet d n a.1 = d := absent n a.1 fun c hc => lt_trans hlt (hbp c hc)
          simp [cellGet, hb, this] at e
          exact absurd e (hav a (List.mem_cons_self ..))
        · exact heq
        · have e := h b.1
          have ha : ¬ a.1 = b.1 := by omega
          have : cellGet d m b.1 = d := absent m b.1 fun c hc => lt_trans hlt (hap c hc)
          simp [cellGet, ha, this] at e
          exact absurd e.symm (hbv b (List.mem_cons_self ..))
      have hv : a.2 = b.2 := by simpa [cellGet, hab] using h a.1
      have tails : m = n := by
        refine ih n ⟨hp, fun c hc => hav c (List.mem_cons_of_mem _ hc)⟩ ⟨hq, fun c hc => hbv c (List.mem_cons_of_mem _ hc)⟩ fun i => ?_
        by_cases hi : a.1 = i
        · subst hi
          rw [absent m a.1 hap, absent n a.1 fun c hc => hab ▸ hbp c hc]
        · have hi' : ¬ b.1 = i := fun e => hi (hab.trans e)
          simpa [cellGet, hi, hi'] using h i
      rw [tails, Prod.ext hab hv]

/-! ## Register files -/

@[simp] theorem Regs.get_set (m : Regs) (i j : Nat) (x : Word) : (m.set i x).get j = if j = i then x else m.get j :=
  cellGet_set 0 m i j x

/-! ## Bytes -/

@[simp] theorem Bytes.get_set (m : Bytes) (a b : Nat) (x : Byte) : (m.set a x).get b = if b = a then x else m.get b :=
  cellGet_set blankByte m a b x

theorem Bytes.set_wf (m : Bytes) (a : Nat) (x : Byte) (h : m.wf = true) : (m.set a x).wf = true := cellSet_wf blankByte m a x h

/-- What a memory holds after a list of bytes is stored from an address. -/
theorem Bytes.get_put (m : Bytes) (a b : Nat) (xs : List Byte) :
    (m.put a xs).get b = if h : a ≤ b ∧ b - a < xs.length then xs[b - a] else m.get b := by
  induction xs generalizing m a with
  | nil => simp [Bytes.put]
  | cons x xs ih =>
    simp only [Bytes.put, ih, Bytes.get_set, List.length_cons]
    by_cases h1 : a + 1 ≤ b
    · have e : b - a = (b - (a + 1)) + 1 := by omega
      by_cases h2 : b - (a + 1) < xs.length
      · rw [dif_pos ⟨h1, h2⟩, dif_pos (by omega)]
        simp [e]
      · rw [dif_neg (by omega), dif_neg (by omega), if_neg (by omega)]
    · by_cases h2 : b = a
      · subst h2
        simp
      · rw [dif_neg (by omega), dif_neg (by omega), if_neg h2]

/-- A byte outside a stored list keeps. -/
theorem Bytes.get_put_outside (m : Bytes) (a b : Nat) (xs : List Byte) (h : b < a ∨ a + xs.length ≤ b) :
    (m.put a xs).get b = m.get b := by
  rw [Bytes.get_put, dif_neg (by omega)]

/-- A byte inside a stored list. -/
theorem Bytes.get_put_inside (m : Bytes) (a i : Nat) (xs : List Byte) (h : i < xs.length) :
    (m.put a xs).get (a + i) = xs[i] := by
  rw [Bytes.get_put, dif_pos ⟨by omega, by omega⟩]
  simp

theorem Bytes.put_wf (m : Bytes) (a : Nat) (xs : List Byte) (h : m.wf = true) : (m.put a xs).wf = true := by
  induction xs generalizing m a with
  | nil => exact h
  | cons x xs ih => exact ih _ _ (Bytes.set_wf m a x h)

/-- The little-endian bytes of a number. -/
@[simp] theorem leBytes_length (x n : Nat) : (leBytes x n).length = n := by
  induction n generalizing x with
  | zero => rfl
  | succ n ih => simp [leBytes, ih]

theorem leBytes_get (x n i : Nat) (h : i < (leBytes x n).length) : (leBytes x n)[i] = BitVec.ofNat 8 (x / 256 ^ i % 256) := by
  induction n generalizing x i with
  | zero => simp [leBytes] at h
  | succ n ih =>
    cases i with
    | zero => simp [leBytes]
    | succ i =>
      simp only [leBytes, List.getElem_cons_succ]
      rw [ih]
      rw [Nat.div_div_eq_div_mul, pow_succ']

/-- A number's bytes give it back, as far as they go. -/
theorem leNat_leBytes (x n : Nat) : leNat (leBytes x n) = x % 256 ^ n := by
  induction n generalizing x with
  | zero => simp [leBytes, leNat, Nat.mod_one]
  | succ n ih =>
    simp only [leBytes, leNat, ih, BitVec.toNat_ofNat]
    rw [show x % 256 % 2 ^ 8 = x % 256 by omega, pow_succ' 256 n, Nat.mod_mul]

/-- Storing a number is storing its bytes. -/
theorem Bytes.write_eq_put (m : Bytes) (a n x : Nat) : m.write a n x = m.put a (leBytes x n) := by
  induction n generalizing m a x with
  | zero => rfl
  | succ n ih => simp only [Bytes.write, leBytes, Bytes.put, ih]

theorem Bytes.write_wf (m : Bytes) (a n x : Nat) (h : m.wf = true) : (m.write a n x).wf = true := by
  rw [Bytes.write_eq_put]; exact Bytes.put_wf m a _ h

theorem Bytes.get_write_outside (m : Bytes) (a n x b : Nat) (h : b < a ∨ a + n ≤ b) : (m.write a n x).get b = m.get b := by
  rw [Bytes.write_eq_put]; exact Bytes.get_put_outside m a b _ (by simpa using h)

theorem Bytes.get_write_inside (m : Bytes) (a n x i : Nat) (h : i < n) :
    (m.write a n x).get (a + i) = BitVec.ofNat 8 (x / 256 ^ i % 256) := by
  rw [Bytes.write_eq_put, Bytes.get_put_inside m a i _ (by simpa using h), leBytes_get]

/-- Reading is collecting the bytes. -/
theorem Bytes.read_eq_leNat (m : Bytes) (a n : Nat) : m.read a n = leNat (m.list a n) := by
  induction n generalizing a with
  | zero => rfl
  | succ n ih => simp only [Bytes.read, Bytes.list, leNat, ih]

@[simp] theorem Bytes.list_length (m : Bytes) (a n : Nat) : (m.list a n).length = n := by
  induction n generalizing a with
  | zero => rfl
  | succ n ih => simp [Bytes.list, ih]

theorem Bytes.list_get (m : Bytes) (a n i : Nat) (h : i < (m.list a n).length) : (m.list a n)[i] = m.get (a + i) := by
  induction n generalizing a i with
  | zero => simp [Bytes.list] at h
  | succ n ih =>
    cases i with
    | zero => simp [Bytes.list]
    | succ i =>
      simp only [Bytes.list, List.getElem_cons_succ, ih]
      congr 1; omega

/-- The bytes just stored. -/
theorem Bytes.list_put (m : Bytes) (a : Nat) (xs : List Byte) : (m.put a xs).list a xs.length = xs := by
  refine List.ext_getElem (by simp) fun i h1 h2 => ?_
  rw [Bytes.list_get, Bytes.get_put_inside m a i xs h2]

/-- The number just stored, as far as its width goes. -/
theorem Bytes.read_write (m : Bytes) (a n x : Nat) : (m.write a n x).read a n = x % 256 ^ n := by
  rw [Bytes.read_eq_leNat, Bytes.write_eq_put]
  conv_lhs => rw [← leBytes_length x n]
  rw [leBytes_length, show (m.put a (leBytes x n)).list a n = leBytes x n by
    simpa using Bytes.list_put m a (leBytes x n), leNat_leBytes]

/-- Two memories that agree on a range read alike there. -/
theorem Bytes.read_congr (m k : Bytes) (a n : Nat) (h : ∀ i, i < n → m.get (a + i) = k.get (a + i)) : m.read a n = k.read a n := by
  rw [Bytes.read_eq_leNat, Bytes.read_eq_leNat]
  congr 1
  refine List.ext_getElem (by simp) fun i h1 h2 => ?_
  rw [Bytes.list_get, Bytes.list_get]
  exact h i (by simpa using h1)

theorem leNat_lt (xs : List Byte) : leNat xs < 256 ^ xs.length := by
  induction xs with
  | nil => simp [leNat]
  | cons x xs ih =>
    have := x.isLt
    simp only [leNat, List.length_cons, pow_succ]
    omega

theorem Bytes.read_lt (m : Bytes) (a n : Nat) : m.read a n < 256 ^ n := by
  rw [Bytes.read_eq_leNat]; simpa using leNat_lt (m.list a n)

/-- Stored fields keep the canonical form. -/
theorem Bytes.fields_wf (m : Bytes) (base : Nat) (xs : List (Nat × Nat × Nat)) (h : m.wf = true) : (m.fields base xs).wf = true := by
  unfold Bytes.fields
  induction xs generalizing m with
  | nil => exact h
  | cons x xs ih => exact ih _ (Bytes.write_wf m _ _ _ h)

/-- A piece of a canonical memory is canonical. -/
theorem Bytes.cut_wf (m : Bytes) (a n : Nat) (h : m.wf = true) : (m.cut a n).wf = true := by
  unfold Bytes.wf at h ⊢
  rw [cellWf_iff] at h ⊢
  unfold Bytes.cut
  refine ⟨List.pairwise_map.2 ((h.1.filter _).imp_of_mem fun ha hb hab => ?_), fun c hc => ?_⟩
  · simp only [List.mem_filter, Bool.and_eq_true, decide_eq_true_eq] at ha hb
    simp only
    omega
  · obtain ⟨b, hb, rfl⟩ := List.mem_map.1 hc
    exact h.2 b (List.mem_of_mem_filter hb)

/-- A canonical memory pasted into another leaves it canonical. -/
theorem Bytes.paste_wf (m : Bytes) (a n : Nat) (src : Bytes) (h : m.wf = true) (hs : src.wf = true) : (m.paste a n src).wf = true := by
  unfold Bytes.wf at h hs ⊢
  rw [cellWf_iff] at h hs ⊢
  unfold Bytes.paste
  refine ⟨?_, ?_⟩
  · rw [List.pairwise_append, List.pairwise_append]
    refine ⟨⟨h.1.filter _, List.pairwise_map.2 ((hs.1.filter _).imp fun hab => ?_), ?_⟩, h.1.filter _, ?_⟩
    · simp only
      omega
    · intro x hx y hy
      obtain ⟨c, hc, rfl⟩ := List.mem_map.1 hy
      simp only [List.mem_filter, decide_eq_true_eq] at hx
      simp only
      omega
    · intro x hx y hy
      simp only [List.mem_append, List.mem_filter, List.mem_map, decide_eq_true_eq] at hx hy
      rcases hx with hx | ⟨c, hc, rfl⟩
      · omega
      · simp only
        omega
  · intro c hc
    simp only [List.mem_append, List.mem_filter, List.mem_map] at hc
    rcases hc with (hc | ⟨b, hb, rfl⟩) | hc
    · exact h.2 c hc.1
    · exact hs.2 b hb.1
    · exact h.2 c hc.1

end Sys2Proof.Machine
end

