-- ==== Sys2Proof/Laws/Encoding.lean ====
section
/-!
SUPPORT. Sys2Proof/Laws/Encoding.lean: the fields of a slot survive packing into 96 bits and back, and each layout of MOD survives its codes.
-/
namespace Sys2Proof

/-- Every field of a slot fits its bits (R34). -/
def Raw.fits (r : Raw) : Prop :=
  r.op < 256 ∧ r.stall < 16 ∧ r.pred < 8 ∧ r.pneg < 2 ∧ r.dst < 256 ∧ r.sa < 256 ∧ r.sb < 256 ∧ r.sc < 256 ∧ r.mod < 65536
    ∧ r.lit < 4294967296

theorem Raw.toNat_lt (r : Raw) (h : r.fits) : r.toNat < 2 ^ 96 := by
  obtain ⟨h1, h2, h3, h4, h5, h6, h7, h8, h9, h10⟩ := h
  simp only [Raw.toNat]
  omega

theorem Raw.ofNat_toNat (r : Raw) (h : r.fits) : Raw.ofNat r.toNat = r := by
  obtain ⟨h1, h2, h3, h4, h5, h6, h7, h8, h9, h10⟩ := h
  cases r with
  | mk op stall pred pneg dst sa sb sc mod lit =>
    simp only [Raw.toNat, Raw.ofNat, Raw.mk.injEq] at *
    refine ⟨?_, ?_, ?_, ?_, ?_, ?_, ?_, ?_, ?_, ?_⟩ <;> omega

theorem srcCode_lt (x : Src) : srcCode x < 256 := by
  cases x <;> simp only [srcCode] <;> omega

theorem dstCode_lt (x : Dst) : dstCode x < 256 := by
  cases x <;> simp only [dstCode] <;> omega

theorem srcOfCode_srcCode : ∀ x : Src, srcOfCode (srcCode x) = x
  | .v n => by revert n; decide
  | .q n => by revert n; decide
  | .k n => by revert n; decide
  | .f n => by revert n; decide
  | .lane | .skeinIx | .plyIx | .plyLane | .origin | .zero | .lit => by decide
  | .reserved n => by revert n; decide
  | .t n => by revert n; decide
  | .x n => by revert n; decide
  | .s n => by revert n; decide

theorem dstOfCode_dstCode : ∀ x : Dst, dstOfCode (dstCode x) = x
  | .v n => by revert n; decide
  | .q n => by revert n; decide
  | .k n => by revert n; decide
  | .f n => by revert n; decide
  | .index n => by revert n; decide
  | .t n => by revert n; decide
  | .x n => by revert n; decide
  | .s n => by revert n; decide
  | .push | .none => by decide

theorem Bool.toNat_beq_one (b : Bool) : (b.toNat == 1) = b := by cases b <;> rfl

theorem Fin.ofNat_val {n : Nat} [NeZero n] (x : Fin n) : Fin.ofNat n x.val = x := by
  ext; simp [Fin.ofNat, Nat.mod_eq_of_lt x.isLt]

/-- The slot fields come back whatever OP and MOD are. -/
theorem Raw.slot_of (op mod : Nat) (s : Slot) : (Raw.of op s mod).slot = s := by
  simp [Raw.of, Raw.slot, srcOfCode_srcCode, dstOfCode_dstCode]

theorem Raw.fits_of (op mod : Nat) (s : Slot) (ho : op < 256) (hm : mod < 65536) : (Raw.of op s mod).fits := by
  refine ⟨ho, s.stall.isLt, s.pred.isLt, ?_, dstCode_lt _, srcCode_lt _, srcCode_lt _, srcCode_lt _, hm, s.lit.isLt⟩
  simp only [Raw.of]; cases s.pneg <;> decide

/-! ## Codes of MOD fields -/

theorem tyOfCode_tyCode (t : Ty) : tyOfCode (tyCode t) = t := by cases t <;> rfl
theorem tyCode_lt (t : Ty) : tyCode t < 16 := by cases t <;> decide
theorem rndOfCode_rndCode (x : Rnd) : rndOfCode (rndCode x) = some x := by cases x <;> rfl
theorem rndCode_lt (x : Rnd) : rndCode x < 8 := by cases x <;> decide
theorem spaceOfCode_spaceCode (x : Space) : spaceOfCode (spaceCode x) = some x := by cases x <;> rfl
theorem spaceCode_lt (x : Space) : spaceCode x < 8 := by cases x <;> decide
theorem scopeOfCode_scopeCode (x : Scope) : scopeOfCode (scopeCode x) = some x := by cases x <;> rfl
theorem scopeCode_lt (x : Scope) : scopeCode x < 8 := by cases x <;> decide
theorem ordOfCode_ordCode (x : Ord) : ordOfCode (ordCode x) = x := by cases x <;> rfl
theorem ordCode_lt (x : Ord) : ordCode x < 4 := by cases x <;> decide
theorem cpolOfCode_cpolCode (x : Cpol) : cpolOfCode (cpolCode x) = x := by cases x <;> rfl
theorem cpolCode_lt (x : Cpol) : cpolCode x < 4 := by cases x <;> decide
theorem sizeOfCode_sizeCode (x : Size) : sizeOfCode (sizeCode x) = some x := by cases x <;> rfl
theorem sizeCode_lt (x : Size) : sizeCode x < 8 := by cases x <;> decide
theorem mbsOfCode_mbsCode (x : ObjSpace) : mbsOfCode (mbsCode x) = some x := by cases x <;> rfl
theorem mbsCode_lt (x : ObjSpace) : mbsCode x < 4 := by cases x <;> decide
theorem formOfCode_formCode (x : CopyForm) : formOfCode (formCode x) = some x := by cases x <;> rfl
theorem formCode_lt (x : CopyForm) : formCode x < 4 := by cases x <;> decide
theorem trnOfCode_trnCode (x : Trn) : trnOfCode (trnCode x) = some x := by cases x <;> rfl
theorem trnCode_lt (x : Trn) : trnCode x < 4 := by cases x <;> decide
theorem copOfCode_copCode (x : Cop) : copOfCode (copCode x) = x := by cases x <;> rfl
theorem copCode_lt (x : Cop) : copCode x < 4 := by cases x <;> decide
theorem ropOfCode_ropCode (x : Rop) : ropOfCode (ropCode x) = some x := by cases x <;> rfl
theorem ropCode_lt (x : Rop) : ropCode x < 8 := by cases x <;> decide

/-! ## Layouts of MOD -/

/-- MOD of the ALU layout. -/
def aluMod (a : Alu) : Nat :=
  a.sf.toNat * 32768 + tyCode a.ty * 2048 + rndCode a.rnd * 256 + a.sat.toNat * 128 + a.sub.val * 16
    + a.aneg.toNat * 8 + a.aabs.toNat * 4 + a.bneg.toNat * 2 + a.babs.toNat

theorem aluMod_lt (a : Alu) : aluMod a < 65536 := by
  have h1 := tyCode_lt a.ty
  have h2 := rndCode_lt a.rnd
  have h3 := a.sub.isLt
  have hb (b : Bool) : b.toNat < 2 := by cases b <;> decide
  have := hb a.sf; have := hb a.sat; have := hb a.aneg; have := hb a.aabs; have := hb a.bneg; have := hb a.babs
  simp only [aluMod]
  omega

theorem Raw.alu_ofAlu (op : Nat) (a : Alu) : (Raw.ofAlu op a).alu = some a := by
  have h1 := tyCode_lt a.ty
  have h2 := rndCode_lt a.rnd
  have h3 := a.sub.isLt
  have hb (b : Bool) : b.toNat < 2 := by cases b <;> decide
  have := hb a.sf; have := hb a.sat; have := hb a.aneg; have := hb a.aabs; have := hb a.bneg; have := hb a.babs
  have hm : (Raw.ofAlu op a).mod = aluMod a := rfl
  have e1 : aluMod a / 256 % 8 = rndCode a.rnd := by simp only [aluMod]; omega
  have e2 : aluMod a / 32768 % 2 = a.sf.toNat := by simp only [aluMod]; omega
  have e3 : aluMod a / 2048 % 16 = tyCode a.ty := by simp only [aluMod]; omega
  have e4 : aluMod a / 128 % 2 = a.sat.toNat := by simp only [aluMod]; omega
  have e5 : aluMod a / 16 % 8 = a.sub.val := by simp only [aluMod]; omega
  have e6 : aluMod a / 8 % 2 = a.aneg.toNat := by simp only [aluMod]; omega
  have e7 : aluMod a / 4 % 2 = a.aabs.toNat := by simp only [aluMod]; omega
  have e8 : aluMod a / 2 % 2 = a.bneg.toNat := by simp only [aluMod]; omega
  have e9 : aluMod a % 2 = a.babs.toNat := by simp only [aluMod]; omega
  have hs : (Raw.ofAlu op a).slot = a.slot := Raw.slot_of op _ a.slot
  simp only [Raw.alu, hm, e1, e2, e3, e4, e5, e6, e7, e8, e9, hs, rndOfCode_rndCode, tyOfCode_tyCode, Bool.toNat_beq_one,
    Fin.ofNat_val, Option.map_some]

theorem Raw.fits_ofAlu (op : Nat) (a : Alu) (h : op < 256) : (Raw.ofAlu op a).fits := Raw.fits_of op _ a.slot h (aluMod_lt a)

/-- MOD of the memory layout. -/
def memMod (m : Mem) : Nat :=
  spaceCode m.space * 8192 + scopeCode m.scope * 1024 + ordCode m.ord * 256 + cpolCode m.cpol * 64 + sizeCode m.size * 8 + m.msub.val

theorem memMod_lt (m : Mem) : memMod m < 65536 := by
  have := spaceCode_lt m.space; have := scopeCode_lt m.scope; have := ordCode_lt m.ord
  have := cpolCode_lt m.cpol; have := sizeCode_lt m.size; have := m.msub.isLt
  simp only [memMod]
  omega

theorem Raw.memory_ofMem (op : Nat) (m : Mem) : (Raw.ofMem op m).memory = some m := by
  have := spaceCode_lt m.space; have := scopeCode_lt m.scope; have := ordCode_lt m.ord
  have := cpolCode_lt m.cpol; have := sizeCode_lt m.size; have := m.msub.isLt
  have hm : (Raw.ofMem op m).mod = memMod m := rfl
  have e1 : memMod m / 8192 % 8 = spaceCode m.space := by simp only [memMod]; omega
  have e2 : memMod m / 1024 % 8 = scopeCode m.scope := by simp only [memMod]; omega
  have e3 : memMod m / 256 % 4 = ordCode m.ord := by simp only [memMod]; omega
  have e4 : memMod m / 64 % 4 = cpolCode m.cpol := by simp only [memMod]; omega
  have e5 : memMod m / 8 % 8 = sizeCode m.size := by simp only [memMod]; omega
  have e6 : memMod m % 8 = m.msub.val := by simp only [memMod]; omega
  have hs : (Raw.ofMem op m).slot = m.slot := Raw.slot_of op _ m.slot
  simp only [Raw.memory, hm, e1, e2, e3, e4, e5, e6, hs, spaceOfCode_spaceCode, scopeOfCode_scopeCode, sizeOfCode_sizeCode,
    ordOfCode_ordCode, cpolOfCode_cpolCode, Fin.ofNat_val]

theorem Raw.fits_ofMem (op : Nat) (m : Mem) (h : op < 256) : (Raw.ofMem op m).fits := Raw.fits_of op _ m.slot h (memMod_lt m)

theorem cpyMod_cpyCode (m : CopyMod) : cpyMod (cpyCode m) = some m := by
  have := spaceCode_lt m.ssp; have := spaceCode_lt m.dsp; have := formCode_lt m.form
  have := trnCode_lt m.trn; have := mbsCode_lt m.mbs; have := m.chan.isLt
  have e1 : cpyCode m / 8192 % 8 = spaceCode m.ssp := by simp only [cpyCode]; omega
  have e2 : cpyCode m / 1024 % 8 = spaceCode m.dsp := by simp only [cpyCode]; omega
  have e3 : cpyCode m / 256 % 4 = formCode m.form := by simp only [cpyCode]; omega
  have e4 : cpyCode m / 8 % 4 = trnCode m.trn := by simp only [cpyCode]; omega
  have e5 : cpyCode m / 2 % 4 = mbsCode m.mbs := by simp only [cpyCode]; omega
  have e6 : cpyCode m % 2 = 0 := by simp only [cpyCode]; omega
  have e7 : cpyCode m / 32 % 8 = m.chan.val := by simp only [cpyCode]; omega
  simp only [cpyMod, e1, e2, e3, e4, e5, e6, e7, spaceOfCode_spaceCode, formOfCode_formCode, trnOfCode_trnCode, mbsOfCode_mbsCode,
    Fin.ofNat_val]

theorem cpyCode_lt (m : CopyMod) : cpyCode m < 65536 := by
  have := spaceCode_lt m.ssp; have := spaceCode_lt m.dsp; have := formCode_lt m.form
  have := trnCode_lt m.trn; have := mbsCode_lt m.mbs; have := m.chan.isLt
  simp only [cpyCode]; omega

theorem xfmMod_xfmCode (m : XfmMod) : xfmMod (xfmCode m) = some m := by
  have := m.op.isLt; have := rndCode_lt m.rnd; have := mbsCode_lt m.mbs
  have hb : m.sat.toNat < 2 := by cases m.sat <;> decide
  have e1 : xfmCode m / 1024 % 8 = rndCode m.rnd := by simp only [xfmCode]; omega
  have e2 : xfmCode m / 8 % 64 = 0 := by simp only [xfmCode]; omega
  have e3 : xfmCode m / 2 % 4 = mbsCode m.mbs := by simp only [xfmCode]; omega
  have e4 : xfmCode m % 2 = 0 := by simp only [xfmCode]; omega
  have e5 : xfmCode m / 8192 % 8 = m.op.val := by simp only [xfmCode]; omega
  have e6 : xfmCode m / 512 % 2 = m.sat.toNat := by simp only [xfmCode]; omega
  simp only [xfmMod, e1, e2, e3, e4, e5, e6, rndOfCode_rndCode, mbsOfCode_mbsCode, Fin.ofNat_val, Bool.toNat_beq_one]

theorem xfmCode_lt (m : XfmMod) : xfmCode m < 65536 := by
  have := m.op.isLt; have := rndCode_lt m.rnd; have := mbsCode_lt m.mbs
  have hb : m.sat.toNat < 2 := by cases m.sat <;> decide
  simp only [xfmCode]; omega

theorem qntMod_qntCode (m : QntMod) : qntMod (qntCode m) = some m := by
  have := tyCode_lt m.ty; have := rndCode_lt m.rnd
  have e1 : qntCode m / 32768 % 2 = 0 := by simp only [qntCode]; omega
  have e2 : qntCode m / 256 % 8 = rndCode m.rnd := by simp only [qntCode]; omega
  have e3 : qntCode m % 256 = 0 := by simp only [qntCode]; omega
  have e4 : qntCode m / 2048 % 16 = tyCode m.ty := by simp only [qntCode]; omega
  simp only [qntMod, e1, e2, e3, e4, rndOfCode_rndCode, tyOfCode_tyCode]

theorem qntCode_lt (m : QntMod) : qntCode m < 65536 := by
  have := tyCode_lt m.ty; have := rndCode_lt m.rnd
  simp only [qntCode]; omega

theorem collMod_collCode (m : CollMod) : collMod (collCode m) = some m := by
  have := copCode_lt m.cop; have := ropCode_lt m.rop; have := tyCode_lt m.ety; have := mbsCode_lt m.mbs
  have e1 : collCode m / 2048 % 8 = ropCode m.rop := by simp only [collCode]; omega
  have e2 : collCode m / 8 % 16 = 0 := by simp only [collCode]; omega
  have e3 : collCode m / 2 % 4 = mbsCode m.mbs := by simp only [collCode]; omega
  have e4 : collCode m % 2 = 0 := by simp only [collCode]; omega
  have e5 : collCode m / 16384 % 4 = copCode m.cop := by simp only [collCode]; omega
  have e6 : collCode m / 128 % 16 = tyCode m.ety := by simp only [collCode]; omega
  simp only [collMod, e1, e2, e3, e4, e5, e6, ropOfCode_ropCode, mbsOfCode_mbsCode, copOfCode_copCode, tyOfCode_tyCode]

theorem collCode_lt (m : CollMod) : collCode m < 65536 := by
  have := copCode_lt m.cop; have := ropCode_lt m.rop; have := tyCode_lt m.ety; have := mbsCode_lt m.mbs
  simp only [collCode]; omega

theorem setfpCode_lt (m : FpSet) : setfpCode m < 64 := by
  have hb (b : Bool) : b.toNat < 2 := by cases b <;> decide
  have := hb m.wftz; have := hb m.wrm; have := hb m.ftz; have := m.rm.isLt
  simp only [setfpCode]; omega

/-! ## From fields to 96 bits and back -/

/-- The fields of an instruction's 96 bits are the fields it was encoded from. -/
theorem fields_of_encode (i : Instr) (h : (encodeRaw i).fits) : Raw.ofNat (encode i).toNat = encodeRaw i := by
  have hl := Raw.toNat_lt _ h
  rw [encode, BitVec.toNat_ofNat, Nat.mod_eq_of_lt hl, Raw.ofNat_toNat _ h]

/-- An instruction that `parse` gives back from its fields, and that is well formed, is what its 96 bits decode to. -/
theorem decode_of_parse (i : Instr) (h : (encodeRaw i).fits) (hp : parse (encodeRaw i) = .ok i) (hw : i.wf = true) :
    decode (encode i) = .ok i := by
  rw [decode, fields_of_encode i h, decodeRaw, hp]
  simp [hw]

/-- A form whose MOD is zero comes back. -/
theorem plain_of (op : Nat) (s : Slot) (i : Instr) : plain (Raw.of op s 0) i = .ok i := rfl

theorem withAlu_of (op : Nat) (a : Alu) (k : Alu → Instr) : withAlu (Raw.ofAlu op a) k = .ok (k a) := by
  rw [withAlu, Raw.alu_ofAlu]

theorem withMem_of (op : Nat) (m : Mem) (k : Mem → Instr) : withMem (Raw.ofMem op m) k = .ok (k m) := by
  rw [withMem, Raw.memory_ofMem]

end Sys2Proof
end

