-- ==== Sys2Proof/Laws/PerInstr.lean ====
section
/-!
SUPPORT. Sys2Proof/Laws/PerInstr.lean: one lemma per constructor of `Instr`: a well-formed instruction is what its own
96 bits decode to (spec/02_instruction_words.md R34 and each instruction's encoding).
-/
namespace Sys2Proof.Laws.RoundTrip

/-- A well-formed instruction of a slot is what its encoding decodes to; an event is no slot. -/
def Statement (i : Instr) : Prop := i.slot?.isSome = true → i.wf = true → decode (encode i) = .ok i

/-- An opcode's parse of ALU fields. -/
theorem alu_at (op : Nat) (k : Alu → Instr)
    (h : ∀ c1 c2 c3 c4 c5 c6 c7 c8 c9, parse ⟨op, c1, c2, c3, c4, c5, c6, c7, c8, c9⟩ = withAlu ⟨op, c1, c2, c3, c4, c5, c6, c7, c8, c9⟩ k)
    (a : Alu) : parse (Raw.ofAlu op a) = .ok (k a) := (h ..).trans (withAlu_of op a k)

/-- An opcode's parse of memory fields. -/
theorem mem_at (op : Nat) (k : Mem → Instr)
    (h : ∀ c1 c2 c3 c4 c5 c6 c7 c8 c9, parse ⟨op, c1, c2, c3, c4, c5, c6, c7, c8, c9⟩ = withMem ⟨op, c1, c2, c3, c4, c5, c6, c7, c8, c9⟩ k)
    (m : Mem) : parse (Raw.ofMem op m) = .ok (k m) := (h ..).trans (withMem_of op m k)

/-- An opcode's parse of a slot whose MOD is zero. -/
theorem plain_at (op : Nat) (k : Slot → Instr)
    (h : ∀ c1 c2 c3 c4 c5 c6 c7 c8 c9, parse ⟨op, c1, c2, c3, c4, c5, c6, c7, c8, c9⟩
      = plain ⟨op, c1, c2, c3, c4, c5, c6, c7, c8, c9⟩ (k (Raw.slot ⟨op, c1, c2, c3, c4, c5, c6, c7, c8, c9⟩)))
    (s : Slot) : parse (Raw.of op s 0) = .ok (k s) :=
  (h ..).trans ((plain_of op s _).trans (congrArg (fun x => Except.ok (k x)) (Raw.slot_of op 0 s)))

/-- An accepted ALU form has one of the form's SUB values. -/
theorem sub_of_accepts {f : AluForm} {a : Alu} {tb tc : Ty} (h : f.accepts a tb tc = true) : f.subs.contains a.sub = true := by
  simp only [AluForm.accepts, Bool.and_eq_true] at h
  exact h.1.1.1.1.1.1.1.2

theorem nop (s : Slot) : Statement (.nop s) :=
  fun _ hw => decode_of_parse _ (Raw.fits_of 0x00 _ s (by decide) (by decide)) (plain_at 0x00 .nop (fun _ _ _ _ _ _ _ _ _ => rfl) s) hw
theorem bra (s : Slot) : Statement (.bra s) :=
  fun _ hw => decode_of_parse _ (Raw.fits_of 0x01 _ s (by decide) (by decide)) (plain_at 0x01 .bra (fun _ _ _ _ _ _ _ _ _ => rfl) s) hw
theorem brx (s : Slot) : Statement (.brx s) :=
  fun _ hw => decode_of_parse _ (Raw.fits_of 0x02 _ s (by decide) (by decide)) (plain_at 0x02 .brx (fun _ _ _ _ _ _ _ _ _ => rfl) s) hw
theorem call (s : Slot) : Statement (.call s) :=
  fun _ hw => decode_of_parse _ (Raw.fits_of 0x03 _ s (by decide) (by decide)) (plain_at 0x03 .call (fun _ _ _ _ _ _ _ _ _ => rfl) s) hw
theorem callx (s : Slot) : Statement (.callx s) :=
  fun _ hw => decode_of_parse _ (Raw.fits_of 0x04 _ s (by decide) (by decide)) (plain_at 0x04 .callx (fun _ _ _ _ _ _ _ _ _ => rfl) s) hw
theorem ret (s : Slot) : Statement (.ret s) :=
  fun _ hw => decode_of_parse _ (Raw.fits_of 0x05 _ s (by decide) (by decide)) (plain_at 0x05 .ret (fun _ _ _ _ _ _ _ _ _ => rfl) s) hw
theorem exit (s : Slot) : Statement (.exit s) :=
  fun _ hw => decode_of_parse _ (Raw.fits_of 0x06 _ s (by decide) (by decide)) (plain_at 0x06 .exit (fun _ _ _ _ _ _ _ _ _ => rfl) s) hw
theorem park (s : Slot) : Statement (.park s) :=
  fun _ hw => decode_of_parse _ (Raw.fits_of 0x07 _ s (by decide) (by decide)) (plain_at 0x07 .park (fun _ _ _ _ _ _ _ _ _ => rfl) s) hw
theorem yield (s : Slot) : Statement (.yield s) :=
  fun _ hw => decode_of_parse _ (Raw.fits_of 0x08 _ s (by decide) (by decide)) (plain_at 0x08 .yield (fun _ _ _ _ _ _ _ _ _ => rfl) s) hw
theorem setfp (s : Slot) (m : FpSet) : Statement (.setfp s m) := fun _ hw => by
  refine decode_of_parse _ (Raw.fits_of 0x0D _ s (by decide) (Nat.lt_trans (setfpCode_lt m) (by decide))) ?_ hw
  show parseSetfp (Raw.of 0x0D s (setfpCode m)) = _
  have hb (b : Bool) : b.toNat < 2 := by cases b <;> decide
  have := hb m.wftz; have := hb m.wrm; have := hb m.ftz; have := m.rm.isLt
  have e0 : setfpCode m / 64 = 0 ∧ setfpCode m / 8 % 2 = 0 := by simp only [setfpCode]; omega
  have e1 : setfpCode m / 32 % 2 = m.wftz.toNat := by simp only [setfpCode]; omega
  have e2 : setfpCode m / 16 % 2 = m.wrm.toNat := by simp only [setfpCode]; omega
  have e3 : setfpCode m / 4 % 2 = m.ftz.toNat := by simp only [setfpCode]; omega
  have e4 : setfpCode m % 4 = m.rm.val := by simp only [setfpCode]; omega
  have hm : (Raw.of 0x0D s (setfpCode m)).mod = setfpCode m := rfl
  simp only [parseSetfp, hm, e0, e1, e2, e3, e4, Raw.slot_of, Bool.toNat_beq_one, Fin.ofNat_val]
  rfl
theorem syscall (s : Slot) : Statement (.syscall s) :=
  fun _ hw => decode_of_parse _ (Raw.fits_of 0x09 _ s (by decide) (by decide)) (plain_at 0x09 .syscall (fun _ _ _ _ _ _ _ _ _ => rfl) s) hw
theorem hcall (s : Slot) : Statement (.hcall s) :=
  fun _ hw => decode_of_parse _ (Raw.fits_of 0x0A _ s (by decide) (by decide)) (plain_at 0x0A .hcall (fun _ _ _ _ _ _ _ _ _ => rfl) s) hw
theorem tret (s : Slot) : Statement (.tret s) :=
  fun _ hw => decode_of_parse _ (Raw.fits_of 0x0B _ s (by decide) (by decide)) (plain_at 0x0B .tret (fun _ _ _ _ _ _ _ _ _ => rfl) s) hw
theorem bkpt (s : Slot) : Statement (.bkpt s) :=
  fun _ hw => decode_of_parse _ (Raw.fits_of 0x0C _ s (by decide) (by decide)) (plain_at 0x0C .bkpt (fun _ _ _ _ _ _ _ _ _ => rfl) s) hw
theorem srd (s : Slot) : Statement (.srd s) :=
  fun _ hw => decode_of_parse _ (Raw.fits_of 0x0E _ s (by decide) (by decide)) (by show parseSrd (Raw.of 0x0E s 0) = _; rw [parseSrd, Raw.slot_of]; rfl) hw
theorem srdElem (s : Slot) : Statement (.srdElem s) :=
  fun _ hw => decode_of_parse _ (Raw.fits_of 0x0E _ s (by decide) (by decide)) (by show parseSrd (Raw.of 0x0E s 1) = _; rw [parseSrd, Raw.slot_of]; rfl) hw
theorem swr (s : Slot) : Statement (.swr s) := fun _ hw => by
  have hl : s.lit.toNat ≠ 0x020 ∧ s.lit.toNat ≠ 0x100 ∧ s.lit.toNat ≠ 0x101 ∧ s.lit.toNat ≠ 0x200 := by
    simpa [Slot.regNumber] using (Bool.and_eq_true_iff.mp hw).2
  refine decode_of_parse _ (Raw.fits_of 0x0F _ s (by decide) (by decide)) ?_ hw
  show parseSwr (Raw.of 0x0F s 0) = _
  simp only [parseSwr, Raw.slot_of]
  obtain ⟨h1, h2, h3, h4⟩ := hl
  simp only [Raw.of]
theorem swrFpmode (s : Slot) : Statement (.swrFpmode s) := fun _ hw => by
  have hl : s.lit.toNat = 0x100 := by simpa [Slot.regNumber] using (Bool.and_eq_true_iff.mp hw).2
  refine decode_of_parse _ (Raw.fits_of 0x0F _ s (by decide) (by decide)) ?_ hw
  show parseSwr (Raw.of 0x0F s 0) = _
  simp only [parseSwr, Raw.slot_of]
  simp only [Raw.of, hl]
theorem swrFpflags (s : Slot) : Statement (.swrFpflags s) := fun _ hw => by
  have hl : s.lit.toNat = 0x101 := by simpa [Slot.regNumber] using (Bool.and_eq_true_iff.mp hw).2
  refine decode_of_parse _ (Raw.fits_of 0x0F _ s (by decide) (by decide)) ?_ hw
  show parseSwr (Raw.of 0x0F s 0) = _
  simp only [parseSwr, Raw.slot_of]
  simp only [Raw.of, hl]
theorem swrVpc (s : Slot) : Statement (.swrVpc s) := fun _ hw => by
  have hl : s.lit.toNat = 0x020 := by simpa [Slot.regNumber] using (Bool.and_eq_true_iff.mp hw).2
  refine decode_of_parse _ (Raw.fits_of 0x0F _ s (by decide) (by decide)) ?_ hw
  show parseSwr (Raw.of 0x0F s 0) = _
  simp only [parseSwr, Raw.slot_of]
  simp only [Raw.of, hl]
theorem swrElemVpc (s : Slot) : Statement (.swrElemVpc s) :=
  fun _ hw => decode_of_parse _ (Raw.fits_of 0x0F _ s (by decide) (by decide)) (by show parseSwr (Raw.of 0x0F s 1) = _; rw [parseSwr, Raw.slot_of]; rfl) hw
theorem swrPanelPreq (s : Slot) : Statement (.swrPanelPreq s) := fun _ hw => by
  have hl : s.lit.toNat = 0x200 := by simpa [Slot.regNumber] using (Bool.and_eq_true_iff.mp hw).2
  refine decode_of_parse _ (Raw.fits_of 0x0F _ s (by decide) (by decide)) ?_ hw
  show parseSwr (Raw.of 0x0F s 0) = _
  simp only [parseSwr, Raw.slot_of]
  simp only [Raw.of, hl]
theorem dbgRead (p : Nat) : Statement (.dbgRead p) :=
  fun h => absurd h Bool.false_ne_true
theorem dbgWrite (p : Nat) : Statement (.dbgWrite p) :=
  fun h => absurd h Bool.false_ne_true
theorem dbgDrain (p : Nat) : Statement (.dbgDrain p) :=
  fun h => absurd h Bool.false_ne_true
theorem dbgDrainComplete (p : Nat) : Statement (.dbgDrainComplete p) :=
  fun h => absurd h Bool.false_ne_true
theorem tlbiVa (s : Slot) : Statement (.tlbiVa s) :=
  fun _ hw => decode_of_parse _ (Raw.fits_of 0x10 _ s (by decide) (by decide)) (by show parseTlbi (Raw.of 0x10 s 0) = _; rw [parseTlbi, Raw.slot_of]; rfl) hw
theorem tlbiAll (s : Slot) : Statement (.tlbiAll s) :=
  fun _ hw => decode_of_parse _ (Raw.fits_of 0x10 _ s (by decide) (by decide)) (by show parseTlbi (Raw.of 0x10 s 1) = _; rw [parseTlbi, Raw.slot_of]; rfl) hw
theorem tlbiProbe (s : Slot) : Statement (.tlbiProbe s) :=
  fun _ hw => decode_of_parse _ (Raw.fits_of 0x10 _ s (by decide) (by decide)) (by show parseTlbi (Raw.of 0x10 s 2) = _; rw [parseTlbi, Raw.slot_of]; rfl) hw
theorem htlbiIpa (s : Slot) : Statement (.htlbiIpa s) :=
  fun _ hw => decode_of_parse _ (Raw.fits_of 0x11 _ s (by decide) (by decide)) (by show parseHtlbi (Raw.of 0x11 s 0) = _; rw [parseHtlbi, Raw.slot_of]; rfl) hw
theorem htlbiAll (s : Slot) : Statement (.htlbiAll s) :=
  fun _ hw => decode_of_parse _ (Raw.fits_of 0x11 _ s (by decide) (by decide)) (by show parseHtlbi (Raw.of 0x11 s 1) = _; rw [parseHtlbi, Raw.slot_of]; rfl) hw
theorem ctxsave (s : Slot) : Statement (.ctxsave s) :=
  fun _ hw => decode_of_parse _ (Raw.fits_of 0x12 _ s (by decide) (by decide)) (plain_at 0x12 .ctxsave (fun _ _ _ _ _ _ _ _ _ => rfl) s) hw
theorem ctxload (s : Slot) : Statement (.ctxload s) :=
  fun _ hw => decode_of_parse _ (Raw.fits_of 0x13 _ s (by decide) (by decide)) (plain_at 0x13 .ctxload (fun _ _ _ _ _ _ _ _ _ => rfl) s) hw
theorem tevt (s : Slot) : Statement (.tevt s) :=
  fun _ hw => decode_of_parse _ (Raw.fits_of 0x14 _ s (by decide) (by decide)) (plain_at 0x14 .tevt (fun _ _ _ _ _ _ _ _ _ => rfl) s) hw
theorem iadd (a : Alu) : Statement (.iadd a) :=
  fun _ hw => decode_of_parse _ (Raw.fits_ofAlu 0x20 a (by decide)) (alu_at 0x20 .iadd (fun _ _ _ _ _ _ _ _ _ => rfl) a) hw
theorem isub (a : Alu) : Statement (.isub a) :=
  fun _ hw => decode_of_parse _ (Raw.fits_ofAlu 0x21 a (by decide)) (alu_at 0x21 .isub (fun _ _ _ _ _ _ _ _ _ => rfl) a) hw
theorem imul (a : Alu) : Statement (.imul a) :=
  fun _ hw => decode_of_parse _ (Raw.fits_ofAlu 0x22 a (by decide)) (alu_at 0x22 .imul (fun _ _ _ _ _ _ _ _ _ => rfl) a) hw
theorem imulh (a : Alu) : Statement (.imulh a) :=
  fun _ hw => decode_of_parse _ (Raw.fits_ofAlu 0x23 a (by decide)) (alu_at 0x23 .imulh (fun _ _ _ _ _ _ _ _ _ => rfl) a) hw
theorem imad (a : Alu) : Statement (.imad a) :=
  fun _ hw => decode_of_parse _ (Raw.fits_ofAlu 0x24 a (by decide)) (alu_at 0x24 .imad (fun _ _ _ _ _ _ _ _ _ => rfl) a) hw
theorem imadw (a : Alu) : Statement (.imadw a) :=
  fun _ hw => decode_of_parse _ (Raw.fits_ofAlu 0x25 a (by decide)) (alu_at 0x25 .imadw (fun _ _ _ _ _ _ _ _ _ => rfl) a) hw
theorem idiv (a : Alu) : Statement (.idiv a) :=
  fun _ hw => decode_of_parse _ (Raw.fits_ofAlu 0x26 a (by decide)) (alu_at 0x26 .idiv (fun _ _ _ _ _ _ _ _ _ => rfl) a) hw
theorem irem (a : Alu) : Statement (.irem a) :=
  fun _ hw => decode_of_parse _ (Raw.fits_ofAlu 0x27 a (by decide)) (alu_at 0x27 .irem (fun _ _ _ _ _ _ _ _ _ => rfl) a) hw
theorem imin (a : Alu) : Statement (.imin a) :=
  fun _ hw => decode_of_parse _ (Raw.fits_ofAlu 0x28 a (by decide)) (alu_at 0x28 .imin (fun _ _ _ _ _ _ _ _ _ => rfl) a) hw
theorem imax (a : Alu) : Statement (.imax a) :=
  fun _ hw => decode_of_parse _ (Raw.fits_ofAlu 0x29 a (by decide)) (alu_at 0x29 .imax (fun _ _ _ _ _ _ _ _ _ => rfl) a) hw
theorem iabs (a : Alu) : Statement (.iabs a) :=
  fun _ hw => decode_of_parse _ (Raw.fits_ofAlu 0x2A a (by decide)) (alu_at 0x2A .iabs (fun _ _ _ _ _ _ _ _ _ => rfl) a) hw
theorem ineg (a : Alu) : Statement (.ineg a) :=
  fun _ hw => decode_of_parse _ (Raw.fits_ofAlu 0x2B a (by decide)) (alu_at 0x2B .ineg (fun _ _ _ _ _ _ _ _ _ => rfl) a) hw
theorem icmp (a : Alu) : Statement (.icmp a) :=
  fun _ hw => decode_of_parse _ (Raw.fits_ofAlu 0x2C a (by decide)) (alu_at 0x2C .icmp (fun _ _ _ _ _ _ _ _ _ => rfl) a) hw
theorem sel (a : Alu) : Statement (.sel a) :=
  fun _ hw => decode_of_parse _ (Raw.fits_ofAlu 0x2D a (by decide)) (alu_at 0x2D .sel (fun _ _ _ _ _ _ _ _ _ => rfl) a) hw
theorem mov (a : Alu) : Statement (.mov a) :=
  fun _ hw => decode_of_parse _ (Raw.fits_ofAlu 0x2E a (by decide)) (alu_at 0x2E .mov (fun _ _ _ _ _ _ _ _ _ => rfl) a) hw
theorem lea (a : Alu) : Statement (.lea a) :=
  fun _ hw => decode_of_parse _ (Raw.fits_ofAlu 0x2F a (by decide)) (alu_at 0x2F .lea (fun _ _ _ _ _ _ _ _ _ => rfl) a) hw
theorem and (a : Alu) : Statement (.and a) :=
  fun _ hw => decode_of_parse _ (Raw.fits_ofAlu 0x30 a (by decide)) (alu_at 0x30 .and (fun _ _ _ _ _ _ _ _ _ => rfl) a) hw
theorem or (a : Alu) : Statement (.or a) :=
  fun _ hw => decode_of_parse _ (Raw.fits_ofAlu 0x31 a (by decide)) (alu_at 0x31 .or (fun _ _ _ _ _ _ _ _ _ => rfl) a) hw
theorem xor (a : Alu) : Statement (.xor a) :=
  fun _ hw => decode_of_parse _ (Raw.fits_ofAlu 0x32 a (by decide)) (alu_at 0x32 .xor (fun _ _ _ _ _ _ _ _ _ => rfl) a) hw
theorem not (a : Alu) : Statement (.not a) :=
  fun _ hw => decode_of_parse _ (Raw.fits_ofAlu 0x33 a (by decide)) (alu_at 0x33 .not (fun _ _ _ _ _ _ _ _ _ => rfl) a) hw
theorem andn (a : Alu) : Statement (.andn a) :=
  fun _ hw => decode_of_parse _ (Raw.fits_ofAlu 0x34 a (by decide)) (alu_at 0x34 .andn (fun _ _ _ _ _ _ _ _ _ => rfl) a) hw
theorem shl (a : Alu) : Statement (.shl a) :=
  fun _ hw => decode_of_parse _ (Raw.fits_ofAlu 0x35 a (by decide)) (alu_at 0x35 .shl (fun _ _ _ _ _ _ _ _ _ => rfl) a) hw
theorem shr (a : Alu) : Statement (.shr a) :=
  fun _ hw => decode_of_parse _ (Raw.fits_ofAlu 0x36 a (by decide)) (alu_at 0x36 .shr (fun _ _ _ _ _ _ _ _ _ => rfl) a) hw
theorem sar (a : Alu) : Statement (.sar a) :=
  fun _ hw => decode_of_parse _ (Raw.fits_ofAlu 0x37 a (by decide)) (alu_at 0x37 .sar (fun _ _ _ _ _ _ _ _ _ => rfl) a) hw
theorem rol (a : Alu) : Statement (.rol a) :=
  fun _ hw => decode_of_parse _ (Raw.fits_ofAlu 0x38 a (by decide)) (alu_at 0x38 .rol (fun _ _ _ _ _ _ _ _ _ => rfl) a) hw
theorem popc (a : Alu) : Statement (.popc a) :=
  fun _ hw => decode_of_parse _ (Raw.fits_ofAlu 0x39 a (by decide)) (alu_at 0x39 .popc (fun _ _ _ _ _ _ _ _ _ => rfl) a) hw
theorem clz (a : Alu) : Statement (.clz a) :=
  fun _ hw => decode_of_parse _ (Raw.fits_ofAlu 0x3A a (by decide)) (alu_at 0x3A .clz (fun _ _ _ _ _ _ _ _ _ => rfl) a) hw
theorem ctz (a : Alu) : Statement (.ctz a) :=
  fun _ hw => decode_of_parse _ (Raw.fits_ofAlu 0x3B a (by decide)) (alu_at 0x3B .ctz (fun _ _ _ _ _ _ _ _ _ => rfl) a) hw
theorem brev (a : Alu) : Statement (.brev a) :=
  fun _ hw => decode_of_parse _ (Raw.fits_ofAlu 0x3C a (by decide)) (alu_at 0x3C .brev (fun _ _ _ _ _ _ _ _ _ => rfl) a) hw
theorem bfx (a : Alu) : Statement (.bfx a) :=
  fun _ hw => decode_of_parse _ (Raw.fits_ofAlu 0x3D a (by decide)) (alu_at 0x3D .bfx (fun _ _ _ _ _ _ _ _ _ => rfl) a) hw
theorem bfi (a : Alu) : Statement (.bfi a) :=
  fun _ hw => decode_of_parse _ (Raw.fits_ofAlu 0x3E a (by decide)) (alu_at 0x3E .bfi (fun _ _ _ _ _ _ _ _ _ => rfl) a) hw
theorem prmt (a : Alu) : Statement (.prmt a) :=
  fun _ hw => decode_of_parse _ (Raw.fits_ofAlu 0x3F a (by decide)) (alu_at 0x3F .prmt (fun _ _ _ _ _ _ _ _ _ => rfl) a) hw
theorem iaddc (a : Alu) : Statement (.iaddc a) :=
  fun _ hw => decode_of_parse _ (Raw.fits_ofAlu 0x40 a (by decide)) (alu_at 0x40 .iaddc (fun _ _ _ _ _ _ _ _ _ => rfl) a) hw
theorem iclamp (a : Alu) : Statement (.iclamp a) :=
  fun _ hw => decode_of_parse _ (Raw.fits_ofAlu 0x41 a (by decide)) (alu_at 0x41 .iclamp (fun _ _ _ _ _ _ _ _ _ => rfl) a) hw
theorem fadd (a : Alu) : Statement (.fadd a) :=
  fun _ hw => decode_of_parse _ (Raw.fits_ofAlu 0x60 a (by decide)) (alu_at 0x60 .fadd (fun _ _ _ _ _ _ _ _ _ => rfl) a) hw
theorem fsub (a : Alu) : Statement (.fsub a) :=
  fun _ hw => decode_of_parse _ (Raw.fits_ofAlu 0x61 a (by decide)) (alu_at 0x61 .fsub (fun _ _ _ _ _ _ _ _ _ => rfl) a) hw
theorem fmul (a : Alu) : Statement (.fmul a) :=
  fun _ hw => decode_of_parse _ (Raw.fits_ofAlu 0x62 a (by decide)) (alu_at 0x62 .fmul (fun _ _ _ _ _ _ _ _ _ => rfl) a) hw
theorem ffma (a : Alu) : Statement (.ffma a) :=
  fun _ hw => decode_of_parse _ (Raw.fits_ofAlu 0x63 a (by decide)) (alu_at 0x63 .ffma (fun _ _ _ _ _ _ _ _ _ => rfl) a) hw
theorem fmin (a : Alu) : Statement (.fmin a) :=
  fun _ hw => decode_of_parse _ (Raw.fits_ofAlu 0x64 a (by decide)) (alu_at 0x64 .fmin (fun _ _ _ _ _ _ _ _ _ => rfl) a) hw
theorem fmax (a : Alu) : Statement (.fmax a) :=
  fun _ hw => decode_of_parse _ (Raw.fits_ofAlu 0x65 a (by decide)) (alu_at 0x65 .fmax (fun _ _ _ _ _ _ _ _ _ => rfl) a) hw
theorem fcmp (a : Alu) : Statement (.fcmp a) :=
  fun _ hw => decode_of_parse _ (Raw.fits_ofAlu 0x66 a (by decide)) (alu_at 0x66 .fcmp (fun _ _ _ _ _ _ _ _ _ => rfl) a) hw
theorem fcls (a : Alu) : Statement (.fcls a) := fun _ hw => by
  have hs : a.sub = 0 := by simpa [formFcls] using sub_of_accepts hw
  refine decode_of_parse _ (Raw.fits_ofAlu 0x67 a (by decide)) ?_ hw
  refine (alu_at 0x67 (fun a => if a.sub == 0 then .fcls a else .fclsTest a) (fun _ _ _ _ _ _ _ _ _ => rfl) a).trans ?_
  simp [hs]
theorem fclsTest (a : Alu) : Statement (.fclsTest a) := fun _ hw => by
  have hs : a.sub = 1 := by simpa [formFclsTest] using sub_of_accepts hw
  refine decode_of_parse _ (Raw.fits_ofAlu 0x67 a (by decide)) ?_ hw
  refine (alu_at 0x67 (fun a => if a.sub == 0 then .fcls a else .fclsTest a) (fun _ _ _ _ _ _ _ _ _ => rfl) a).trans ?_
  simp [hs]
theorem frnd (a : Alu) : Statement (.frnd a) :=
  fun _ hw => decode_of_parse _ (Raw.fits_ofAlu 0x68 a (by decide)) (alu_at 0x68 .frnd (fun _ _ _ _ _ _ _ _ _ => rfl) a) hw
theorem fscl (a : Alu) : Statement (.fscl a) :=
  fun _ hw => decode_of_parse _ (Raw.fits_ofAlu 0x69 a (by decide)) (alu_at 0x69 .fscl (fun _ _ _ _ _ _ _ _ _ => rfl) a) hw
theorem fextExp (a : Alu) : Statement (.fextExp a) := fun _ hw => by
  have hs : a.sub = 0 := by simpa [formFextExp] using sub_of_accepts hw
  refine decode_of_parse _ (Raw.fits_ofAlu 0x6A a (by decide)) ?_ hw
  refine (alu_at 0x6A (fun a => if a.sub == 0 then .fextExp a else .fextMant a) (fun _ _ _ _ _ _ _ _ _ => rfl) a).trans ?_
  simp [hs]
theorem fextMant (a : Alu) : Statement (.fextMant a) := fun _ hw => by
  have hs : a.sub = 1 := by simpa [formFextMant] using sub_of_accepts hw
  refine decode_of_parse _ (Raw.fits_ofAlu 0x6A a (by decide)) ?_ hw
  refine (alu_at 0x6A (fun a => if a.sub == 0 then .fextExp a else .fextMant a) (fun _ _ _ _ _ _ _ _ _ => rfl) a).trans ?_
  simp [hs]
theorem fdot2 (a : Alu) : Statement (.fdot2 a) :=
  fun _ hw => decode_of_parse _ (Raw.fits_ofAlu 0x6B a (by decide)) (alu_at 0x6B .fdot2 (fun _ _ _ _ _ _ _ _ _ => rfl) a) hw
theorem cvt (a : Alu) : Statement (.cvt a) :=
  fun _ hw => decode_of_parse _ (Raw.fits_ofAlu 0x6C a (by decide)) (alu_at 0x6C .cvt (fun _ _ _ _ _ _ _ _ _ => rfl) a) hw
theorem frcp (a : Alu) : Statement (.frcp a) :=
  fun _ hw => decode_of_parse _ (Raw.fits_ofAlu 0x6D a (by decide)) (alu_at 0x6D .frcp (fun _ _ _ _ _ _ _ _ _ => rfl) a) hw
theorem frsq (a : Alu) : Statement (.frsq a) :=
  fun _ hw => decode_of_parse _ (Raw.fits_ofAlu 0x6E a (by decide)) (alu_at 0x6E .frsq (fun _ _ _ _ _ _ _ _ _ => rfl) a) hw
theorem fsqrt (a : Alu) : Statement (.fsqrt a) :=
  fun _ hw => decode_of_parse _ (Raw.fits_ofAlu 0x6F a (by decide)) (alu_at 0x6F .fsqrt (fun _ _ _ _ _ _ _ _ _ => rfl) a) hw
theorem fdiv (a : Alu) : Statement (.fdiv a) :=
  fun _ hw => decode_of_parse _ (Raw.fits_ofAlu 0x70 a (by decide)) (alu_at 0x70 .fdiv (fun _ _ _ _ _ _ _ _ _ => rfl) a) hw
theorem fexp2 (a : Alu) : Statement (.fexp2 a) :=
  fun _ hw => decode_of_parse _ (Raw.fits_ofAlu 0x71 a (by decide)) (alu_at 0x71 .fexp2 (fun _ _ _ _ _ _ _ _ _ => rfl) a) hw
theorem flog2 (a : Alu) : Statement (.flog2 a) :=
  fun _ hw => decode_of_parse _ (Raw.fits_ofAlu 0x72 a (by decide)) (alu_at 0x72 .flog2 (fun _ _ _ _ _ _ _ _ _ => rfl) a) hw
theorem fsint (a : Alu) : Statement (.fsint a) :=
  fun _ hw => decode_of_parse _ (Raw.fits_ofAlu 0x73 a (by decide)) (alu_at 0x73 .fsint (fun _ _ _ _ _ _ _ _ _ => rfl) a) hw
theorem fcost (a : Alu) : Statement (.fcost a) :=
  fun _ hw => decode_of_parse _ (Raw.fits_ofAlu 0x74 a (by decide)) (alu_at 0x74 .fcost (fun _ _ _ _ _ _ _ _ _ => rfl) a) hw
theorem kop (a : Alu) : Statement (.kop a) :=
  fun _ hw => decode_of_parse _ (Raw.fits_ofAlu 0x90 a (by decide)) (alu_at 0x90 .kop (fun _ _ _ _ _ _ _ _ _ => rfl) a) hw
theorem kpop (a : Alu) : Statement (.kpop a) :=
  fun _ hw => decode_of_parse _ (Raw.fits_ofAlu 0x91 a (by decide)) (alu_at 0x91 .kpop (fun _ _ _ _ _ _ _ _ _ => rfl) a) hw
theorem kffs (a : Alu) : Statement (.kffs a) :=
  fun _ hw => decode_of_parse _ (Raw.fits_ofAlu 0x92 a (by decide)) (alu_at 0x92 .kffs (fun _ _ _ _ _ _ _ _ _ => rfl) a) hw
theorem vote (a : Alu) : Statement (.vote a) :=
  fun _ hw => decode_of_parse _ (Raw.fits_ofAlu 0x93 a (by decide)) (alu_at 0x93 .vote (fun _ _ _ _ _ _ _ _ _ => rfl) a) hw
theorem shfl (a : Alu) : Statement (.shfl a) :=
  fun _ hw => decode_of_parse _ (Raw.fits_ofAlu 0x94 a (by decide)) (alu_at 0x94 .shfl (fun _ _ _ _ _ _ _ _ _ => rfl) a) hw
theorem plyred (a : Alu) : Statement (.plyred a) :=
  fun _ hw => decode_of_parse _ (Raw.fits_ofAlu 0x95 a (by decide)) (alu_at 0x95 .plyred (fun _ _ _ _ _ _ _ _ _ => rfl) a) hw
theorem plyscan (a : Alu) : Statement (.plyscan a) :=
  fun _ hw => decode_of_parse _ (Raw.fits_ofAlu 0x96 a (by decide)) (alu_at 0x96 .plyscan (fun _ _ _ _ _ _ _ _ _ => rfl) a) hw
theorem elect (a : Alu) : Statement (.elect a) :=
  fun _ hw => decode_of_parse _ (Raw.fits_ofAlu 0x97 a (by decide)) (alu_at 0x97 .elect (fun _ _ _ _ _ _ _ _ _ => rfl) a) hw
theorem plyset (a : Alu) : Statement (.plyset a) :=
  fun _ hw => decode_of_parse _ (Raw.fits_ofAlu 0x98 a (by decide)) (alu_at 0x98 .plyset (fun _ _ _ _ _ _ _ _ _ => rfl) a) hw
theorem barArv (a : Alu) : Statement (.barArv a) := fun _ hw => by
  have hs : a.sub = 0 := by simpa [formBar] using sub_of_accepts (Bool.and_eq_true_iff.mp hw).1
  refine decode_of_parse _ (Raw.fits_ofAlu 0x99 a (by decide)) ?_ hw
  refine (alu_at 0x99 (fun a => if a.sub == 0 then .barArv a else if a.sub == 1 then .barWait a else .barSync a) (fun _ _ _ _ _ _ _ _ _ => rfl) a).trans ?_
  simp [hs]
theorem barWait (a : Alu) : Statement (.barWait a) := fun _ hw => by
  have hs : a.sub = 1 := by simpa [formBar] using sub_of_accepts (Bool.and_eq_true_iff.mp hw).1
  refine decode_of_parse _ (Raw.fits_ofAlu 0x99 a (by decide)) ?_ hw
  refine (alu_at 0x99 (fun a => if a.sub == 0 then .barArv a else if a.sub == 1 then .barWait a else .barSync a) (fun _ _ _ _ _ _ _ _ _ => rfl) a).trans ?_
  simp [hs]
theorem barSync (a : Alu) : Statement (.barSync a) := fun _ hw => by
  have hs : a.sub = 2 := by simpa [formBar] using sub_of_accepts (Bool.and_eq_true_iff.mp hw).1
  refine decode_of_parse _ (Raw.fits_ofAlu 0x99 a (by decide)) ?_ hw
  refine (alu_at 0x99 (fun a => if a.sub == 0 then .barArv a else if a.sub == 1 then .barWait a else .barSync a) (fun _ _ _ _ _ _ _ _ _ => rfl) a).trans ?_
  simp [hs]
theorem ld (m : Mem) : Statement (.ld m) :=
  fun _ hw => decode_of_parse _ (Raw.fits_ofMem 0xA0 m (by decide)) (mem_at 0xA0 .ld (fun _ _ _ _ _ _ _ _ _ => rfl) m) hw
theorem st (m : Mem) : Statement (.st m) :=
  fun _ hw => decode_of_parse _ (Raw.fits_ofMem 0xA1 m (by decide)) (mem_at 0xA1 .st (fun _ _ _ _ _ _ _ _ _ => rfl) m) hw
theorem atom (m : Mem) : Statement (.atom m) :=
  fun _ hw => decode_of_parse _ (Raw.fits_ofMem 0xA2 m (by decide)) (mem_at 0xA2 .atom (fun _ _ _ _ _ _ _ _ _ => rfl) m) hw
theorem red (m : Mem) : Statement (.red m) :=
  fun _ hw => decode_of_parse _ (Raw.fits_ofMem 0xA3 m (by decide)) (mem_at 0xA3 .red (fun _ _ _ _ _ _ _ _ _ => rfl) m) hw
theorem cas (m : Mem) : Statement (.cas m) :=
  fun _ hw => decode_of_parse _ (Raw.fits_ofMem 0xA4 m (by decide)) (mem_at 0xA4 .cas (fun _ _ _ _ _ _ _ _ _ => rfl) m) hw
theorem fence (m : Mem) : Statement (.fence m) :=
  fun _ hw => decode_of_parse _ (Raw.fits_ofMem 0xA5 m (by decide)) (mem_at 0xA5 .fence (fun _ _ _ _ _ _ _ _ _ => rfl) m) hw
theorem cinvLine (m : Mem) : Statement (.cinvLine m) := fun _ hw => by
  have hs : m.msub = 0 := by simpa using (Bool.and_eq_true_iff.mp hw).2
  refine decode_of_parse _ (Raw.fits_ofMem 0xA6 m (by decide)) ?_ hw
  refine (mem_at 0xA6 (fun m => if m.msub == 0 then .cinvLine m else .cinvAll m) (fun _ _ _ _ _ _ _ _ _ => rfl) m).trans ?_
  simp [hs]
theorem cinvAll (m : Mem) : Statement (.cinvAll m) := fun _ hw => by
  have hs : m.msub = 1 := by simpa using (Bool.and_eq_true_iff.mp (Bool.and_eq_true_iff.mp hw).1).2
  refine decode_of_parse _ (Raw.fits_ofMem 0xA6 m (by decide)) ?_ hw
  refine (mem_at 0xA6 (fun m => if m.msub == 0 then .cinvLine m else .cinvAll m) (fun _ _ _ _ _ _ _ _ _ => rfl) m).trans ?_
  simp [hs]
theorem cwb (m : Mem) : Statement (.cwb m) :=
  fun _ hw => decode_of_parse _ (Raw.fits_ofMem 0xA7 m (by decide)) (mem_at 0xA7 .cwb (fun _ _ _ _ _ _ _ _ _ => rfl) m) hw
theorem pref (m : Mem) : Statement (.pref m) :=
  fun _ hw => decode_of_parse _ (Raw.fits_ofMem 0xA8 m (by decide)) (mem_at 0xA8 .pref (fun _ _ _ _ _ _ _ _ _ => rfl) m) hw
theorem obres (m : Mem) : Statement (.obres m) :=
  fun _ hw => decode_of_parse _ (Raw.fits_ofMem 0xA9 m (by decide)) (mem_at 0xA9 .obres (fun _ _ _ _ _ _ _ _ _ => rfl) m) hw
theorem obrel (m : Mem) : Statement (.obrel m) :=
  fun _ hw => decode_of_parse _ (Raw.fits_ofMem 0xAA m (by decide)) (mem_at 0xAA .obrel (fun _ _ _ _ _ _ _ _ _ => rfl) m) hw
theorem obld (m : Mem) : Statement (.obld m) :=
  fun _ hw => decode_of_parse _ (Raw.fits_ofMem 0xAB m (by decide)) (mem_at 0xAB .obld (fun _ _ _ _ _ _ _ _ _ => rfl) m) hw
theorem obst (m : Mem) : Statement (.obst m) :=
  fun _ hw => decode_of_parse _ (Raw.fits_ofMem 0xAC m (by decide)) (mem_at 0xAC .obst (fun _ _ _ _ _ _ _ _ _ => rfl) m) hw
theorem mbi (m : Mem) : Statement (.mbi m) :=
  fun _ hw => decode_of_parse _ (Raw.fits_ofMem 0xAD m (by decide)) (mem_at 0xAD .mbi (fun _ _ _ _ _ _ _ _ _ => rfl) m) hw
theorem mba (m : Mem) : Statement (.mba m) :=
  fun _ hw => decode_of_parse _ (Raw.fits_ofMem 0xAE m (by decide)) (mem_at 0xAE .mba (fun _ _ _ _ _ _ _ _ _ => rfl) m) hw
theorem mbw (m : Mem) : Statement (.mbw m) :=
  fun _ hw => decode_of_parse _ (Raw.fits_ofMem 0xAF m (by decide)) (mem_at 0xAF .mbw (fun _ _ _ _ _ _ _ _ _ => rfl) m) hw
theorem mbt (m : Mem) : Statement (.mbt m) :=
  fun _ hw => decode_of_parse _ (Raw.fits_ofMem 0xB0 m (by decide)) (mem_at 0xB0 .mbt (fun _ _ _ _ _ _ _ _ _ => rfl) m) hw
theorem rngnext (m : Mem) : Statement (.rngnext m) :=
  fun _ hw => decode_of_parse _ (Raw.fits_ofMem 0xB1 m (by decide)) (mem_at 0xB1 .rngnext (fun _ _ _ _ _ _ _ _ _ => rfl) m) hw
theorem pipepush (m : Mem) : Statement (.pipepush m) :=
  fun _ hw => decode_of_parse _ (Raw.fits_ofMem 0xB2 m (by decide)) (mem_at 0xB2 .pipepush (fun _ _ _ _ _ _ _ _ _ => rfl) m) hw
theorem pipepop (m : Mem) : Statement (.pipepop m) :=
  fun _ hw => decode_of_parse _ (Raw.fits_ofMem 0xB3 m (by decide)) (mem_at 0xB3 .pipepop (fun _ _ _ _ _ _ _ _ _ => rfl) m) hw
theorem pipeServe (p : Nat) (pipe : Nat) : Statement (.pipeServe p pipe) :=
  fun h => absurd h Bool.false_ne_true
theorem cpy (s : Slot) (m : CopyMod) : Statement (.cpy s m) :=
  fun _ hw => decode_of_parse _ (Raw.fits_of 0xC0 _ s (by decide) (cpyCode_lt m)) (by 
    show withMod (cpyMod (cpyCode m)) _ = _
    rw [cpyMod_cpyCode]
    show Except.ok (Instr.cpy (Raw.of 0xC0 s _).slot m) = _
    rw [Raw.slot_of]) hw
theorem copySectorWrite (p : Nat) (chan : Fin 8) : Statement (.copySectorWrite p chan) :=
  fun h => absurd h Bool.false_ne_true
theorem cptrPtr (s : Slot) (chan : Fin 8) : Statement (.cptrPtr s chan) := fun _ hw => by
  refine decode_of_parse _ (Raw.fits_of 0xC1 _ s (by decide) (by have := chan.isLt; omega)) ?_ hw
  show parseCptr (Raw.of 0xC1 s (chan.val * 32)) = _
  have := chan.isLt
  have hm : (Raw.of 0xC1 s (chan.val * 32)).mod = chan.val * 32 := rfl
  have e1 : (chan.val * 32) / 32 % 8 = chan.val := by omega
  have e2 : (chan.val * 32) / 256 = 0 ∧ (chan.val * 32) / 4 % 8 = 0 := by omega
  have e3 : (chan.val * 32) % 4 = 0 := by omega
  simp only [parseCptr, hm, e1, e2, e3, Raw.slot_of, Fin.ofNat_val]
  rfl
theorem cptrTail (s : Slot) (chan : Fin 8) : Statement (.cptrTail s chan) := fun _ hw => by
  refine decode_of_parse _ (Raw.fits_of 0xC1 _ s (by decide) (by have := chan.isLt; omega)) ?_ hw
  show parseCptr (Raw.of 0xC1 s (chan.val * 32 + 1)) = _
  have := chan.isLt
  have hm : (Raw.of 0xC1 s (chan.val * 32 + 1)).mod = chan.val * 32 + 1 := rfl
  have e1 : (chan.val * 32 + 1) / 32 % 8 = chan.val := by omega
  have e2 : (chan.val * 32 + 1) / 256 = 0 ∧ (chan.val * 32 + 1) / 4 % 8 = 0 := by omega
  have e3 : (chan.val * 32 + 1) % 4 = 1 := by omega
  simp only [parseCptr, hm, e1, e2, e3, Raw.slot_of, Fin.ofNat_val]
  rfl
theorem cptrRst (s : Slot) (chan : Fin 8) : Statement (.cptrRst s chan) := fun _ hw => by
  refine decode_of_parse _ (Raw.fits_of 0xC1 _ s (by decide) (by have := chan.isLt; omega)) ?_ hw
  show parseCptr (Raw.of 0xC1 s (chan.val * 32 + 2)) = _
  have := chan.isLt
  have hm : (Raw.of 0xC1 s (chan.val * 32 + 2)).mod = chan.val * 32 + 2 := rfl
  have e1 : (chan.val * 32 + 2) / 32 % 8 = chan.val := by omega
  have e2 : (chan.val * 32 + 2) / 256 = 0 ∧ (chan.val * 32 + 2) / 4 % 8 = 0 := by omega
  have e3 : (chan.val * 32 + 2) % 4 = 2 := by omega
  simp only [parseCptr, hm, e1, e2, e3, Raw.slot_of, Fin.ofNat_val]
  rfl
theorem cptrFadr (s : Slot) (chan : Fin 8) : Statement (.cptrFadr s chan) := fun _ hw => by
  refine decode_of_parse _ (Raw.fits_of 0xC1 _ s (by decide) (by have := chan.isLt; omega)) ?_ hw
  show parseCptr (Raw.of 0xC1 s (chan.val * 32 + 3)) = _
  have := chan.isLt
  have hm : (Raw.of 0xC1 s (chan.val * 32 + 3)).mod = chan.val * 32 + 3 := rfl
  have e1 : (chan.val * 32 + 3) / 32 % 8 = chan.val := by omega
  have e2 : (chan.val * 32 + 3) / 256 = 0 ∧ (chan.val * 32 + 3) / 4 % 8 = 0 := by omega
  have e3 : (chan.val * 32 + 3) % 4 = 3 := by omega
  simp only [parseCptr, hm, e1, e2, e3, Raw.slot_of, Fin.ofNat_val]
  rfl
theorem cpwait (s : Slot) (scope : Scope) (chan : Fin 8) : Statement (.cpwait s scope chan) := fun _ hw => by
  have h1 := chan.isLt
  have h2 := scopeCode_lt scope
  refine decode_of_parse _ (Raw.fits_of 0xC2 _ s (by decide) (by omega)) ?_ hw
  show parseCpwait (Raw.of 0xC2 s (scopeCode scope * 1024 + chan.val * 32)) = _
  have hm : (Raw.of 0xC2 s (scopeCode scope * 1024 + chan.val * 32)).mod = scopeCode scope * 1024 + chan.val * 32 := rfl
  have e1 : (scopeCode scope * 1024 + chan.val * 32) / 1024 % 8 = scopeCode scope := by omega
  have e2 : (scopeCode scope * 1024 + chan.val * 32) / 8192 = 0 ∧ (scopeCode scope * 1024 + chan.val * 32) / 256 % 4 = 0
      ∧ (scopeCode scope * 1024 + chan.val * 32) % 32 = 0 := by omega
  have e3 : (scopeCode scope * 1024 + chan.val * 32) / 32 % 8 = chan.val := by omega
  simp only [parseCpwait, hm, e1, e2, e3, scopeOfCode_scopeCode, Raw.slot_of, Fin.ofNat_val]
  rfl
theorem xfm (s : Slot) (m : XfmMod) : Statement (.xfm s m) :=
  fun _ hw => decode_of_parse _ (Raw.fits_of 0xC3 _ s (by decide) (xfmCode_lt m)) (by 
    show withMod (xfmMod (xfmCode m)) _ = _
    rw [xfmMod_xfmCode]
    show Except.ok (Instr.xfm (Raw.of 0xC3 s _).slot m) = _
    rw [Raw.slot_of]) hw
theorem xfmComplete (c : Nat) : Statement (.xfmComplete c) :=
  fun h => absurd h Bool.false_ne_true
theorem qnt (s : Slot) (m : QntMod) : Statement (.qnt s m) :=
  fun _ hw => decode_of_parse _ (Raw.fits_of 0xC4 _ s (by decide) (qntCode_lt m)) (by 
    show withMod (qntMod (qntCode m)) _ = _
    rw [qntMod_qntCode]
    show Except.ok (Instr.qnt (Raw.of 0xC4 s _).slot m) = _
    rw [Raw.slot_of]) hw
theorem dqnt (s : Slot) (m : QntMod) : Statement (.dqnt s m) :=
  fun _ hw => decode_of_parse _ (Raw.fits_of 0xC5 _ s (by decide) (qntCode_lt m)) (by 
    show withMod (qntMod (qntCode m)) _ = _
    rw [qntMod_qntCode]
    show Except.ok (Instr.dqnt (Raw.of 0xC5 s _).slot m) = _
    rw [Raw.slot_of]) hw
theorem mma (s : Slot) : Statement (.mma s) :=
  fun _ hw => decode_of_parse _ (Raw.fits_of 0xC8 _ s (by decide) (by decide)) (plain_at 0xC8 .mma (fun _ _ _ _ _ _ _ _ _ => rfl) s) hw
theorem mdist (s : Slot) : Statement (.mdist s) :=
  fun _ hw => decode_of_parse _ (Raw.fits_of 0xC9 _ s (by decide) (by decide)) (plain_at 0xC9 .mdist (fun _ _ _ _ _ _ _ _ _ => rfl) s) hw
theorem mcacc (s : Slot) : Statement (.mcacc s) :=
  fun _ hw => decode_of_parse _ (Raw.fits_of 0xCA _ s (by decide) (by decide)) (plain_at 0xCA .mcacc (fun _ _ _ _ _ _ _ _ _ => rfl) s) hw
theorem mcfin (s : Slot) : Statement (.mcfin s) :=
  fun _ hw => decode_of_parse _ (Raw.fits_of 0xCB _ s (by decide) (by decide)) (plain_at 0xCB .mcfin (fun _ _ _ _ _ _ _ _ _ => rfl) s) hw
theorem arrayStart (core : Nat) : Statement (.arrayStart core) :=
  fun h => absurd h Bool.false_ne_true
theorem matrixTileComplete (core : Nat) (tile : Nat) (bad : List Nat) : Statement (.matrixTileComplete core tile bad) :=
  fun h => absurd h Bool.false_ne_true
theorem mwait (s : Slot) (h : Fin 16) : Statement (.mwait s h) := fun _ hw => by
  have h1 := h.isLt
  refine decode_of_parse _ (Raw.fits_of 0xCC _ s (by decide) (by omega)) ?_ hw
  show parseMwait (Raw.of 0xCC s (h.val)) = _
  have hm : (Raw.of 0xCC s (h.val)).mod = h.val := rfl
  have e1 : (h.val) / 64 = 0 := by omega
  have e2 : (h.val) / 16 % 4 = 0 := by omega
  have e3 : (h.val) % 16 = h.val := by omega
  simp only [parseMwait, hm, e1, e2, e3, Raw.slot_of, Fin.ofNat_val]
  rfl
theorem mwaitH (s : Slot) (h : Fin 16) : Statement (.mwaitH s h) := fun _ hw => by
  have h1 := h.isLt
  refine decode_of_parse _ (Raw.fits_of 0xCC _ s (by decide) (by omega)) ?_ hw
  show parseMwait (Raw.of 0xCC s (16 + h.val)) = _
  have hm : (Raw.of 0xCC s (16 + h.val)).mod = 16 + h.val := rfl
  have e1 : (16 + h.val) / 64 = 0 := by omega
  have e2 : (16 + h.val) / 16 % 4 = 1 := by omega
  have e3 : (16 + h.val) % 16 = h.val := by omega
  simp only [parseMwait, hm, e1, e2, e3, Raw.slot_of, Fin.ofNat_val]
  rfl
theorem mwaitAll (s : Slot) : Statement (.mwaitAll s) :=
  fun _ hw => decode_of_parse _ (Raw.fits_of 0xCC _ s (by decide) (by decide)) (by 
    have hm : (Raw.of 0xCC s 32).mod = 32 := rfl
    show parseMwait (Raw.of 0xCC s 32) = _
    simp only [parseMwait, hm, Raw.slot_of]
    rfl) hw
theorem fbind (s : Slot) (m : FbindMod) : Statement (.fbind s m) := fun _ hw => by
  have h1 := m.slotN.isLt
  have h2 := m.handle.isLt
  refine decode_of_parse _ (Raw.fits_of 0xCD _ s (by decide) (by omega)) ?_ hw
  show parseFbind (Raw.of 0xCD s (m.slotN.val * 32 + m.handle.val)) = _
  have hm : (Raw.of 0xCD s (m.slotN.val * 32 + m.handle.val)).mod = m.slotN.val * 32 + m.handle.val := rfl
  have e1 : (m.slotN.val * 32 + m.handle.val) / 512 = 0 ∧ (m.slotN.val * 32 + m.handle.val) / 16 % 2 = 0 := by omega
  have e2 : (m.slotN.val * 32 + m.handle.val) / 256 % 2 = 0 := by omega
  have e3 : (m.slotN.val * 32 + m.handle.val) / 32 % 8 = m.slotN.val := by omega
  have e4 : (m.slotN.val * 32 + m.handle.val) % 16 = m.handle.val := by omega
  simp only [parseFbind, hm, e1, e2, e3, e4, Raw.slot_of, Fin.ofNat_val]
  rfl
theorem fbindUnb (s : Slot) (n : Fin 8) : Statement (.fbindUnb s n) := fun _ hw => by
  have h1 := n.isLt
  refine decode_of_parse _ (Raw.fits_of 0xCD _ s (by decide) (by omega)) ?_ hw
  show parseFbind (Raw.of 0xCD s (256 + n.val * 32)) = _
  have hm : (Raw.of 0xCD s (256 + n.val * 32)).mod = 256 + n.val * 32 := rfl
  have e1 : (256 + n.val * 32) / 512 = 0 ∧ (256 + n.val * 32) / 16 % 2 = 0 := by omega
  have e2 : (256 + n.val * 32) / 256 % 2 = 1 := by omega
  have e3 : (256 + n.val * 32) / 32 % 8 = n.val := by omega
  have e4 : (256 + n.val * 32) % 16 = 0 := by omega
  simp only [parseFbind, hm, e1, e2, e3, e4, Raw.slot_of, Fin.ofNat_val]
  rfl
theorem coll (s : Slot) (m : CollMod) : Statement (.coll s m) :=
  fun _ hw => decode_of_parse _ (Raw.fits_of 0xD0 _ s (by decide) (collCode_lt m)) (by 
    show withMod (collMod (collCode m)) _ = _
    rw [collMod_collCode]
    show Except.ok (Instr.coll (Raw.of 0xD0 s _).slot m) = _
    rw [Raw.slot_of]) hw
theorem collMatch (op : Nat) (m : CollMeet) : Statement (.collMatch op m) :=
  fun h => absurd h Bool.false_ne_true
theorem collComplete (op : Nat) : Statement (.collComplete op) :=
  fun h => absurd h Bool.false_ne_true
theorem snapX (s : Slot) : Statement (.snapX s) :=
  fun _ hw => decode_of_parse _ (Raw.fits_of 0xE0 _ s (by decide) (by decide)) (by show parseSnap (Raw.of 0xE0 s 0) = _; rw [parseSnap, Raw.slot_of]; rfl) hw
theorem snapY (s : Slot) : Statement (.snapY s) :=
  fun _ hw => decode_of_parse _ (Raw.fits_of 0xE0 _ s (by decide) (by decide)) (by show parseSnap (Raw.of 0xE0 s 1) = _; rw [parseSnap, Raw.slot_of]; rfl) hw
theorem edge (s : Slot) : Statement (.edge s) :=
  fun _ hw => decode_of_parse _ (Raw.fits_of 0xE1 _ s (by decide) (by decide)) (plain_at 0xE1 .edge (fun _ _ _ _ _ _ _ _ _ => rfl) s) hw
theorem tricls (s : Slot) (cullb : Bool) : Statement (.tricls s cullb) := fun _ hw => by
  refine decode_of_parse _ (Raw.fits_of 0xE2 _ s (by decide) (by cases cullb <;> decide)) ?_ hw
  cases cullb <;> (show parseTricls (Raw.of 0xE2 s _) = _; rw [parseTricls, Raw.slot_of]; simp [Raw.of])
theorem rast (s : Slot) : Statement (.rast s) :=
  fun _ hw => decode_of_parse _ (Raw.fits_of 0xE3 _ s (by decide) (by decide)) (plain_at 0xE3 .rast (fun _ _ _ _ _ _ _ _ _ => rfl) s) hw
theorem rastSubmissionArrive (c : Nat) (n : Nat) : Statement (.rastSubmissionArrive c n) :=
  fun h => absurd h Bool.false_ne_true
theorem rastFragmentApply (c : Nat) (n : Nat) : Statement (.rastFragmentApply c n) :=
  fun h => absurd h Bool.false_ne_true
theorem trace (s : Slot) (pcnt : Fin 128) : Statement (.trace s pcnt) := fun _ hw => by
  refine decode_of_parse _ (Raw.fits_of 0xE4 _ s (by decide) (Nat.lt_trans pcnt.isLt (by decide))) ?_ hw
  show parseTrace (Raw.of 0xE4 s pcnt.val) = _
  have hm : (Raw.of 0xE4 s pcnt.val).mod = pcnt.val := rfl
  simp only [parseTrace, hm, pcnt.isLt, if_true, Raw.slot_of, Fin.ofNat_val]
theorem traversalFetch (p : Nat) (n : Nat) : Statement (.traversalFetch p n) :=
  fun h => absurd h Bool.false_ne_true
theorem tresumeCont (s : Slot) : Statement (.tresumeCont s) :=
  fun _ hw => decode_of_parse _ (Raw.fits_of 0xE5 _ s (by decide) (by decide)) (by show parseTresume (Raw.of 0xE5 s 0) = _; rw [parseTresume, Raw.slot_of]; rfl) hw
theorem tresumeShort (s : Slot) : Statement (.tresumeShort s) :=
  fun _ hw => decode_of_parse _ (Raw.fits_of 0xE5 _ s (by decide) (by decide)) (by show parseTresume (Raw.of 0xE5 s 1) = _; rw [parseTresume, Raw.slot_of]; rfl) hw
theorem tresumeCommit (s : Slot) : Statement (.tresumeCommit s) :=
  fun _ hw => decode_of_parse _ (Raw.fits_of 0xE5 _ s (by decide) (by decide)) (by show parseTresume (Raw.of 0xE5 s 2) = _; rw [parseTresume, Raw.slot_of]; rfl) hw
theorem tresumeEnd (s : Slot) : Statement (.tresumeEnd s) :=
  fun _ hw => decode_of_parse _ (Raw.fits_of 0xE5 _ s (by decide) (by decide)) (by show parseTresume (Raw.of 0xE5 s 3) = _; rw [parseTresume, Raw.slot_of]; rfl) hw
theorem tresumeAbort (s : Slot) : Statement (.tresumeAbort s) :=
  fun _ hw => decode_of_parse _ (Raw.fits_of 0xE5 _ s (by decide) (by decide)) (by show parseTresume (Raw.of 0xE5 s 4) = _; rw [parseTresume, Raw.slot_of]; rfl) hw
theorem twait (s : Slot) : Statement (.twait s) :=
  fun _ hw => decode_of_parse _ (Raw.fits_of 0xE6 _ s (by decide) (by decide)) (plain_at 0xE6 .twait (fun _ _ _ _ _ _ _ _ _ => rfl) s) hw
theorem repack (s : Slot) : Statement (.repack s) :=
  fun _ hw => decode_of_parse _ (Raw.fits_of 0xE7 _ s (by decide) (by decide)) (plain_at 0xE7 .repack (fun _ _ _ _ _ _ _ _ _ => rfl) s) hw
theorem repackExecute (p : Nat) : Statement (.repackExecute p) :=
  fun h => absurd h Bool.false_ne_true
theorem sclk (s : Slot) (m : LookMod) : Statement (.sclk s m) := fun _ hw => by
  obtain ⟨a, b, c⟩ := m
  refine decode_of_parse _ (Raw.fits_of 0xE8 _ s (by decide) (by cases a <;> cases b <;> cases c <;> decide)) ?_ hw
  cases a <;> cases b <;> cases c <;> (show parseSclk (Raw.of 0xE8 s _) = _; rw [parseSclk, Raw.slot_of]; simp [Raw.of])
theorem scwait (s : Slot) : Statement (.scwait s) :=
  fun _ hw => decode_of_parse _ (Raw.fits_of 0xE9 _ s (by decide) (by decide)) (plain_at 0xE9 .scwait (fun _ _ _ _ _ _ _ _ _ => rfl) s) hw
theorem scpop (s : Slot) : Statement (.scpop s) :=
  fun _ hw => decode_of_parse _ (Raw.fits_of 0xEA _ s (by decide) (by decide)) (plain_at 0xEA .scpop (fun _ _ _ _ _ _ _ _ _ => rfl) s) hw
theorem scpub (s : Slot) : Statement (.scpub s) :=
  fun _ hw => decode_of_parse _ (Raw.fits_of 0xEB _ s (by decide) (by decide)) (plain_at 0xEB .scpub (fun _ _ _ _ _ _ _ _ _ => rfl) s) hw
theorem scinvDep (s : Slot) (drop : Bool) : Statement (.scinvDep s drop) := fun _ hw => by
  refine decode_of_parse _ (Raw.fits_of 0xEC _ s (by decide) (by cases drop <;> decide)) ?_ hw
  cases drop <;> (show parseScinv (Raw.of 0xEC s _) = _; rw [parseScinv, Raw.slot_of]; simp [Raw.of])
theorem scinvKey (s : Slot) (drop : Bool) : Statement (.scinvKey s drop) := fun _ hw => by
  refine decode_of_parse _ (Raw.fits_of 0xEC _ s (by decide) (by cases drop <;> decide)) ?_ hw
  cases drop <;> (show parseScinv (Raw.of 0xEC s _) = _; rw [parseScinv, Raw.slot_of]; simp [Raw.of])
theorem invalidationVisit (w : Nat) (die : Nat) (set : Nat) : Statement (.invalidationVisit w die set) :=
  fun h => absurd h Bool.false_ne_true
theorem scstamp (s : Slot) : Statement (.scstamp s) :=
  fun _ hw => decode_of_parse _ (Raw.fits_of 0xED _ s (by decide) (by decide)) (plain_at 0xED .scstamp (fun _ _ _ _ _ _ _ _ _ => rfl) s) hw
theorem swatchTagRepair (die : Nat) (set : Nat) (way : Nat) (read : BitVec 128) : Statement (.swatchTagRepair die set way read) :=
  fun h => absurd h Bool.false_ne_true
theorem resultAvailable (p : Nat) (k : Nat) : Statement (.resultAvailable p k) :=
  fun h => absurd h Bool.false_ne_true
theorem variableWriteLand (p : Nat) (k : Nat) (n : Nat) : Statement (.variableWriteLand p k n) :=
  fun h => absurd h Bool.false_ne_true
theorem translationWalk (n : Nat) : Statement (.translationWalk n) :=
  fun h => absurd h Bool.false_ne_true
theorem stage2FaultResolve (n : Nat) (fix : Option (List (Nat × Dword))) : Statement (.stage2FaultResolve n fix) :=
  fun h => absurd h Bool.false_ne_true
theorem parkExpire (p : Nat) (k : Nat) (l : Nat) : Statement (.parkExpire p k l) :=
  fun h => absurd h Bool.false_ne_true
theorem parkAllStill (p : Nat) (k : Nat) : Statement (.parkAllStill p k) :=
  fun h => absurd h Bool.false_ne_true
theorem skeinRetire (p : Nat) (k : Nat) : Statement (.skeinRetire p k) :=
  fun h => absurd h Bool.false_ne_true
theorem launch (q : HostReq) (w : Dword) : Statement (.launch q w) :=
  fun h => absurd h Bool.false_ne_true
theorem launchStart (fn : Nat) : Statement (.launchStart fn) :=
  fun h => absurd h Bool.false_ne_true
theorem controlWordRead (fn : Nat) (seq : Nat) (node : Nat) : Statement (.controlWordRead fn seq node) :=
  fun h => absurd h Bool.false_ne_true
theorem patreg (q : HostReq) (w : Dword) : Statement (.patreg q w) :=
  fun h => absurd h Bool.false_ne_true
theorem registrationComplete (fn : Nat) : Statement (.registrationComplete fn) :=
  fun h => absurd h Bool.false_ne_true
theorem patunreg (q : HostReq) (w : Dword) : Statement (.patunreg q w) :=
  fun h => absurd h Bool.false_ne_true
theorem panelDispatch (entry : Nat) (places : List Placement) : Statement (.panelDispatch entry places) :=
  fun h => absurd h Bool.false_ne_true
theorem poolAging (entry : Nat) : Statement (.poolAging entry) :=
  fun h => absurd h Bool.false_ne_true
theorem rangeSplit (p : Nat) (place : Placement) : Statement (.rangeSplit p place) :=
  fun h => absurd h Bool.false_ne_true
theorem preemptionRequest (entry : Nat) : Statement (.preemptionRequest entry) :=
  fun h => absurd h Bool.false_ne_true
theorem cooperativeSave (p : Nat) : Statement (.cooperativeSave p) :=
  fun h => absurd h Bool.false_ne_true
theorem deadlineExpire (p : Nat) : Statement (.deadlineExpire p) :=
  fun h => absurd h Bool.false_ne_true
theorem contextSaveDone (p : Nat) : Statement (.contextSaveDone p) :=
  fun h => absurd h Bool.false_ne_true
theorem panelResume (n : Nat) (places : List Placement) : Statement (.panelResume n places) :=
  fun h => absurd h Bool.false_ne_true
theorem sliceEnd (c : Nat) : Statement (.sliceEnd c) :=
  fun h => absurd h Bool.false_ne_true
theorem partitionChange (fn : Nat) (clusters : Word) (slices : List (Nat × Nat)) : Statement (.partitionChange fn clusters slices) :=
  fun h => absurd h Bool.false_ne_true
theorem coreRemoval (core : Nat) : Statement (.coreRemoval core) :=
  fun h => absurd h Bool.false_ne_true
theorem panelHalt (p : Nat) (k : Nat) (m : HaltReport) : Statement (.panelHalt p k m) :=
  fun h => absurd h Bool.false_ne_true
theorem faultRecordWrite (p : Nat) : Statement (.faultRecordWrite p) :=
  fun h => absurd h Bool.false_ne_true
theorem tagParityError (m : TagError) : Statement (.tagParityError m) :=
  fun h => absurd h Bool.false_ne_true
theorem functionCreate (fn : Nat) (m : FnSetup) : Statement (.functionCreate fn m) :=
  fun h => absurd h Bool.false_ne_true
theorem functionLevelReset (fn : Nat) : Statement (.functionLevelReset fn) :=
  fun h => absurd h Bool.false_ne_true
theorem dieLinkFailure (a : Nat) (b : Nat) : Statement (.dieLinkFailure a b) :=
  fun h => absurd h Bool.false_ne_true
theorem powerInterval (die : Nat) (m : PowerSample) : Statement (.powerInterval die m) :=
  fun h => absurd h Bool.false_ne_true
theorem thermalTrip (die : Nat) : Statement (.thermalTrip die) :=
  fun h => absurd h Bool.false_ne_true
theorem boot (m : BootMap) : Statement (.boot m) :=
  fun h => absurd h Bool.false_ne_true
theorem coldReset : Statement .coldReset :=
  fun h => absurd h Bool.false_ne_true
theorem warmReset : Statement .warmReset :=
  fun h => absurd h Bool.false_ne_true
theorem attestationRequest (fn : Nat) (nonce : List Byte) (m : DoeRequest) : Statement (.attestationRequest fn nonce m) :=
  fun h => absurd h Bool.false_ne_true
theorem routeTableLoad (m : RouteLoad) : Statement (.routeTableLoad m) :=
  fun h => absurd h Bool.false_ne_true
theorem hostApertureRead (q : HostReq) (a : BarAddr) (n : Nat) : Statement (.hostApertureRead q a n) :=
  fun h => absurd h Bool.false_ne_true
theorem hostApertureWrite (q : HostReq) (a : BarAddr) (data : List Byte) : Statement (.hostApertureWrite q a data) :=
  fun h => absurd h Bool.false_ne_true
theorem apbase (q : HostReq) (w : Dword) : Statement (.apbase q w) :=
  fun h => absurd h Bool.false_ne_true
theorem apfault (q : HostReq) : Statement (.apfault q) :=
  fun h => absurd h Bool.false_ne_true
theorem performedAtHomeL2 (n : Nat) : Statement (.performedAtHomeL2 n) :=
  fun h => absurd h Bool.false_ne_true
theorem cwbComplete (n : Nat) : Statement (.cwbComplete n) :=
  fun h => absurd h Bool.false_ne_true
theorem fabricFailure (op : Nat) : Statement (.fabricFailure op) :=
  fun h => absurd h Bool.false_ne_true

end Sys2Proof.Laws.RoundTrip
end

