-- ==== Sys2Proof/Tests/Slice0.lean ====
section
/-!
SUPPORT. Sys2Proof/Tests/Slice0.lean: the tests of the model's author. Words come from the worked examples of spec/; expected values are
worked out by hand from the rules named; the witnesses show that the hypotheses of the statements are met together.
-/
namespace Sys2Proof.Machine.Tests

set_option maxRecDepth 100000

/-! ## Helpers -/

/-- A slot with nothing in it. -/
def z0 : Slot := ⟨0, 0, false, .none, .zero, .zero, .zero, 0⟩
/-- A slot with a vector destination and two vector sources. -/
def zv : Slot := ⟨0, 0, false, .v 4, .v 0, .v 1, .zero, 0⟩
/-- An ALU instruction on a slot. -/
def alu (z : Slot) (ty : Ty) (sub : Fin 8) : Alu := ⟨z, false, ty, .captured, false, sub, false, false, false, false⟩
/-- A memory instruction on a slot. -/
def mem (z : Slot) (space : Space) (size : Size) : Mem := ⟨z, space, .skein, .relaxed, .plain, size, 0⟩

/-- The reset state with an instruction placed, its skein in focus. -/
def at_ (i : Instr) : State := { State.reset.withFetchWord 96 (encode i).toNat with focus := (1, 0) }
/-- The placed panel's only skein changed. -/
def onSk (f : Skein → Skein) (s : State) : State := s.onPanel 1 fun p => p.onSkein 0 f
/-- Every lane of it changed. -/
def onLns (f : Lane → Lane) (s : State) : State := onSk (fun k => { k with lanes := k.lanes.map f }) s
/-- Its lanes in a mode. -/
def inMode (m : Mode) (s : State) : State := onLns (fun a => { a with mode := m }) s
/-- The gate of an instruction is open, on a frame that meets a test. -/
def opens (s : State) (i : Instr) (z : Slot) (f : Form) (once : Bool) (need : Least) (p : Frame → Bool) : Bool :=
  (s.gate i z f once need).any p
/-- Some lane of the issue set is active. -/
def some_ (z : Slot) (fr : Frame) : Bool := !(fr.actives z).isEmpty
/-- An outcome is a next state that meets a test. -/
def next (o : Out) (p : State → Bool) : Bool := match o with | .next t => p t | _ => false
/-- The state after the placed instruction's step. -/
def stepped (i : Instr) (p : State → Bool) : Bool := next (step (at_ i)) p

/-! ## Well-formedness: each check refuses an ill-formed term -/

/-- R35, R36, R44, R98, R407: predicates, LIT and CTL. -/
theorem test_wf_refuses_slots :
    ([.nop { z0 with pneg := true }, .nop { z0 with lit := 1 }, .bra { z0 with lit := 5 }, .setfp z0 ⟨false, false, true, 1⟩,
      .tevt { z0 with lit := 0x10000 }, .snapX { z0 with lit := 1 }, .park { z0 with pneg := true }, .tricls z0 false,
      .tricls { z0 with lit := 256 } false, .mwait { z0 with lit := 48 } 0, .mwaitH { z0 with sa := .lit, lit := 1 } 0, .mwaitAll { z0 with sa := .lit, lit := 1 }, .repack { z0 with pred := 1 }, .edge { z0 with lit := 1 },
      .qnt { z0 with lit := 9 } ⟨.f32, .rne⟩, .qnt { z0 with lit := 10 } ⟨.n32, .rne⟩, .dqnt { z0 with lit := 10 } ⟨.f32, .sto⟩] : List Instr).all
      (fun i => !i.wf) = true := by decide

/-- R37, R396, R400 to R402: register numbers. -/
theorem test_wf_refuses_registers :
    ([.srd { z0 with lit := 0x999 }, .srdElem { z0 with lit := 0x100 }, .swr { z0 with lit := 0x999 }, .swr { z0 with lit := 0x100 },
      .swrFpmode { z0 with lit := 0x101 }, .swrFpflags { z0 with lit := 0x100 }, .swrVpc { z0 with lit := 0x100 },
      .swrElemVpc { z0 with lit := 0x100 }, .swrPanelPreq { z0 with lit := 0x020 }] : List Instr).all (fun i => !i.wf) = true := by decide

/-- R41, R99, R109, R157: types, SUB, RND, SAT, SF, modifiers and literals of the ALU layout. -/
theorem test_wf_refuses_alu :
    ([.iadd (alu z0 .f32 0), .iadd (alu z0 .i32 1), .iadd { alu z0 .i32 0 with rnd := .rne }, .idiv { alu z0 .i32 0 with sat := true },
      .iadd { alu z0 .i32 0 with aneg := true }, .fadd { alu z0 .f32 0 with sat := true }, .ffma { alu z0 .f32 0 with rnd := .sto },
      .fcmp (alu z0 .f16x2 0), .iadd (alu { zv with sb := .lit, lit := 0x100 } .n8 0), .vote { alu z0 .b32 0 with sf := true },
      .plyset (alu { z0 with lit := 3 } .b32 0), .barSync (alu { z0 with lit := 0x80000000 } .b32 2), .imulh (alu z0 .n32 1),
      .shl (alu z0 .b32 1), .bfx (alu z0 .b32 2), .fcls (alu z0 .f32 1), .cvt (alu { z0 with lit := 99 } .f32 0),
      .kop (alu z0 .b32 6), .shfl (alu z0 .f32 0), .plyred (alu z0 .f32 7), .frcp { alu z0 .f32 0 with rnd := .rtz },
      .fadd { alu z0 .f32 0 with babs := true, rnd := .rtz, sat := true }] : List Instr).all (fun i => !i.wf) = true := by decide

/-- R43, R212, R215: the memory layout. -/
theorem test_wf_refuses_memory :
    ([.ld (mem zv .opbuf .w32), .ld { mem zv .global .w32 with ord := .release }, .ld { mem zv .panel .w32 with cpol := .bypass },
      .ld { mem zv .global .w32 with msub := 1 }, .ld { mem zv .panel .w32 with ord := .acquire, scope := .system },
      .st (mem zv .constants .w32), .st { mem zv .global .w32 with ord := .acquire }, .st { mem zv .global .w32 with msub := 1 },
      .atom (mem zv .global .w8), .atom { mem zv .global .w32 with cpol := .bypass }, .atom { mem zv .global .w32 with msub := 7, slot := { zv with lit := 0x80000000 } },
      .red { mem zv .global .w32 with ord := .acquire }, .cas { mem zv .global .w32 with msub := 1 },
      .fence { mem { z0 with sa := .lit, lit := 1 } .global .w8 with ord := .acquire, scope := .device }, .cinvAll { mem { z0 with sb := .lit, lit := 1 } .global .w8 with msub := 1 },
      .fence (mem z0 .global .w8), .fence { mem z0 .global .w32 with ord := .acqRel }, .cinvLine { mem zv .global .w8 with msub := 1 },
      .cinvAll (mem z0 .global .w8), .cwb { mem zv .global .w8 with msub := 1 }, .pref { mem zv .global .w8 with msub := 2 },
      .obres (mem { zv with lit := 16 } .global .w8), .obld (mem zv .global .w32), .obst (mem zv .opbuf .w8),
      .obld (mem { zv with lit := 0x80000 } .opbuf .w32), .mbi (mem zv .global .w8), .mba { mem zv .panel .w8 with msub := 1 },
      .rngnext (mem { zv with lit := 1 } .global .w8), .pipepush (mem { zv with lit := 8 } .global .w8)] : List Instr).all
      (fun i => !i.wf) = true := by decide

/-- R277, R286, R460: the engines' instructions. -/
theorem test_wf_refuses_engines :
    ([.cpy z0 ⟨.global, .constants, .linear, 0, .none, .none⟩, .cpy z0 ⟨.global, .panel, .linear, 0, .bytes, .none⟩,
      .cpy z0 ⟨.panel, .global, .records, 0, .none, .none⟩, .cpy { z0 with lit := 64 } ⟨.global, .panel, .linear, 0, .none, .none⟩] :
      List Instr).all (fun i => !i.wf) = true := by decide

/-! ## Decoding: words of the worked examples -/

theorem test_decode_iadd_lit :
    decode 0x20020401A6A518000000000A =
      .ok (.iadd ⟨⟨0, 1, false, .v 4, .v 1, .lit, .zero, 10⟩, false, .i32, .captured, false, 0, false, false, false, false⟩) := by decide

theorem test_decode_fadd :
    decode 0x6000050203A5580000000000 =
      .ok (.fadd ⟨⟨0, 0, false, .v 5, .v 2, .v 3, .zero, 0⟩, false, .f32, .captured, false, 0, false, false, false, false⟩) := by decide

theorem test_decode_iadd_scalar :
    decode 0x2050C8C8A6A5B80000000001 =
      .ok (.iadd ⟨⟨5, 0, false, .s 8, .s 8, .lit, .zero, 1⟩, true, .n32, .captured, false, 0, false, false, false, false⟩) := by decide

theorem test_decode_bra_notpred :
    decode 0x0105FFA5A5A5000000000000 =
      .ok (.bra ⟨0, 2, true, .none, .zero, .zero, .zero, 0⟩) := by decide

theorem test_decode_nop :
    decode 0x0000FFA5A5A5000000000000 =
      .ok (.nop ⟨0, 0, false, .none, .zero, .zero, .zero, 0⟩) := by decide

theorem test_decode_iaddc :
    decode 0x403006030581380000000000 =
      .ok (.iaddc ⟨⟨3, 0, false, .v 6, .v 3, .v 5, .q 1, 0⟩, false, .n32, .captured, false, 0, false, false, false, false⟩) := by decide

theorem test_decode_ffma :
    decode 0x630006000102580000000000 =
      .ok (.ffma ⟨⟨0, 0, false, .v 6, .v 0, .v 1, .v 2, 0⟩, false, .f32, .captured, false, 0, false, false, false, false⟩) := by decide

theorem test_decode_plyscan :
    decode 0x96040501A5A5180000000001 =
      .ok (.plyscan ⟨⟨0, 2, false, .v 5, .v 1, .zero, .zero, 1⟩, false, .i32, .captured, false, 0, false, false, false, false⟩) := by decide

theorem test_decode_rngnext :
    decode 0xB100C8A5A5A5000000000000 =
      .ok (.rngnext ⟨⟨0, 0, false, .s 8, .zero, .zero, .zero, 0⟩, .global, .skein, .relaxed, .plain, .w8, 0⟩) := by decide

theorem test_decode_red_min :
    decode 0xA302FF0204A5001D00000000 =
      .ok (.red ⟨⟨0, 1, false, .none, .v 2, .v 4, .zero, 0⟩, .global, .skein, .relaxed, .plain, .w64, 5⟩) := by decide

theorem test_decode_fence :
    decode 0xA500FFA5A5A50F0000000000 =
      .ok (.fence ⟨⟨0, 0, false, .none, .zero, .zero, .zero, 0⟩, .global, .die, .acqRel, .plain, .w8, 0⟩) := by decide

theorem test_decode_bar_sync :
    decode 0x9904FFA6A6A5002000020080 =
      .ok (.barSync ⟨⟨0, 2, false, .none, .lit, .lit, .zero, 0x20080⟩, false, .b32, .captured, false, 2, false, false, false, false⟩) := by decide

theorem test_decode_ld_w128 :
    decode 0xA000080CA5A5202000000000 =
      .ok (.ld ⟨⟨0, 0, false, .v 8, .v 12, .zero, .zero, 0⟩, .panel, .skein, .relaxed, .plain, .w128, 0⟩) := by decide

theorem test_decode_cpy_shape :
    decode 0xC000FFD4D6D8054A00000100 =
      .ok (.cpy ⟨0, 0, false, .none, .s 20, .s 22, .s 24, 0x100⟩ ⟨.global, .panel, .shape, 2, .bytes, .panel⟩) := by decide

theorem test_decode_mma :
    decode 0xC80AFFCCA5A5000000000000 =
      .ok (.mma ⟨0, 5, false, .none, .s 12, .zero, .zero, 0⟩) := by decide

theorem test_decode_fbind :
    decode 0xCD00FFA6A5A5000200000000 =
      .ok (.fbind ⟨0, 0, false, .none, .lit, .zero, .zero, 0⟩ ⟨0, 2⟩) := by decide

theorem test_decode_mcacc :
    decode 0xCA0AFFA6A5A5000000000040 =
      .ok (.mcacc ⟨0, 5, false, .none, .lit, .zero, .zero, 0x40⟩) := by decide

theorem test_decode_mbw :
    decode 0xAF00FFA5A5A52400000000C0 =
      .ok (.mbw ⟨⟨0, 0, false, .none, .zero, .zero, .zero, 0xC0⟩, .panel, .panel, .relaxed, .plain, .w8, 0⟩) := by decide

theorem test_decode_edge :
    decode 0xE10004000206000000000000 =
      .ok (.edge ⟨0, 0, false, .v 4, .v 0, .v 2, .v 6, 0⟩) := by decide

theorem test_decode_sclk :
    decode 0xE8000802D4A5000000000000 =
      .ok (.sclk ⟨0, 0, false, .v 8, .v 2, .s 20, .zero, 0⟩ ⟨false, false, false⟩) := by decide

theorem test_decode_bfx :
    decode 0x3D000420A6A5000000001907 =
      .ok (.bfx ⟨⟨0, 0, false, .v 4, .v 32, .lit, .zero, 0x1907⟩, false, .b32, .captured, false, 0, false, false, false, false⟩) := by decide

theorem test_decode_atom_add :
    decode 0xA2003737D0A5241000000000 =
      .ok (.atom ⟨⟨0, 0, false, .v 55, .v 55, .s 16, .zero, 0⟩, .panel, .panel, .relaxed, .plain, .w32, 0⟩) := by decide

theorem test_decode_srd_fpflags :
    decode 0x0E0006A5A5A5000000000101 =
      .ok (.srd ⟨0, 0, false, .v 6, .zero, .zero, .zero, 0x101⟩) := by decide

theorem test_decode_swr_fpflags :
    decode 0x0F00FFA5A5A5000000000101 =
      .ok (.swrFpflags ⟨0, 0, false, .none, .zero, .zero, .zero, 0x101⟩) := by decide

theorem test_decode_htlbi :
    decode 0x1100FFD4D6A5000000000000 =
      .ok (.htlbiIpa ⟨0, 0, false, .none, .s 20, .s 22, .zero, 0⟩) := by decide

theorem test_decode_scinv_dep :
    decode 0xEC00D3C8D1A5000000000000 =
      .ok (.scinvDep ⟨0, 0, false, .s 19, .s 8, .s 17, .zero, 0⟩ false) := by decide

/-! ## Witnesses: encoding, reset and the step -/

theorem test_witness_encoding : ((Instr.iadd (alu zv .i32 0)).slot?.isSome && (Instr.iadd (alu zv .i32 0)).wf) = true := by decide

theorem test_witness_power : State.reset.PowerOk ∧ next (step State.reset) (fun _ => true) = true := by
  refine ⟨?_, by decide⟩
  unfold State.PowerOk Die.PowerOk
  decide

/-- The hypotheses of StepRunsDecodedInstruction on an attempt, for a placed NOP. -/
theorem test_witness_attempt :
    (match (at_ (.nop z0)).openFrame with
      | .error _ => false
      | .ok fr => fr.k.reads.isNone &&
        match (at_ (.nop z0)).fetchAt fr with
        | .phys pa =>
          (match (at_ (.nop z0)).readLine fr.p.core pa (fun d => lineGroup d (slotOf fr.pc)) with
            | (some d, _) => lineOk d && pcValid fr.pc && lineGroup d (slotOf fr.pc) == [slotOf fr.pc] &&
                fr.lanes.all (fun l => !(fr.k.lane l).needTgt || lineTgt d (slotOf fr.pc)) &&
                (match decode (lineSlot d (slotOf fr.pc)) with | .ok i => decide (i = .nop z0) | _ => false)
            | _ => false)
        | _ => false) = true := by decide

/-- A load whose page the core's TLB does not hold has issued, and waits for its walk. -/
def waiting (i : Instr) : State := match exec i { at_ i with tlbs := [] } with
  | .next t => t
  | _ => at_ i

/-- Its hypotheses on a whole step, for a placed NOP, and on an event that waits for its translations. -/
theorem test_witness_step :
    (let s := State.reset.withFetchWord 96 (encode (.nop z0)).toNat
     s.inputs.isEmpty && s.dueNow.isEmpty && s.mayHappen.isEmpty && s.atoms.isEmpty &&
      match s.openTries with
      | [x] => !s.late x && x.ready && next x.out fun _ => true
      | _ => false) = true ∧
    (match (waiting (.ld (mem { zv with sb := .zero, lit := 0x5000 } .global .w32))).openFrame with
      | .ok fr => fr.k.reads.isSome
      | .error _ => false) = true := by decide

/-- The hypotheses of FixedLatencyInstructionsComplete on an interlock: IADD reads a register that an outstanding write will write. -/
theorem test_witness_interlock :
    (let m := memberIadd (alu zv .i32 0)
     match (onSk (fun k => { k with outs := [{ VarWrite.blank with targets := [.v 3 0] }] }) (at_ (.iadd (alu zv .i32 0)))).openFrame with
      | .ok fr => (memberOf (.iadd (alu zv .i32 0))).isSome && (fr.staticTrap false .user m.form m.slot m.hi).isNone &&
          fr.locked m.once m.form m.slot
      | .error _ => false) = true := by decide

/-! ## Witnesses: fixed-latency and variable-latency results -/

/-- A member's gate is open and it meets the hypotheses of the statements about commits. -/
def memberOpens (i : Instr) : Bool :=
  (memberOf i).any fun m => opens (at_ i) i m.slot m.form m.once .user fun fr =>
    decide (fr.k.step = 0) && decide (fr.p.fpEnables fr.mode = 0) && (fr.shortLanes m.once m.form m.slot).isEmpty && !fr.lanes.isEmpty && fr.lanes.all fun l => !(fr.k.lane l).exited

theorem test_witness_members :
    ([.iadd (alu zv .i32 0), .fadd (alu zv .f32 0), .mov (alu { zv with sb := .zero } .n64 0), .nop z0, .exit z0] : List Instr).all
      memberOpens = true := by decide

/-- FADD of the largest numbers with every FP trap enabled: each lane's result raises an enabled flag. -/
def trapping : State := (onLns (fun a => { a with v := [(0, 0x7F7FFFFF), (1, 0x7F7FFFFF)] }) (at_ (.fadd (alu zv .f32 0)))).onPanel 1 fun p =>
  { p with kernel := { p.kernel with traps := 0x1F0000 } }

theorem test_witness_fpexc :
    (let m := memberFadd (alu zv .f32 0)
     match trapping.openFrame with
      | .ok fr => (fr.staticTrap false .user m.form m.slot m.hi).isNone && (fr.shortLanes m.once m.form m.slot).isEmpty && decide (fr.k.step = 0) &&
          (trapping.spoiled fr m.slot m.once m.cross fr.lanes).isEmpty &&
          (let pl := m.plan { fr with next := nextPc fr.pc } fr.lanes
           pl.float && pl.lat != 0 && pl.links.isEmpty && decide (pl.vals.map fun v => v.1).Nodup && !pl.vals.isEmpty &&
             pl.vals.all fun v => v.2.2 &&& BitVec.ofNat 32 (fr.p.fpEnables fr.mode % 32) == 20)
      | .error _ => false) = true := by decide

theorem test_witness_parallel :
    (opens (at_ (.kop (alu { zv with dst := .k 1, sa := .k 2, sb := .k 3 } .b32 0)))
        (.kop (alu { zv with dst := .k 1, sa := .k 2, sb := .k 3 } .b32 0)) { zv with dst := .k 1, sa := .k 2, sb := .k 3 }
        (formKopOps (alu { zv with dst := .k 1, sa := .k 2, sb := .k 3 } .b32 0)) false .user (some_ z0) &&
      opens (at_ (.kpop (alu { z0 with dst := .s 4, sa := .k 2 } .b32 0))) (.kpop (alu { z0 with dst := .s 4, sa := .k 2 } .b32 0))
        { z0 with dst := .s 4, sa := .k 2 } formMaskOps false .user (some_ z0) &&
      opens (at_ (.kffs (alu { z0 with dst := .s 4, sa := .k 2 } .b32 0))) (.kffs (alu { z0 with dst := .s 4, sa := .k 2 } .b32 0))
        { z0 with dst := .s 4, sa := .k 2 } formMaskOps false .user (some_ z0) &&
      opens (at_ (.vote (alu { z0 with dst := .v 4, sa := .k 2 } .b32 0))) (.vote (alu { z0 with dst := .v 4, sa := .k 2 } .b32 0))
        { z0 with dst := .v 4, sa := .k 2 } formVoteOps false .user (some_ z0) &&
      opens (at_ (.shfl (alu zv .b32 0))) (.shfl (alu zv .b32 0)) zv (formShflOps (alu zv .b32 0)) false .user (some_ z0) &&
      opens (at_ (.plyred (alu { zv with sb := .zero } .i32 0))) (.plyred (alu { zv with sb := .zero } .i32 0)) { zv with sb := .zero }
        (formPlyOps .i32 false) false .user (some_ z0) &&
      opens (at_ (.plyscan (alu { zv with sb := .zero } .i32 0))) (.plyscan (alu { zv with sb := .zero } .i32 0)) { zv with sb := .zero }
        (formPlyOps .i32 true) false .user (some_ z0) &&
      opens (at_ (.elect (alu { z0 with dst := .k 1 } .b32 0))) (.elect (alu { z0 with dst := .k 1 } .b32 0)) { z0 with dst := .k 1 }
        { dst := .fixed true } false .user (some_ z0)) = true := by decide

/-- A skein with one due result. -/
def due (regs : List (Target × Word)) : State :=
  onSk (fun k => { k with results := [⟨0, 0, regs, [⟨3, .user, 0, 9⟩], 0, false, false, [], 0⟩] }) (at_ (.nop z0))

theorem test_witness_results :
    ([[(Target.s 1, (5 : Word))], [(.v 31 7, 5)], [(.k 15 31, 1)]].all fun regs => ((due regs).skeinAt 1 0).any fun k =>
        (k.dueResult ((due regs).cycle 0)).any fun r => r.exc.isEmpty && decide (r.regs = regs) && (k.lanes.getD 3 (k.lane 3)).qUser.any fun q => q.tag == 0) = true ∧
      (((onSk (fun k => { k with outs := [{ VarWrite.blank with seq := 4, targets := [.s 9], vals := [(.s 9, 6)] }] })
        (at_ (.nop z0))).skeinAt 1 0).any fun k => (k.landable 4).any fun w => w.exc.isEmpty && w.bad.isEmpty && decide (w.vals = [(.s 9, 6)])) = true := by
  decide

/-- A result and a write that lane 3 traps FPEXC with. -/
theorem test_witness_late_traps :
    (let t : Trap := ⟨3, .fpexc, 4, 0x1000, false⟩
     let s := onSk (fun k => { k with results := [⟨0, 0, [], [], 4, true, true, [t], 0⟩]
                                      outs := [{ VarWrite.blank with seq := 4, flags := 4, exc := [t] }] }) (at_ (.nop z0))
     (s.panel? 1).any fun p => p.halt.isNone && (p.skein? 0).any fun k => (k.lanes[3]?).any (fun a => a.mode == .user) &&
       (k.dueResult (s.cycle p.core)).any (fun r => r.bad == 0 && r.exc.contains t) &&
       (k.landable 4).any fun w => w.bad.isEmpty && w.exc.contains t) = true := by decide

/-- Operands of each case of the special functions: 2, 3, 1/4 of a turn, and an exponent whose enclosure decides. -/
theorem test_witness_special :
    ((0x40000000 : Nat) < fmt32.signBit ∧ 0 < (0x40000000 : Nat) % fmt32.signBit ∧ (0x40400000 : Nat) % fmt32.signBit < 255 * 2 ^ 23 ∧
      2 ^ (fmt32.bias + fmt32.fb - 1) ∣ 2 ^ fmt32.fb * 2 ^ (0x40000000 / 2 ^ fmt32.fb - 1) ∧
      2 ^ (fmt32.bias + fmt32.fb - 1) ∣ 4 * (2 ^ fmt32.fb * 2 ^ (0x3E800000 / 2 ^ fmt32.fb - 1))) := by decide

theorem test_witness_decides :
    (exp2At fmt16 false 1 2 0 640).isSome = true ∧ (log2At fmt16 false 3 1 1 640).isSome = true ∧
      (turnAt fmt16 false false false 1 2 640).isSome = true := by decide

theorem test_witness_late :
    ([(.idiv (alu zv .i32 0), formDivOps .i32), (.irem (alu zv .n32 0), formDivOps .n32)].all fun (x : Instr × Form) =>
        opens (at_ x.1) x.1 zv x.2 false .user (some_ zv)) = true ∧
      ([.frcp (alu { zv with sb := .zero } .f32 0), .frsq (alu { zv with sb := .zero } .f16 0), .fsqrt (alu { zv with sb := .zero } .f32 0),
        .fexp2 (alu { zv with sb := .zero } .f32 0), .flog2 (alu { zv with sb := .zero } .f32 0), .fsint (alu { zv with sb := .zero } .f32 0),
        .fcost (alu { zv with sb := .zero } .f32 0)] : List Instr).all (fun i =>
          opens (at_ i) i { zv with sb := .zero } (formSpecialOps (alu { zv with sb := .zero } .f32 0) false) false .user (some_ zv)) = true ∧
      opens (at_ (.fdiv (alu zv .f32 0))) (.fdiv (alu zv .f32 0)) zv (formSpecialOps (alu zv .f32 0) true) false .user (some_ zv) = true := by
  decide

/-- Numbers, types and frames that the statements on values speak of. -/
theorem test_witness_values :
    ((0 : Nat) < 8 ∧ (255 : Nat) < 2 ^ 8 ∧ (7 : Nat) < 8 ∧ (9 : Nat) ≥ 8 ∧ (1 : Nat) < 2 ∧ fmt32 ∈ [fmt32, fmt16, fmtB16] ∧ fmtE4M3 ∈
      [fmt32, fmt16, fmtB16, fmtE4M3, fmtE5M2] ∧ 0x7F800000 < 2 * fmt32.signBit ∧ 0x7FC00000 % fmt32.signBit > (2 ^ fmt32.eb - 1) * 2 ^ fmt32.fb ∧
      (0x3FC00000 : Nat) % fmt32.signBit < (2 ^ fmt32.eb - 1) * 2 ^ fmt32.fb ∧ Ty.i16 ∈ [Ty.i8, .i16, .i32, .i64, .n8, .n16, .n32, .n64] ∧
      intVal .i16 0x8000 = -(2 : Int) ^ 15 ∧ intVal .i16 0xFFFF = -1 ∧ (List.range 32).Nodup ∧ (List.range 32).Pairwise (· < ·)) := by decide

theorem test_witness_plies :
    (match (at_ (.nop z0)).openFrame with
      | .ok fr => [4, 8, 16, 32].contains fr.k.ply && !(fr.active z0 (List.range 32)).isEmpty && (alu zv .b32 0).sf == false
      | .error _ => false) = true := by decide

/-! ## Witnesses: traps, control and system registers -/

/-- The placed panel with a traps word, and its skein changed. -/
def withTraps (w : Word) (f : Skein → Skein) (s : State) : State :=
  s.onPanel 1 fun p => { p with kernel := { p.kernel with traps := w } }.onSkein 0 f

theorem test_witness_short :
    (let m := memberIadd (alu zv .i32 0)
     let s := withTraps 1 (fun k => { k with results := [⟨0, 9, [(.v 31 0, 7)], [], 0, false, false, [], 0⟩] }) (at_ (.iadd (alu zv .i32 0)))
     match s.openFrame with
      | .ok fr => !fr.notReady && (fr.staticTrap false .user m.form m.slot m.hi).isNone && !fr.locked m.once m.form m.slot &&
          (fr.shortLanes m.once m.form m.slot).contains 31 && fr.p.halt.isNone && (fr.k.lanes[31]?).any fun a => a.mode == .user
      | .error _ => false) = true := by decide

/-- A global LD and ST whose address is odd. -/
theorem test_witness_misaligned :
    ([(.ld (mem { zv with sb := .zero, lit := 0x1101 } .global .w32), formLoad (mem { zv with sb := .zero, lit := 0x1101 } .global .w32) .base),
      (.st (mem { z0 with sa := .v 0, sb := .v 2, lit := 0x1101 } .global .w32), { a := .base, b := datumKind .w32 })] : List (Instr × Form)).all
      (fun x => opens (at_ x.1) x.1 (x.1.slot?.getD z0) x.2 false .user fun fr => fr.actives (x.1.slot?.getD z0) == List.range 32 &&
        (List.range 32).all fun j => fr.addr (mem (x.1.slot?.getD z0) .global .w32) 32 j % 4 != 0) = true := by decide

/-- A scratchpad access whose address is the lane's number of bytes, odd in lane 1 alone among the first two; and a scalar one at 0x101. -/
theorem test_witness_mixed :
    ([(.ld (mem { zv with sb := .zero, lit := 0x100 } .panel .w16), formLoad (mem { zv with sb := .zero, lit := 0x100 } .panel .w16) (baseKind .panel), false, AccessKind.read),
      (.st (mem { z0 with sa := .v 0, sb := .v 2, lit := 0x100 } .panel .w16), { a := baseKind .panel, b := datumKind .w16 }, false, .write),
      (.ld (mem { z0 with dst := .s 4, lit := 0x101 } .panel .w16), formLoad (mem { z0 with dst := .s 4, lit := 0x101 } .panel .w16) (baseKind .panel), true, .read)] :
      List (Instr × Form × Bool × AccessKind)).all (fun x =>
      let z := x.1.slot?.getD z0
      let m := mem z .panel .w16
      let s := onSk (fun k => { k with lanes := k.lanes.zipIdx.map fun (y : Lane × Nat) => { y.1 with v := [(0, BitVec.ofNat 32 y.2)] } }) (at_ x.1)
      opens s x.1 z x.2.1 x.2.2.1 .user fun fr => actsOnce z == x.2.2.1 && fr.p.halt.isNone && !relWaits m fr s &&
        ((fr.actives z).all fun i => match s.reach fr .panel .skein x.2.2.2 (fr.addr m 32 i) 2 with
          | .machineCheck | .unbacked | .miss _ => false
          | _ => true) && (fr.actives z).contains 1 && fr.lanes.contains 1 &&
        (if x.2.2.1 then fr.addr m 32 (fr.leader z) % 2 == 1 else fr.addr m 32 1 % 2 == 1 && fr.addr m 32 0 % 2 == 0)) = true := by decide

theorem test_witness_privileged :
    ([.tret z0, .tlbiVa z0, .ctxsave z0, .swr { z0 with lit := 0x400 }, .srd { z0 with lit := 0x400 }] : List Instr).all (fun i => i.wf &&
      match (at_ i).openFrame with | .ok fr => !fr.notReady && fr.mode == .user | .error _ => false) = true ∧
    (regRow 0x400).any (fun r => r.write != .user && r.write != .never && r.read != .user && r.read != .never) = true := by decide

/-- Each case of TrapEntryFollowsTakeTrap, at the modes where the cases meet. -/
theorem test_witness_routes :
    (route .user .illop == some .supervisor && route .supervisor .syscall == some .supervisor &&
      nestOfS (SaveSet.mk 0 0 0 0).status == false && nestOfS (SaveSet.mk 0 0 0 2).status && route .user .hcall == some .hypervisor &&
      route .hypervisor .illop == some .hypervisor && nestOfH (SaveSet.mk 0 0 0 0).status == false && nestOfH (SaveSet.mk 0 0 0 4).status) = true := by decide

theorem test_witness_calls :
    ([.syscall z0, .hcall z0, .bkpt z0, .bra z0, .exit z0, .park z0, .yield z0, .nop z0, .setfp z0 ⟨true, true, true, 1⟩] : List Instr).all
      (fun i => opens (at_ i) i z0 {} false .user fun fr => fr.lanes == List.range 32 && decide (fr.k.step = 0) && fr.p.halt.isNone &&
        fr.k.lanes.all fun a => a.mode == .user && !a.exited) = true ∧
    opens (at_ (.syscall { z0 with pred := 1 })) (.syscall { z0 with pred := 1 }) { z0 with pred := 1 } {} false .user
      (fun fr => !predOn { z0 with pred := 1 } fr.k 0) = true := by decide

theorem test_witness_tret :
    ([Mode.supervisor, .hypervisor].all fun m => opens (inMode m (at_ (.tret z0))) (.tret z0) z0 {} false .supervisor fun fr =>
      fr.lanes == List.range 32 && fr.k.reads.isNone && predOn z0 fr.k 0 && fr.k.lanes.all fun a => a.mode == m && !a.exited) = true := by decide

theorem test_witness_branches :
    (opens (at_ (.brx { z0 with sa := .s 2 })) (.brx { z0 with sa := .s 2 }) { z0 with sa := .s 2 } { a := .jump } false .user
        (fun fr => predOn z0 fr.k 0) &&
      opens (at_ (.ret { z0 with sa := .v 2 })) (.ret { z0 with sa := .v 2 }) { z0 with sa := .v 2 } { a := .jump } false .user
        (fun fr => predOn z0 fr.k 0) &&
      opens (at_ (.call { z0 with dst := .v 2 })) (.call { z0 with dst := .v 2 }) { z0 with dst := .v 2 } { dst := .link } false .user
        (fun fr => predOn z0 fr.k 0) &&
      opens (at_ (.callx { z0 with dst := .s 4, sa := .s 2 })) (.callx { z0 with dst := .s 4, sa := .s 2 })
        { z0 with dst := .s 4, sa := .s 2 } { dst := .link, a := .jump } false .user (fun fr => predOn z0 fr.k 0)) = true := by decide

theorem test_witness_reads :
    (opens (at_ (.srd { z0 with dst := .v 6, lit := 0x101 })) (.srd { z0 with dst := .v 6, lit := 0x101 }) { z0 with dst := .v 6, lit := 0x101 }
        { dst := srdDst 0x101 } (srdOnce { z0 with dst := .v 6, lit := 0x101 }) .user (fun fr =>
          !(at_ (.srd { z0 with dst := .v 6, lit := 0x101 })).flagsPending fr && (regRow 0x101).any fun r => r.read == .user) &&
      opens (inMode .supervisor (at_ (.srdElem { z0 with dst := .s 6, sb := .s 1, lit := 0x020 })))
        (.srdElem { z0 with dst := .s 6, sb := .s 1, lit := 0x020 }) { z0 with dst := .s 6, sb := .s 1, lit := 0x020 }
        { dst := .late64, b := .scalar } (srdOnce { z0 with dst := .s 6, sb := .s 1, lit := 0x020 }) .supervisor (fun fr =>
          some_ z0 fr && decide ((fr.read32 z0 (fr.leader z0) (.s 1)).toNat < 32))) = true := by decide

/-- A register write in a mode: its gate is open for some register row. -/
def writeOpens (m : Mode) (i : Instr) (f : Form) (once : Bool) (p : Frame → Bool) : Bool :=
  let z := i.slot?.getD z0
  (regRow z.regNumber).any fun r => opens (inMode m (at_ i)) i z f once r.write fun fr => some_ z fr && p fr

theorem test_witness_writes :
    (writeOpens .hypervisor (.swr { z0 with sa := .s 2, lit := 0x403 }) { a := swrSrc 0x403 } (regScope 0x403 != .lane)
        (fun fr => regScope 0x403 != .lane && !sysIllegal ((at_ (.nop z0)).func 0) 0x403 (fr.read z0 (fr.leader z0) (.s 2) (regWide 0x403) false)) &&
      writeOpens .user (.swrFpmode { z0 with sa := .s 2, lit := 0x100 }) { a := swrSrc 0x100 } true (fun _ => true) &&
      writeOpens .user (.swrFpflags { z0 with sa := .s 2, lit := 0x101 }) { a := swrSrc 0x101 } true (fun _ => true) &&
      writeOpens .supervisor (.swrVpc { z0 with sa := .v 2, lit := 0x020 }) { a := swrSrc 0x020 } false (fun _ => true) &&
      writeOpens .supervisor (.swrElemVpc { z0 with sa := .s 2, sb := .s 1, lit := 0x020 }) { a := .pairNoLit, b := .scalar } true (fun fr =>
        decide ((fr.read32 z0 (fr.leader z0) (.s 1)).toNat < 32)) &&
      writeOpens .hypervisor (.swrPanelPreq { z0 with sa := .s 2, lit := 0x200 }) { a := swrSrc 0x200 } true (fun _ => true)) = true := by
  decide

theorem test_witness_writes_lane :
    ((List.range 16).any fun n => (regRow n).any fun r => regScope n == .lane && r.write != .never &&
        writeOpens .hypervisor (.swr { z0 with sa := .v 2, lit := BitVec.ofNat 32 n }) { a := swrSrc n } (regScope n != .lane) fun _ => true) = true ∧
      (writeOpens .hypervisor (.swr { z0 with sa := .s 2, lit := 0x201 }) { a := swrSrc 0x201 } true fun fr =>
        sysIllegal ((at_ (.nop z0)).func 0) 0x201 (fr.read z0 (fr.leader z0) (.s 2) false false)) = true := by decide

theorem test_witness_tlbi :
    (opens (inMode .supervisor (at_ (.tlbiVa { z0 with sa := .s 2, sb := .s 4 }))) (.tlbiVa { z0 with sa := .s 2, sb := .s 4 })
        { z0 with sa := .s 2, sb := .s 4 } formTlbiRange true .supervisor (some_ z0) &&
      opens (inMode .supervisor (at_ (.tlbiAll z0))) (.tlbiAll z0) z0 {} true .supervisor (fun fr => some_ z0 fr &&
        !(at_ (.tlbiAll z0)).releaseWaits fr.p.core .device &&
        !((inMode .supervisor (at_ (.tlbiAll z0))).sweep fr.p.fn .firstAll).drainWaits fr.p.fn .firstAll) &&
      opens (onSk (fun k => { k with s := [(4, 1)] }) (inMode .hypervisor (at_ (.htlbiIpa { z0 with sa := .s 2, sb := .s 4 }))))
        (.htlbiIpa { z0 with sa := .s 2, sb := .s 4 }) { z0 with sa := .s 2, sb := .s 4 } formTlbiRange true .hypervisor
        (fun fr => some_ z0 fr && (fr.read32 z0 (fr.leader z0) (.s 4)).toNat == 1) &&
      opens (inMode .hypervisor (at_ (.htlbiAll z0))) (.htlbiAll z0) z0 {} true .hypervisor (some_ z0) &&
      opens (inMode .supervisor (at_ (.tlbiProbe { z0 with sa := .s 2, sb := .s 4 }))) (.tlbiProbe { z0 with sa := .s 2, sb := .s 4 })
        { z0 with sa := .s 2, sb := .s 4 } formTlbiRange true .supervisor (fun fr =>
          (fr.read32 z0 (fr.leader z0) (.s 4)).toNat == 0 && decide (16 ≤ fr.p.kernel.scratch) &&
          match (walkBoth ((at_ (.nop z0)).walkEnv fr.p.fn (dieOf fr.p.core) false) ((at_ (.nop z0)).func fr.p.fn).root1.toNat
            ((at_ (.nop z0)).func fr.p.fn).root2.toNat 0).2 with | .error w => w.kind != 6 | _ => true)) = true := by decide

/-- A placed instruction in hypervisor mode with s2 naming an address whose page the core's TLB maps. -/
def inHyp (i : Instr) : State := onSk (fun k => { k with s := [(2, 0x8000)] }) (inMode .hypervisor
  { at_ i with tlbs := [⟨0, 0, .combined wordPage⟩, ⟨0, 0, .combined ⟨0x8000, 2 ^ 21, 0x200000, true, true, true, 4⟩⟩] })

theorem test_witness_context :
    (opens (inHyp (.ctxsave { z0 with sa := .s 2 })) (.ctxsave { z0 with sa := .s 2 }) { z0 with sa := .s 2 } { a := .scalarPair } true
        .hypervisor (fun fr => some_ z0 fr && !(at_ (.nop z0)).panelBusy fr.p && fr.read z0 (fr.leader z0) (.s 2) true false == 0x8000 &&
          match (inHyp (.ctxsave { z0 with sa := .s 2 })).pagesOf fr .write 0x8000 ((at_ (.nop z0)).areaOf fr.p / 4096) with
          | .ok ps => !ps.isEmpty && !(at_ (.nop z0)).releaseWaits fr.p.core .device
          | _ => false) &&
      opens (inHyp (.ctxload { z0 with sa := .s 2 })) (.ctxload { z0 with sa := .s 2 }) { z0 with sa := .s 2 } { a := .scalarPair } true
        .hypervisor (fun fr => some_ z0 fr &&
          let t : State := { inHyp (.ctxload { z0 with sa := .s 2 }) with
            mem := Bytes.fields [] 0x200000 ((0, 4, 0x58544350) :: (4, 2, 1) :: fr.p.shape) }
          match t.pagesOf fr .read 0x8000 1 with
          | .ok first => (match t.pagesOf fr .read 0x8000 (loadArea fr t first / 4096) with
            | .ok ps => fr.p.fits (gatherPages t.mem ps)
            | _ => false)
          | _ => false) &&
      opens (at_ (.tevt { z0 with sa := .v 2, lit := 7 })) (.tevt { z0 with sa := .v 2, lit := 7 }) { z0 with sa := .v 2, lit := 7 }
        { a := .noLit } true .user (some_ z0)) = true := by decide

theorem test_witness_barriers :
    (opens (at_ (.plyset (alu { z0 with lit := 8 } .b32 0))) (.plyset (alu { z0 with lit := 8 } .b32 0)) { z0 with lit := 8 } {} false .user
        (some_ z0) &&
      opens (at_ (.barArv (alu { z0 with sa := .lit, sb := .lit, lit := 0x10020 } .b32 0)))
        (.barArv (alu { z0 with sa := .lit, sb := .lit, lit := 0x10020 } .b32 0)) { z0 with sa := .lit, sb := .lit, lit := 0x10020 }
        { a := .scalarOrLit, b := .scalarOrLit } true .user (fun fr => fr.barNumber { z0 with sa := .lit, sb := .lit, lit := 0x10020 } == 1 &&
          match fr.p.arrive fr.kx (fr.barNumber { z0 with sa := .lit, sb := .lit, lit := 0x10020 }) (fr.barCount { z0 with sa := .lit, sb := .lit, lit := 0x10020 }) (fr.actives z0).length fr.cycle with
          | .ok _ => fr.p.barAllowed 1 && !(at_ (.nop z0)).rmwFlying fr.p.id fr.kx | _ => false) &&
      opens (at_ (.barWait (alu { z0 with sa := .lit, lit := 1 } .b32 1))) (.barWait (alu { z0 with sa := .lit, lit := 1 } .b32 1))
        { z0 with sa := .lit, lit := 1 } { a := .scalarOrLit, b := .unused } true .user
        (fun fr => fr.p.barAllowed (fr.barNumber { z0 with sa := .lit, lit := 1 })) &&
      opens (at_ (.barSync (alu { z0 with sa := .lit, sb := .lit, lit := 0x10020 } .b32 2)))
        (.barSync (alu { z0 with sa := .lit, sb := .lit, lit := 0x10020 } .b32 2)) { z0 with sa := .lit, sb := .lit, lit := 0x10020 }
        { a := .scalarOrLit, b := .scalarOrLit } true .user (fun fr => fr.barNumber { z0 with sa := .lit, sb := .lit, lit := 0x10020 } == 1 &&
          match fr.p.arrive fr.kx (fr.barNumber { z0 with sa := .lit, sb := .lit, lit := 0x10020 }) (fr.barCount { z0 with sa := .lit, sb := .lit, lit := 0x10020 }) (fr.actives z0).length fr.cycle with
          | .ok _ => fr.p.barAllowed 1 | _ => false)) = true := by decide

/-! ## Witnesses: memory -/

/-- A memory instruction's gate is open and every lane's access may be made, without a wait. -/
def accesses (i : Instr) (m : Mem) (f : Form) (once : Bool) (s : State) (reach : State → Frame → Nat → Reach) : Bool :=
  opens s i m.slot f once .user fun fr => let rs := fr.actors m.slot once fr.lanes
    !rs.isEmpty && !relWaits m fr s && rs.all fun l => (reach s fr l).made

/-- The reach of a plain access. -/
def plain (m : Mem) (k : AccessKind) (w : Nat) (s : State) (fr : Frame) (l : Nat) : Reach :=
  s.reach fr m.space m.scope k (fr.addr m w l) (sizeBytes m.size)

/-- The placed panel with the operand buffer reserved as handle 0. -/
def reserved (s : State) : State := s.onPanel 1 fun p => { p with resv := [(0, (1#128 <<< 28) ||| (1#128 <<< 9))] }

theorem test_witness_record : (resvValid ((wordPanel 1 0).record 0) == false &&
    ((reserved (at_ (.nop z0))).panel? 1).any fun p => resvValid (p.record 0) && decide (16 ≤ resvLen (p.record 0))) = true := by decide

theorem test_witness_accesses :
    (accesses (.ld (mem { zv with sb := .zero, lit := 0x1100 } .global .w64)) (mem { zv with sb := .zero, lit := 0x1100 } .global .w64)
        (formLoad (mem { zv with sb := .zero, lit := 0x1100 } .global .w64) .base) (actsOnce { zv with sb := .zero, lit := 0x1100 })
        (at_ (.ld (mem { zv with sb := .zero, lit := 0x1100 } .global .w64)))
        (plain (mem { zv with sb := .zero, lit := 0x1100 } .global .w64) .read 32) &&
      accesses (.st (mem { z0 with sa := .v 0, sb := .v 2, lit := 0x1FFC } .global .w32)) (mem { z0 with sa := .v 0, sb := .v 2, lit := 0x1FFC } .global .w32)
        { a := .base, b := datumKind .w32 } false (at_ (.st (mem { z0 with sa := .v 0, sb := .v 2, lit := 0x1FFC } .global .w32)))
        (plain (mem { z0 with sa := .v 0, sb := .v 2, lit := 0x1FFC } .global .w32) .write 32) &&
      accesses (.st (mem { z0 with sa := .v 0, sb := .v 2, lit := 0xFFFC } .panel .w32)) (mem { z0 with sa := .v 0, sb := .v 2, lit := 0xFFFC } .panel .w32)
        { a := baseKind .panel, b := datumKind .w32 } false (at_ (.st (mem { z0 with sa := .v 0, sb := .v 2, lit := 0xFFFC } .panel .w32)))
        (plain (mem { z0 with sa := .v 0, sb := .v 2, lit := 0xFFFC } .panel .w32) .write 32)) = true := by decide

theorem test_witness_atomics :
    (accesses (.atom (mem { zv with sa := .v 0, sb := .v 2, lit := 0x1100 } .global .w32)) (mem { zv with sa := .v 0, sb := .v 2, lit := 0x1100 } .global .w32)
        { dst := .load 1 true, a := .base, b := datumKind .w32 } (actsOnce { zv with sa := .v 0, sb := .v 2, lit := 0x1100 })
        (at_ (.atom (mem { zv with sa := .v 0, sb := .v 2, lit := 0x1100 } .global .w32)))
        (plain (mem { zv with sa := .v 0, sb := .v 2, lit := 0x1100 } .global .w32) .write 30) &&
      accesses (.red (mem { z0 with sa := .v 0, sb := .v 2, lit := 0x100 } .panel .w32)) (mem { z0 with sa := .v 0, sb := .v 2, lit := 0x100 } .panel .w32)
        { a := baseKind .panel, b := datumKind .w32 } (actsOnce { z0 with sa := .v 0, sb := .v 2, lit := 0x100 })
        (at_ (.red (mem { z0 with sa := .v 0, sb := .v 2, lit := 0x100 } .panel .w32)))
        (plain (mem { z0 with sa := .v 0, sb := .v 2, lit := 0x100 } .panel .w32) .write 30) &&
      accesses (.cas (mem { zv with sa := .v 0, sb := .v 2, sc := .v 6, lit := 0x1100 } .global .w32))
        (mem { zv with sa := .v 0, sb := .v 2, sc := .v 6, lit := 0x1100 } .global .w32)
        { dst := .load 1 true, a := .base, b := datumKind .w32, c := datumKind .w32 } (actsOnce { zv with sa := .v 0, sb := .v 2, sc := .v 6, lit := 0x1100 })
        (at_ (.cas (mem { zv with sa := .v 0, sb := .v 2, sc := .v 6, lit := 0x1100 } .global .w32)))
        (plain (mem { zv with sa := .v 0, sb := .v 2, sc := .v 6, lit := 0x1100 } .global .w32) .write 30) &&
      accesses (.cwb (mem { z0 with sa := .v 0, lit := 0x1100 } .global .w8)) (mem { z0 with sa := .v 0, lit := 0x1100 } .global .w8)
        { a := .base } false (at_ (.cwb (mem { z0 with sa := .v 0, lit := 0x1100 } .global .w8)))
        (fun s fr l => s.reach fr .global .skein .write (fr.addr (mem { z0 with sa := .v 0, lit := 0x1100 } .global .w8) 32 l) 1)) = true := by
  decide

theorem test_witness_opbuf :
    (accesses (.obld (mem { z0 with dst := .v 4, sa := .v 0, lit := 0xFC } .opbuf .w32)) (mem { z0 with dst := .v 4, sa := .v 0, lit := 0xFC } .opbuf .w32)
        (formLoad (mem { z0 with dst := .v 4, sa := .v 0, lit := 0xFC } .opbuf .w32) .noLit) (actsOnce { z0 with dst := .v 4, sa := .v 0, lit := 0xFC })
        (reserved (at_ (.obld (mem { z0 with dst := .v 4, sa := .v 0, lit := 0xFC } .opbuf .w32))))
        (fun _ fr l => fr.reachOpbuf 0 (fr.obOffset (mem { z0 with sa := .v 0, lit := 0xFC } .opbuf .w32) l) 4) &&
      accesses (.obst (mem { z0 with sa := .v 0, sb := .v 2, lit := 0xFC } .opbuf .w32)) (mem { z0 with sa := .v 0, sb := .v 2, lit := 0xFC } .opbuf .w32)
        { a := .noLit, b := datumKind .w32 } false
        (reserved (at_ (.obst (mem { z0 with sa := .v 0, sb := .v 2, lit := 0xFC } .opbuf .w32))))
        (fun _ fr l => fr.reachOpbuf 0 (fr.obOffset (mem { z0 with sa := .v 0, lit := 0xFC } .opbuf .w32) l) 4)) = true := by decide

/-- A memory barrier object at 0x100 of the panel scratchpad. -/
theorem test_witness_objects :
    ([(.mbi (mem { z0 with sa := .s 1, sb := .s 2, lit := 0x100 } .panel .w8), { a := .scalarOrZero, b := .scalarOrZero }),
      (.mba (mem { z0 with sa := .s 1, sb := .s 2, lit := 0x100 } .panel .w8), { a := .scalarOrZero, b := .scalarOrZero }),
      (.mbt (mem { z0 with sa := .s 1, dst := .s 4, lit := 0x100 } .panel .w8), { dst := .lateScalar, a := .scalarOrZero }),
      (.mbw (mem { z0 with sa := .s 1, sb := .s 2, lit := 0x100 } .panel .w8), { a := .scalarOrZero, b := .scalarOrZero })] : List (Instr × Form)).all
      (fun x => accesses x.1 (mem (x.1.slot?.getD z0) .panel .w8) x.2 true (at_ x.1) fun s fr l =>
        reachObj (mem (x.1.slot?.getD z0) .panel .w8) fr s l) = true ∧ (at_ (.nop z0)).sickObj 1 0x100 = false := by decide

/-- An access on its way, alone. -/
def flying (op : HomeOp) : State :=
  { at_ (.nop z0) with inflight := [{ id := 7, panel := 1, skein := 0, core := 0, fn := 0, va := 0, page := (0, 4096), pa := 0x100, op := op }] }

theorem test_witness_home :
    ([HomeOp.store [1, 2] false, .rmw (.atom 0 0) 4 1 0 (some ⟨1, 0, 0, 0, [.v 0 4]⟩)].all fun op =>
      ((flying op).inflight.find? fun b => b.id == 7).any fun a => (flying op).oldest a) = true ∧
    (flying (.store [1, 2] false)).inflight.all (fun a => a.pa % 32 + 2 ≤ 32 && match a.op with | .store _ _ => true | _ => false) = true := by decide

/-- A global LD with no copy of its sectors and nothing of its core on its way. -/
theorem test_witness_load :
    (let m := mem { zv with sb := .zero, lit := 0x1100 } .global .w16
     let s := at_ (.ld m)
     opens s (.ld m) m.slot (formLoad m .base) (actsOnce m.slot) .user fun fr => decide (fr.k.step = 0) && s.inflight.isEmpty && s.copies.isEmpty &&
      !(fr.actors m.slot (actsOnce m.slot) fr.lanes).isEmpty && (fr.actors m.slot (actsOnce m.slot) fr.lanes).all fun l =>
        match s.reach fr .global m.scope .read (fr.addr m 32 l) 2 with | .phys _ pa _ => decide (pa % 32 + 2 ≤ 32) | _ => false) = true := by decide

/-- A step of a scratchpad atomic. -/
theorem test_witness_atom_step :
    ((at_ (.nop z0)).panel? 1).isSome ∧ (at_ (.nop z0)).rays = [] ∧
      (⟨7, 1, 0, 0, 0, .scratch 1 0x100, .atom 0 0, 4, 1, 0, none, none⟩ : AtomStep).place = .scratch 1 0x100 := by decide

/-- A CWB on its way, alone. -/
theorem test_witness_cwb :
    (({ at_ (.nop z0) with writeBacks := [⟨3, 1, 0, 0, 0, 0x1000, (0x1000, 4096), 32⟩] } : State).writeBacks.find? fun w => w.id == 3).isSome = true := by
  decide

theorem test_witness_caches :
    (opens (at_ (.fence { mem z0 .global .w8 with ord := .acqRel, scope := .device })) (.fence { mem z0 .global .w8 with ord := .acqRel, scope := .device })
        z0 {} false .user (fun fr => some_ z0 fr && !((at_ (.nop z0)).func fr.p.fn).scopeDenied .cluster &&
          !relWaits { mem z0 .global .w8 with ord := .acqRel, scope := .device } fr (at_ (.nop z0)) &&
          !fenceWaits { mem z0 .global .w8 with ord := .acqRel, scope := .device } fr (at_ (.nop z0))) &&
      opens (at_ (.cinvLine (mem { z0 with sa := .v 0, lit := 0x1100 } .global .w8))) (.cinvLine (mem { z0 with sa := .v 0, lit := 0x1100 } .global .w8))
        { z0 with sa := .v 0, lit := 0x1100 } { a := .base } false .user (some_ z0) &&
      opens (at_ (.cinvAll { mem z0 .global .w8 with msub := 1 })) (.cinvAll { mem z0 .global .w8 with msub := 1 }) z0 {} false .user (some_ z0) &&
      opens (at_ (.pref (mem { z0 with sa := .v 0, lit := 0x1100 } .global .w8))) (.pref (mem { z0 with sa := .v 0, lit := 0x1100 } .global .w8))
        { z0 with sa := .v 0, lit := 0x1100 } { a := .base } false .user (some_ z0) &&
      opens (onSk (fun k => { k with s := [(4, 512)] }) (at_ (.obres (mem { z0 with sa := .s 4, lit := 15 } .global .w8))))
        (.obres (mem { z0 with sa := .s 4, lit := 15 } .global .w8)) { z0 with sa := .s 4, lit := 15 } { a := .scalarQuad } true .user
        (fun fr => (obresFails fr.p 15 ((1#128 <<< 28) ||| (1#128 <<< 9))).isNone && (obresFails fr.p 15 (1#128 <<< 28)).isSome) &&
      opens (at_ (.obrel (mem { z0 with lit := 15 } .global .w8))) (.obrel (mem { z0 with lit := 15 } .global .w8)) { z0 with lit := 15 } {} true
        .user (fun fr => some_ z0 fr && !(at_ (.nop z0)).handleBusy fr.p.id 15)) = true := by decide

/-! ## Witnesses: work in a panel, copies, transforms and the matrix array -/

/-- Fields written into the placed panel's scratchpad. -/
def filled (xs : List (Nat × Nat × Nat)) (s : State) : State := s.onPanel 1 fun p => { p with scratch := Bytes.fields [] 0 xs }
/-- Scalar registers of the placed skein. -/
def scalars (r : Regs) (s : State) : State := onSk (fun k => { k with s := r }) s

/-- The placed panel as rank 0 of a gang of one with one pipe of depth 2 and one word an entry. -/
def ganged (pushes pops : List PipeWait) (entries : List (List Word)) (s : State) : State :=
  { s.onPanel 1 (fun p => { p with gang := some ⟨5, 0, [1], [0]⟩, kernel := { p.kernel with pipes := 1 } }) with
    rings := [⟨5, 0, 0, 0, 1, 0, entries, pushes, pops⟩] }

theorem test_witness_pipes :
    (opens (at_ (.rngnext (mem { z0 with dst := .s 8 } .global .w8))) (.rngnext (mem { z0 with dst := .s 8 } .global .w8)) { z0 with dst := .s 8 }
        { dst := .span } true .user (some_ z0) &&
      opens (ganged [] [] [] (at_ (.pipepush (mem { z0 with sa := .v 1 } .global .w8)))) (.pipepush (mem { z0 with sa := .v 1 } .global .w8))
        { z0 with sa := .v 1 } { a := .vregs 1 } false .user (fun fr => some_ z0 fr && decide (0 < fr.p.kernel.pipes) &&
          ((ganged [] [] [] (at_ (.nop z0))).panelRing fr.p 0).isSome && !(at_ (.nop z0)).releaseWaits fr.p.core .cluster) &&
      opens (ganged [] [] [] (at_ (.pipepop (mem { z0 with dst := .v 1 } .global .w8)))) (.pipepop (mem { z0 with dst := .v 1 } .global .w8))
        { z0 with dst := .v 1 } { dst := .vregs 1 1 false } false .user (some_ z0) &&
      ((ganged [⟨1, 0, [0, 1], [[1], [2]], 0⟩] [] [] (at_ (.nop z0))).ring? 5 0).any (fun r => decide (r.entries.length + 2 ≤ 2 ^ r.dep)) &&
      ((ganged [⟨1, 0, [0, 1], [[1], [2]], 0⟩] [⟨1, 0, [2], [], 7⟩] [[3]] (at_ (.nop z0))).ring? 5 0).any (fun r =>
        decide (2 ^ r.dep < r.entries.length + 2) && decide (1 ≤ r.entries.length))) = true ∧
      (let p := { wordPanel 1 0 with range := some ⟨0, 10, 4⟩ }; p.range = some ⟨0, 10, 4⟩ ∧ (0 : Nat) < 4) := by decide

/-- CPY of 32 bytes from 0x100 to 0x200 of the scratchpad on channel 3, and to an address that is not canonical. -/
def cpyState (m : CopyMod) : State :=
  scalars [(2, 0x100), (4, 0x200), (5, if m.dsp = .global then 0xF0000000 else 0), (6, 32)] (at_ (.cpy { z0 with sa := .s 2, sb := .s 4, sc := .s 6 } m))

theorem test_witness_copy :
    ([⟨.panel, .panel, .linear, 3, .none, .none⟩, ⟨.panel, .global, .linear, 3, .none, .none⟩] : List CopyMod).all (fun m =>
      opens (cpyState m) (.cpy { z0 with sa := .s 2, sb := .s 4, sc := .s 6 } m) { z0 with sa := .s 2, sb := .s 4, sc := .s 6 } (formCpy m) true
        .user fun fr => some_ z0 fr && (fr.copyBad { z0 with sa := .s 2, sb := .s 4, sc := .s 6 } m).isNone && (match (cpyState m).copySides fr { z0 with sa := .s 2, sb := .s 4, sc := .s 6 } m with
          | .ok (pl, _) => !pl.pastFirmware | .error _ => false) &&
          next (exec (.cpy { z0 with sa := .s 2, sb := .s 4, sc := .s 6 } m) (cpyState m)) fun t => (t.copiesOf 1 3).all fun o =>
            match (t.flushCore 0).copyStep fr.p o with
            | .ok _ => m.dsp == .panel
            | .error (.fault _) => m.dsp == .global
            | _ => false) = true := by decide

theorem test_witness_channels :
    ([.cptrPtr { z0 with dst := .s 4 } 3, .cptrTail { z0 with dst := .s 4 } 3, .cptrFadr { z0 with dst := .s 4 } 3] : List Instr).all (fun i =>
        opens (at_ i) i { z0 with dst := .s 4 } { dst := .lateScalar64 } true .user (some_ z0)) = true ∧
      opens (at_ (.cptrRst z0 3)) (.cptrRst z0 3) z0 {} true .user (fun fr => ((at_ (.nop z0)).copiesOf fr.p.id 3).isEmpty) = true ∧
      ([(0 : Word), 5].all fun v => opens (scalars [(2, v)] (at_ (.cpwait { z0 with sa := .s 2 } .skein 3))) (.cpwait { z0 with sa := .s 2 } .skein 3)
        { z0 with sa := .s 2 } { a := .scalarPair } true .user fun fr => some_ z0 fr && !((at_ (.nop z0)).func fr.p.fn).scopeDenied .skein &&
          (decide ((fr.read z0 (fr.leader z0) (.s 2) true false).toNat ≤ (fr.p.chan 3).ptr) == (v == 0))) = true := by decide

/-- Two tensor records: one row of 16 FP32 numbers at 0x1000, and of 16 FP16 numbers at 0x2000. -/
def tensors (s : State) : State := filled [(0, 8, 0x1000), (40, 4, 1), (44, 4, 16), (48, 4, 64), (56, 1, 1), (57, 1, 0x20),
  (64, 8, 0x2000), (104, 4, 1), (108, 4, 16), (112, 4, 64), (120, 1, 2), (121, 1, 0x20)] (scalars [(2, 0x10000)] s)

theorem test_witness_transform :
    (let i : Instr := .xfm { z0 with sa := .s 2 } ⟨6, .captured, false, .none⟩
     opens (tensors (at_ i)) i { z0 with sa := .s 2 } (formXfm ⟨6, .captured, false, .none⟩) true .user fun fr => some_ z0 fr &&
      ((tensors (at_ i)).xfmBad fr { z0 with sa := .s 2 } ⟨6, .captured, false, .none⟩).isNone && (match (tensors (at_ i)).xfmStart fr { z0 with sa := .s 2 } ⟨6, .captured, false, .none⟩ with | .ok _ => true | _ => false) &&
      next (exec i (tensors (at_ i))) fun t => (t.xfms.find? fun o => clusterOf o.core == 0).any fun o => (t.panel? o.panel).any fun p =>
        (XfmRun.go (t.flushCore o.core) p o (o.dst.pieces 0 (o.dst.bytes + 1)) ⟨t, 0, 0, [], none⟩).2.isNone) = true ∧
      opens (at_ (.qnt { zv with sb := .zero, lit := 10 } ⟨.f32, .rne⟩)) (.qnt { zv with sb := .zero, lit := 10 } ⟨.f32, .rne⟩)
        { zv with sb := .zero, lit := 10 } { dst := .vregs 1 1 false, a := .vregs 1 } false .user (fun fr => decide (fr.k.ply = 32)) = true ∧
      opens (at_ (.dqnt { zv with sb := .zero, lit := 10 } ⟨.f32, .rne⟩)) (.dqnt { zv with sb := .zero, lit := 10 } ⟨.f32, .rne⟩)
        { zv with sb := .zero, lit := 10 } { dst := .vregs 1 1 false, a := .vregs 1 } false .user (some_ z0) = true := by decide

/-- A reservation record: BASE and LEN in KiB and FMT. -/
def resv (base len fmt : Nat) : BitVec 128 := BitVec.ofNat 128 (base + len * 2 ^ 9 + fmt * 2 ^ 18 + 2 ^ 28)

/-- A parameter block at 0 for a 64 by 64 by 32 operation, with FP16 operands in handles 0 and 1, FP32 in 2, entries in 3, counts in 4. -/
def blocks (bh ih : Nat) (s : State) : State :=
  (filled [(1, 1, bh), (2, 1, 2), (3, 1, ih), (4, 2, 64), (6, 2, 64), (8, 2, 32)] s).onPanel 1 fun p =>
    { p with resv := [(0, resv 0 4 2), (1, resv 4 4 2), (2, resv 8 16 1), (3, resv 24 1 0), (4, resv 25 1 9)] }

theorem test_witness_matrix :
    ([(.mma { z0 with sa := .s 2 }, .mma, 1, 0), (.mdist { z0 with sa := .s 2 }, .mdist, 1, 3), (.mcacc { z0 with sa := .s 2 }, .mcacc, 4, 3),
      (.mcfin { z0 with sa := .s 2 }, .mcfin, 4, 3)] : List (Instr × MatKind × Nat × Nat)).all (fun x =>
      opens (blocks x.2.2.1 x.2.2.2 (at_ x.1)) x.1 { z0 with sa := .s 2 } { a := .block } false .user fun fr => some_ z0 fr &&
        match (blocks x.2.2.1 x.2.2.2 (at_ x.1)).blockCheck fr x.2.1 { z0 with sa := .s 2 } 0 with | .ok _ => true | _ => false) = true := by decide

/-- A block with a marked byte. -/
theorem test_witness_sick_block :
    (let s : State := { blocks 1 0 (at_ (.mma { z0 with sa := .s 2 })) with bad := [⟨.scratch 1, 63⟩] }
     opens s (.mma { z0 with sa := .s 2 }) { z0 with sa := .s 2 } { a := .block } false .user fun fr => some_ z0 fr &&
      match s.blockCheck fr .mma { z0 with sa := .s 2 } 0 with | .error (.poison, _) => true | _ => false) = true := by decide

theorem test_witness_mwait :
    (opens (at_ (.mwait { z0 with lit := 47 } 2)) (.mwait { z0 with lit := 47 } 2) { z0 with lit := 47 } {} true .user (fun fr =>
        some_ z0 fr && fr.p.tileCount 2 47 == 0) &&
      opens (at_ (.mwaitH z0 2)) (.mwaitH z0 2) z0 {} true .user (fun fr => (List.range 48).all fun u => fr.p.tileCount 2 u == 0) &&
      opens (at_ (.mwaitAll z0)) (.mwaitAll z0) z0 {} true .user (some_ z0) &&
      opens (blocks 1 0 (at_ (.fbind { z0 with sa := .s 2 } ⟨7, 2⟩))) (.fbind { z0 with sa := .s 2 } ⟨7, 2⟩) { z0 with sa := .s 2 } { a := .scalarOrLit }
        true .user (fun fr => (fbindFails fr.p 2 0 z0).isNone) &&
      opens (at_ (.fbindUnb z0 7)) (.fbindUnb z0 7) z0 {} true .user (some_ z0)) = true := by decide

/-- An operation that is queued on core 0, and started. -/
def queued (kind : MatKind) (started : Bool) : State :=
  { blocks 1 0 (at_ (.nop z0)) with mats := [⟨9, 1, 0, 0, kind, ⟨0, 1, 2, 0, 64, 64, 32, 0, false, false, false, false, false, 0, 0, 0, 0, 0⟩, none,
    true, started, 0, false⟩] }

theorem test_witness_array :
    (((queued .mma false).headMat 0).any fun o => o.counted && ((queued .mma false).die 0).mayStart) = true ∧
      (((queued .mcfin false).headMat 0).any fun o => !o.counted) = true ∧
      ((({ queued .mma false with dies := [{ Die.blank with starts := List.replicate 16 0 }] } : State).die 0).mayStart) = false ∧
      (((queued .mma true).queueOf 0).head?.any fun o => o.started && o.done == 0 && ((queued .mma true).panel? o.panel).any fun p =>
        decide (1 ≤ (stepTiles o.kind p o.blk).length)) = true := by decide

/-! ## Witnesses: geometry, traversal, the swatch cache and collectives -/

/-- A slot for lane 0 alone: it runs where k1 holds 1. -/
def lane0 (z : Slot) : Slot := { z with pred := 1 }
/-- Lane 0 alone is in k1. -/
def only0 (s : State) : State := onSk (fun k => { k with k := [(1, 1)] }) s

theorem test_witness_geometry :
    ([(.snapX { zv with sb := .s 2 }, formSnap), (.snapY { zv with sb := .lit, lit := 0x8000 }, formSnap),
      (.edge { z0 with dst := .v 4, sa := .v 0, sb := .v 2, sc := .v 6 }, { dst := .vregs 2 2 false, a := .vqPair, b := .vqPair, c := .vqPair }),
      (.tricls { z0 with dst := .v 4, sa := .v 0, sb := .v 2, sc := .v 6, lit := 255 } true,
        { dst := .vregs 1 1 false, a := .vqPair, b := .vqPair, c := .vqPair })] : List (Instr × Form)).all
      (fun x => opens (at_ x.1) x.1 (x.1.slot?.getD z0) x.2 false .user (some_ z0)) = true := by decide

/-- A descriptor at 0: a triangle over a 1 by 1 tile at 0x1100, blend mode `mode`. -/
def triangle (mode : Nat) (s : State) : State :=
  filled [(0, 4, 0), (4, 4, 0), (8, 4, 0x400), (12, 4, 0), (16, 4, 0), (20, 4, 0x400), (36, 4, 7), (40, 8, 0x1100), (48, 2, 1), (58, 1, 0x24 + mode),
    (60, 4, 0x100)] s

/-- RAST of lane 0 answers a state with one accepted submission; it arrives; and its fragment may be applied at a mapped page. -/
theorem test_witness_raster_full :
    (let z : Slot := lane0 { z0 with sa := .v 0 }
     let s := triangle 0 (only0 (at_ (.rast z)))
     next (exec (.rast z) s) fun t => opens { s with rastSubs := (t.rastSubs.map fun o => List.replicate 1024 o).flatten } (.rast z) z { a := .noFrag }
       false .user fun fr => decide (1024 ≤ ({ s with rastSubs := (t.rastSubs.map fun o => List.replicate 1024 o).flatten } : State).rastPending
         (clusterOf fr.p.core)) && some_ z fr) = true := by decide

theorem test_witness_raster :
    ([0, 2].all fun mode =>
      let z : Slot := lane0 { z0 with sa := .v 0 }
      let s := triangle mode (only0 (at_ (.rast z)))
      opens s (.rast z) z { a := .noFrag } false .user (fun fr => decide (s.rastPending (clusterOf fr.p.core) < 1024) && (fr.actives z).all fun l =>
        match s.rastCheck fr z l with | .ok _ => true | .error _ => false) &&
      next (exec (.rast z) s) fun t => t.rastSubs.all fun o => clusterOf o.core == 0 && o.accepted && o.arrival.isNone &&
        next (exec (.rastSubmissionArrive 0 o.id) t) fun u => (u.rastSubs.find? fun x => x.id == o.id && clusterOf x.core == 0 && u.rastMay x).any
          fun x => x.nextPixel == some 0 && match u.lookAt x.panel x.fn x.core none (BitVec.ofNat 64 (x.pixelAddr 0)) .write x.mode with
            | .phys _ _ => true | _ => false) = true := by decide

/-- A descriptor with a marked byte. -/
theorem test_witness_sick_triangle :
    (let z : Slot := lane0 { z0 with sa := .v 0 }
     let s : State := { triangle 0 (only0 (at_ (.rast z))) with bad := [⟨.scratch 1, 63⟩] }
     opens s (.rast z) z { a := .noFrag } false .user fun fr => (fr.actives z == [0]) &&
      match s.rastCheck fr z 0 with | .error (.poison, _) => true | _ => false) = true := by decide

/-- A traversal state record at 0: its NEXT word, CTL and an 8-entry stack at 0x400; the kernel declares a depth of one. -/
def ray (next ctl : Nat) (s : State) : State :=
  (filled [(32, 8, next), (56, 4, 7 * 2 ^ 24 + 128), (60, 4, ctl)] s).onPanel 1 fun p => { p with kernel := { p.kernel with traps := 0x10 } }

theorem test_witness_trace :
    (let z : Slot := lane0 { z0 with sa := .v 0 }
     opens (ray (2 ^ 57 + 0x1100) 0 (only0 (at_ (.trace z 0)))) (.trace z 0) z { a := .noFrag } false .user fun fr =>
      (runLanes fr (fr.actives z) (fun s l => s.traceLane fr z l) (ray (2 ^ 57 + 0x1100) 0 (only0 (at_ (.trace z 0))))).2.1.isEmpty &&
        (fr.actives z == [0]) && decide ((fr.k.lane 0).tdepth < fr.p.traceDepth) && !(at_ (.nop z0)).sickRecord fr.p.id 0) = true := by decide

theorem test_witness_resume :
    ([(.tresumeCont (lane0 { z0 with sa := .v 0 }), 0), (.tresumeShort (lane0 { z0 with sa := .v 0, sb := .v 4 }), 1),
      (.tresumeCommit (lane0 { z0 with sa := .v 0, sb := .v 4 }), 2), (.tresumeEnd (lane0 { z0 with sa := .v 0, sb := .v 4 }), 3),
      (.tresumeAbort (lane0 { z0 with sa := .v 0 }), 4)] : List (Instr × Nat)).all (fun x =>
        let z := x.1.slot?.getD z0
        let s := (ray (2 ^ 57 + 0x1100) 4 (only0 (at_ x.1))).onPanel 1 fun p => p.setCand 0 (some [0, 0, 0, 0])
        opens s x.1 z { a := .noFrag, b := if x.2 = 0 ∨ x.2 = 4 then .unused else .vregs 3 } false .user fun fr =>
          (fr.actives z == [0]) && (runLanes fr (fr.actives z) (fun s l => s.resumeLane fr z x.2 l) s).2.1.isEmpty) = true := by decide

theorem test_witness_twait :
    ([1, 2, 3].all fun status =>
      let z : Slot := lane0 { z0 with dst := .v 4, sa := .v 0 }
      let s := ray 0 status (only0 (at_ (.twait z)))
      opens s (.twait z) z { dst := .vregs 4 4 true, a := .noFrag } false .user fun fr => (fr.actives z == [0]) &&
        (recordTrap fr.p 0).isNone && (runLanes fr (fr.actives z) (fun s l => s.waitLane fr.p.id fr.kx l 0 (some 4) (saTval z)) s).2.1.isEmpty &&
        (let r := fr.p.ray 0; !r.reserved && !r.flag 3 && !r.flag 7 && r.status == status)) = true ∧
      opens (at_ (.repack { z0 with sa := .v 0 })) (.repack { z0 with sa := .v 0 }) { z0 with sa := .v 0 } { a := .noFrag } false .user (fun fr =>
        fr.mode == .user && !(at_ (.nop z0)).rmwFlying fr.p.id fr.kx && fr.lanes.all fun l => fr.k.outs.all fun w => !w.ofLane l) = true := by decide

/-- A traversal thread on the record at 0. -/
def thread (s : State) : State := { s with rays := [⟨1, 0, 0, 0, .user, 0, none, false⟩] }

theorem test_witness_traversal_events :
    ([(0, true), (2 ^ 57 + 0x1100, false), (2 ^ 57 + 2 ^ 56, false)].all fun (x : Nat × Bool) =>
      let s := (thread (ray x.1 1 (at_ (.nop z0)))).flushCore 0
      (s.rayOf 1 0).isSome && (s.panel? 1).any fun q => q.saving.isNone && ((q.ray 0).settle q.scratch 130).isNone == x.2 &&
        !s.raySick q 0 ((((q.ray 0).settle q.scratch 130).map RayRec.sp).getD 0) && { s with bad := [⟨.scratch 1, 63⟩] }.raySick q 0 0 &&
        (s.fetchSick q .user 0x1100 64).isNone) = true ∧
      ((onLns (fun a => { a with held := some (.repack 0 0x1000) }) (at_ (.nop z0))).panel? 1).any Panel.mayRepack = true ∧
      ((at_ (.nop z0)).panel? 1).any (fun p => !p.mayRepack) = true := by decide

/-- Function 0 with a heap window at 2^32 and every right to tag 0 of domain 0. -/
def swatch (s : State) : State := s.onFunc 0 fun f => { f with heapVa := 1, grants := [(0, 0x07000000)] }

theorem test_witness_swatch :
    (opens (swatch (at_ (.sclk { z0 with dst := .v 8, sa := .v 2, sb := .s 20 } ⟨false, false, true⟩)))
        (.sclk { z0 with dst := .v 8, sa := .v 2, sb := .s 20 } ⟨false, false, true⟩) { z0 with dst := .v 8, sa := .v 2, sb := .s 20 }
        { dst := .vregs 4 4 false, a := .vqPair, b := .noFrag } false .user (fun fr => (swatch (at_ (.nop z0))).hasWindow fr &&
          !(at_ (.nop z0)).releaseWaits fr.p.core .device) &&
      opens (swatch (at_ (.scwait { z0 with dst := .v 8, sa := .v 2 }))) (.scwait { z0 with dst := .v 8, sa := .v 2 })
        { z0 with dst := .v 8, sa := .v 2 } { dst := .vregs 4 4 false, a := .vqPair } false .user (fun fr => !fr.p.checking fr.mode) &&
      (let z : Slot := lane0 { z0 with dst := .v 8, sa := .v 0, sb := .v 2, sc := .v 6 }
       opens (onLns (fun a => { a with v := [(1, 1)] }) (swatch (only0 (at_ (.scpub z))))) (.scpub z) z
        { dst := .vregs 1 1 false, a := .vqPair, b := .vqPair, c := .noFrag } false .user (fun fr => (fr.actives z == [0]) &&
          ((swatch (at_ (.nop z0))).scpubTrap fr (fr.pair z 0 z.sa)).isNone && !(at_ (.nop z0)).scpubWaits fr (fr.pair z 0 z.sa) &&
          ((swatch (at_ (.nop z0))).publish 0 0 0 0 0).1.isSome)) &&
      opens (swatch (at_ (.scinvDep { z0 with dst := .s 19, sa := .s 8, sb := .s 17 } false))) (.scinvDep { z0 with dst := .s 19, sa := .s 8, sb := .s 17 } false)
        { z0 with dst := .s 19, sa := .s 8, sb := .s 17 } { b := .scalar, dst := .lateScalar, a := .scalarOrLit } true .user (fun fr =>
          some_ z0 fr && ((swatch (at_ (.nop z0))).func fr.p.fn).mayInvalidate 0) &&
      opens (swatch (at_ (.scinvKey { z0 with dst := .s 19, sa := .s 8, sb := .s 16, sc := .s 18 } true)))
        (.scinvKey { z0 with dst := .s 19, sa := .s 8, sb := .s 16, sc := .s 18 } true) { z0 with dst := .s 19, sa := .s 8, sb := .s 16, sc := .s 18 }
        { b := .scalarPair, c := .scalarPair, dst := .lateScalar, a := .scalarOrLit } true .user (some_ z0) &&
      opens (swatch (at_ (.scstamp { z0 with dst := .s 19, sa := .s 8 }))) (.scstamp { z0 with dst := .s 19, sa := .s 8 })
        { z0 with dst := .s 19, sa := .s 8 } { dst := .lateScalar, a := .scalarOrLit } true .user (some_ z0)) = true := by decide

/-- A node of a kind with one panel of the placed kernel. -/
def node (kind : Nat) : Node := ⟨kind, 0, 0, 1, 0, 0, 0, 1, 4, 0, 0, [], [], [], 0, [wordHeader]⟩
/-- A pattern of one such node with handle 0. -/
def pattern (kind : Nat) : Pattern := ⟨0, 0, false, 64, wordHeader, [], [node kind], [], []⟩
/-- Function 0 is active and has that pattern. -/
def registered (kind : Nat) (s : State) : State := s.onFunc 0 fun f => { f with st := .active, patterns := [pattern kind] }

theorem test_witness_scpop :
    opens (registered 3 (swatch (at_ (.scpop { z0 with dst := .v 8 })))) (.scpop { z0 with dst := .v 8 }) { z0 with dst := .v 8 }
      { dst := .vregs 6 2 false } false .user (fun fr => (swatch (at_ (.nop z0))).hasWindow fr &&
        (registered 3 (swatch (at_ (.nop z0)))).triggerQueue fr.p == some 0) = true := by decide

/-- One swatch entry of key 0 in way 0 of set 0. -/
def entry (st : SwState) (s : State) : State := (swatch s).setSwTag 0 ⟨0, 0, 0, st, false, 0, 0, 0, false, false⟩

/-- Each case of a lookup and of a publication occurs. -/
theorem test_witness_lookup :
    ([SwState.valid, .inflight, .stale].all fun st => let s := entry st (at_ (.nop z0))
      (s.func 0).hasRight 24 0 0 && (s.func 0).hasRight 25 0 0 && ((waysOf (keySet 0)).find? fun n =>
        (s.swTag n).st != .invalid && (s.swTag n).keyhi == keyHi 0 && (s.swTag n).domain == 0) == some 0) = true ∧
      ((at_ (.nop z0)).func 0).hasRight 24 0 0 = false ∧ ((entry .inflight (at_ (.nop z0))).swPending 0 0) = true ∧
      ((entry .valid (at_ (.nop z0))).swPending 0 0) = false := by decide

/-- An invalidation under way, and an entry read with odd parity. -/
theorem test_witness_swatch_events :
    (let v : InvWalk := ⟨9, 1, 0, 0, 9, 0, 0, false, .dep 1, [], 0, none⟩
     let s : State := { at_ (.nop z0) with swWalks := [v] }
     (s.swWalks.find? fun v => v.id == 9).isSome && s.invStarted v && !v.visited.contains (3 * 2 ^ 17 + (2 ^ 17 - 1))) = true ∧
      oddOnes (1#128).toNat 128 = true := by decide

/-- COLL with a legal record at 0, its group descriptor of one member at 0x1040, SEND at 0x1100 and RECV at 0x1200. -/
def collective (i : Instr) : State :=
  let s := filled [(0, 8, 0x1100), (8, 8, 0x1200), (16, 8, 0x1040), (24, 4, 4)] ((at_ i).onFunc 0 fun f => { f with scopes := 3 })
  { s with mem := (((s.mem.write 0x1040 4 0x50524750).write 0x1044 2 1).write 0x1046 2 1) }

theorem test_witness_collective :
    (let z : Slot := { z0 with sa := .s 2 }
     let m : CollMod := ⟨.allReduce, .add, .f32, .none⟩
     let s := collective (.coll z m)
     opens s (.coll z m) z { a := .scalar } true .user (fun fr => some_ z0 fr &&
        (let b := (s.seen fr.p).scratch.list 0 64
         (firstOut 0 64 1 0 fr.p.kernel.scratch).isNone && collRecordOk m b (fun o n => leNat ((b.drop o).take n))) &&
        !(s.func fr.p.fn).scopeDenied .system && !s.sickBlock fr.p 0 && match s.objRef fr .none z.lit with | .ok _ => true | _ => false) &&
      next (exec (.coll z m) s) fun t => t.colls.all fun o =>
        (match (t.flushCore 0).readGroup o with | .ok (some d) => d == ⟨0, 1, 0, [0]⟩ | _ => false) && ((t.flushCore 0).groupBad o).isNone &&
        ({ t.flushCore 0 with bad := [⟨.memory, 0x1041⟩] }.groupBad o).isSome &&
        next (exec (.collMatch o.id ⟨false, [], []⟩) t) fun u => u.colls.all fun o => o.desc == some ⟨0, 1, 0, [0]⟩ && u.reachesAll 0 [0] &&
          (o.matched ⟨0, 1, 0, [0]⟩ []).any (fun qs => qs.all fun q => q.all (o.agrees ⟨0, 1, 0, [0]⟩)) &&
          match (u.flushCore 0).collRead o o.send (o.sendBytes 1 0) with
          | .ok own => (o.gather ⟨0, 1, 0, [0]⟩ own [none]).isSome && (match u.collWrite o o.recv own, u.collScrub o o.recv 16 with
              | (_, none), (_, none) => true
              | _, _ => false)
          | .error _ => false) = true := by decide

/-! ## Witnesses: launches, dispatch, saves, the platform, walks and debug requests -/

/-- Function 0 booted, with the first heap entry valid: heap address 2^32 is byte 0 of die 0's heap. -/
def booted (s : State) : State := { entry .valid (registered 0 s) with boot := 2 }
/-- A doorbell word for handle 0 with its argument block at the start of the heap. -/
def bell : Dword := 2 ^ 42
/-- Launch 1 of handle 0, its nodes as given. -/
def launched (started : Bool) (runs : List NodeRun) (s : State) : State := s.onFunc 0 fun f => { f with launches := [⟨1, 0, 2 ^ 32, started, 0, runs⟩] }

theorem test_witness_launch :
    (let s := booted (at_ (.nop z0))
     let f := s.func 0
     bell.toNat / 2 ^ 16 * 64 = 2 ^ 32 ∧ f.st = .active ∧ (f.pattern? 0).isSome ∧ f.pattern? 7 = none ∧ f.launches.length < 64 ∧
       s.mapped 0 (2 ^ 32) 64 18 = true ∧ s.mapped 0 0 64 18 = false ∧ ((launched false [] s).func 0).startable.isSome ∧
       s.answers 0 = true ∧ f.registering = none ∧ (f.patterns.any fun p => p.handle == 7) = false ∧ (f.launches.any fun l => l.handle == 0) = false ∧
       s.triggerLive 0 0 = false ∧ ((launched true [] s).func 0).launches.any (fun l => l.handle == 0)) := by decide

/-- A control node whose word lies at an address, ready and waiting for it. -/
def control (at_ : Dword) (s : State) : State :=
  launched true [⟨.ready, 0, 0, 0, true, false, 0⟩] (s.onFunc 0 fun f =>
    { f with patterns := [{ pattern 4 with nodes := [{ node 4 with first := at_, buffer := 255 }] }] })

theorem test_witness_control_word :
    (let s := booted (at_ (.nop z0))
     ((control (2 ^ 32) s).controlWord 0 0 { node 4 with first := 2 ^ 32, buffer := 255 }).isSome ∧
     ((control 0 s).controlWord 0 0 { node 4 with first := 0, buffer := 255 }) = none ∧
     (((control 0 s).func 0).launch? 1).any (fun l => (l.run 0).phase == .ready && (l.run 0).awaiting) ∧
     (((control 0 s).func 0).pattern? 0).any (fun p => (p.nodes[0]?).any Node.control)) := by decide

/-- A pattern image of one task node at the start of the heap, its handler image at 128 and its kernel image at 256, both without code. -/
def patternImage (s : State) : State :=
  let b := heapBase 0
  let sum := 0x66d71ebff8c6ffa7
  { s with mem := (Bytes.fields s.mem b [(0, 4, 0x4E544150), (4, 2, 1), (6, 2, 1), (12, 4, 128), (16, 8, 2 ^ 32 + 192), (68, 4, 1), (72, 8, 2 ^ 32 + 320),
      (124, 4, 64), (128, 4, 0x484B5250), (132, 2, 1), (134, 2, 1), (136, 4, 0x01010808), (160, 8, 64), (176, 8, sum), (256, 4, 0x484B5250), (260, 2, 1),
      (264, 4, 0x01010808), (278, 2, 1), (288, 8, 64), (304, 8, sum)]) }

theorem test_witness_registration :
    (let s := patternImage (booted (at_ (.nop z0)))
     (match s.readPattern 0 (2 ^ 32) with | .ok p => p.handle == 1 && p.nodes.length == 1 | .error _ => false) &&
       (match s.readPattern 0 0 with | .ok _ => false | .error c => c == 9)) = true := by decide

/-- Cluster 0 runs function 0, whose save region has room; one entry of launch 1 stands in the pool, one of a higher class before it. -/
def pooled (s : State) : State :=
  let s1 := (booted s).onFunc 0 fun f => { f with saveSize := 2 ^ 30, launches := [⟨1, 0, 2 ^ 32, true, 0, [⟨.ready, 0, 0, 0, false, false, 0⟩]⟩] }
  { s1.onDie 0 fun d => { d with kappa := 0 } with
    clusters := [(0, ⟨[(0, 10)], 0, 0, false⟩)]
    pool := [⟨90, 0, 0, 2 ^ 16, 9, 0, 1, [0, 0, 0, 0], 0, 3, false, none⟩, ⟨91, 0, 0, 2 ^ 16, 4, 0, 1, [0, 0, 0, 0], 0, 0, false, none⟩] }

theorem test_witness_pick :
    (let s := pooled (at_ (.nop z0))
     (s.pick 1).any (fun x => x.1.id == 91 && x.2 == [90]) ∧ (s.dispatchOn 1).any (fun i => match i with
      | .panelDispatch 91 ps => match ps with | p :: _ => p.core == 1 && !s.resumable ⟨91, 0, 0, 2 ^ 16, 4, 0, 1, [0, 0, 0, 0], 0, 0, false, none⟩ | [] => false
      | _ => false)) := by decide

/-- The placed panel as a range panel of two chunks. -/
def ranged (s : State) : State :=
  (s.onPanel 1 fun p => { p with range := some ⟨0, 8, 4⟩, level := 4 }).onFunc 0 fun f =>
    { f with patterns := [{ pattern 1 with nodes := [{ node 1 with grain := 4, buffer := 2 }] }] }

theorem test_witness_panel_events :
    (let s := pooled (at_ (.nop z0))
     let t : State := { ranged s with pool := [] }
     let u := onLns (fun a => { a with exited := true }) s
     (u.panel? 1).any (fun q => (q.skein? 0).any fun k => u.mayRetire q 0 k) ∧ (t.splitOn 1).isSome ∧
     (let v : State := (s.onFunc 0 fun f => { f with bandT := 1, margin := 1 })
      { v with time := 1500 }.agingDue ⟨91, 0, 0, 2 ^ 16, 4, 0, 1, [0, 0, 0, 0], 0, 0, false, none⟩ = true ∧
      { v with clusters := [] }.fitsSomewhere ⟨91, 0, 0, 2 ^ 16, 4, 0, 1, [0, 0, 0, 0], 0, 0, false, none⟩ = false)) := by decide

theorem test_witness_resume_panel :
    (let s := pooled (at_ (.nop z0))
     let t := next (exec (.contextSaveDone 1) (s.onPanel 1 fun p => { p with saving := some ⟨0, 0xFF⟩ })) fun t =>
       (match t.dispatchOn 1 with | some (.panelResume 91 ps) => !ps.isEmpty | _ => false)
     t = true) := by decide

theorem test_witness_saves :
    (let s := at_ (.nop z0)
     let y := onLns (fun a => { a with yielding := true }) (s.onPanel 1 fun p => { p with timer := some 0 })
     (y.panel? 1).any y.mayYield ∧
     (let d := s.onPanel 1 fun p => { p with timer := some 0 }
      (d.panel? 1).any fun q => q.active && !d.mayYield q) ∧
     (let r : Rotation := ⟨[(0, 1), (1, 1)], 0, 0, false⟩
      ({ s with time := 1500, clusters := [(0, r)] } : State).rotation? 0 = some r) ∧
     ((registered 0 s).func 0).st = .active ∧ s.slicesOk [0] [] = true ∧
     (let v := s.onPanel 1 fun p => { p with saving := some ⟨1, 3⟩ }
      (v.panel? 1).any v.saveReady)) := by decide

theorem test_witness_stops :
    (let s := at_ (.nop z0)
     (s.panel? 1).any (fun q => q.halt.isNone) ∧
     next (exec (.panelHalt 1 0 (.machineCheck 0x1000)) s) (fun t => (t.panel? 1).any fun q => q.halt.isSome && !t.panelBusy q &&
       !t.releaseWaits q.core .device) ∧
     (let u := onSk (fun k => { k with outs := [{ VarWrite.blank with seq := 4, targets := [.v 3 9], vals := [(.v 3 9, 6)], bad := [⟨some (.v 3 9), 3, 0⟩] }] }) s
      (u.panel? 1).any fun q => q.halt.isNone && (q.skein? 0).any fun k => (k.landable 4).any fun w => !w.bad.isEmpty &&
        w.bad.all fun b => decide (b.lane < 32))) := by decide

/-- Both stages map the first GiB to itself, by tables from 0x10000 (second stage) and 0x20000 (first). -/
def paged (s : State) : State :=
  { s.onFunc 0 fun f => { f with st := .active, root1 := 0x20000, root2 := 0x10000, windows := [⟨0, 2 ^ 30, false⟩], apBase := 1 } with
    boot := 2
    mem := Bytes.fields s.mem 0 [(0x10000, 8, 0x11003), (0x11000, 8, 0x12003), (0x12000, 8, 0xC0D), (0x20000, 8, 0x21003), (0x21000, 8, 0x22003),
      (0x22000, 8, 0xC1D)] }

/-- A creation of a function with no cluster. -/
def setup : FnSetup := ⟨0, [], 0, 0, 0, 0, 0, 0, 0⟩

/-- Boot's checks of the map hold; that an image is signed is the authority's (log entry 7). -/
theorem test_witness_platform :
    (let s := paged (at_ (.nop z0))
     s.setupOk 1 setup = true ∧ bootLegal ⟨[], [], 0, 0, 0, 0, [(0, 0, 2 ^ 30, false)], [], [], setup⟩ = true ∧ State.reset.setupOk 0 setup = true ∧
       s.barsLive 0 = true ∧ (s.apertureAt 0 0x100 false).toOption = some (some 0x100) ∧ (s.apertureAt 0 0x100 true).toOption = some (some 0x100) ∧
       (s.apertureAt 0 (2 ^ 30) false).toOption = some none) := by decide

theorem test_witness_walk :
    (let s := paged (at_ (.nop z0))
     let x := s.walkNow 0 0 true 0x1000 .read .user
     let w : Walk := ⟨5, 1, some 0, 0, 0, 0x1000, .read, .user, 1, x.1, false, x.2, .running⟩
     (match w.found with | .page p => p == ⟨0, 2 ^ 30, 0, true, true, true, 2⟩ | .stop _ => false) &&
       (({ s with walks := [w] } : State).walks.find? fun w => w.id == 5 && w.stage == .running).isSome &&
       (match (s.walkNow 0 0 true 0x40000000 .read .user).2 with | .stop x => x.kind != 6 && x.stage == 1 | .page _ => false) &&
       backedRange 0 0x12000 8) = true := by decide

/-- Two skeins, the first in a STEP handler with FREEZE: the second is frozen. -/
def frozen (req : Word) (s : State) : State :=
  (onLns (fun a => { a with mode := .hypervisor, saveH := { a.saveH with status := 8 } }) (onSk (fun k => { k with step := 2 }) s)).onPanel 1 fun p =>
    { p with skeins := p.skeins ++ (p.skeins.map fun k => { k with ix := 1, step := 0, lanes := k.lanes.map fun a => { a with mode := .user } })
             dbg := some (0, false), dbgreq := req }

/-- A READ and a WRITE of v2 of lane 1, a DRAIN, and a request for the writer's own skein. -/
theorem test_witness_debug :
    ([(0x02100002, 0), (0x42100002, 1), (0x82000000, 2)].all fun (x : Word × Nat) =>
      ((frozen x.1 (at_ (.nop z0))).panel? 1).any fun q => dbgOp q.dbgreq == x.2 && (dbgFrozen q 0 q.dbgreq).any (fun k => k.ix == 1 && k.outs.isEmpty) &&
        dbgTarget q q.dbgreq != .range && dbgTarget q q.dbgreq != .skeinReg 0x102) = true ∧
      ((frozen 0 (at_ (.nop z0))).panel? 1).any (fun q => dbgFrozen q 0 q.dbgreq == none) = true := by decide

theorem test_witness_parks :
    (let s := onLns (fun a => { a with park := some (.till 0) }) (at_ (.nop z0))
     (s.laneAt 1 0 0).any (fun a => a.park == some (.till 0) && decide (0 ≤ s.cycle 0)) ∧
     (let t := onLns (fun a => { a with park := some .still }) (at_ (.nop z0))
      (t.skeinAt 1 0).any fun k => k.allStill && (k.lane 0).park.isSome)) := by decide

/-! ## Steps of placed instructions -/

/-- R72: 0xFFFFFFFF + 2 wraps to 1, which becomes available one latency later (R25). -/
theorem test_iadd_wraps :
    next (step (onLns (fun a => { a with v := [(0, 0xFFFFFFFF), (1, 2)] }) (at_ (.iadd (alu zv .i32 0))))) (fun s =>
      (s.skeinAt 1 0).any fun k => k.results.any fun r => r.regs.contains (.v 31 4, 1)) = true := by decide

end Sys2Proof.Machine.Tests
end

section
/-!
Proofs about the selection of R130 and R131: the mode it takes, its candidates, and the candidates at the lowest PC.
-/
namespace Sys2Proof.Machine

/-! ## What a selection sees of a lane -/

/-- R131: a lane that the selections see as it is has no newer entry into a handler. -/
theorem Lane.modeAt_of_seen {a : Lane} {cycle : Nat} (h : a.seen cycle = true) : a.modeAt cycle = a.mode := by
  unfold Lane.seen at h
  unfold Lane.modeAt
  cases he : a.entry with
  | none => rfl
  | some e =>
    have hle : e.1 ≤ cycle := by simp only [he, Option.all_some, Bool.and_eq_true, decide_eq_true_eq] at h; omega
    exact if_neg (Nat.not_lt.mpr hle)

theorem Lane.not_exited_of_free {a : Lane} (h : a.free = true) : a.exited = false := by
  unfold Lane.free at h
  simp only [Bool.and_eq_true, Bool.not_eq_true'] at h
  obtain ⟨⟨⟨hlive, _⟩, _⟩, _⟩ := h
  exact hlive

/-! ## The mode of a selection and its candidates -/

/-- `live` of R130, in ascending lane order. -/
def Skein.liveLanes (k : Skein) : List Nat := (List.range 32).filter fun l => !(k.lane l).exited

/-- `top` of R130: the code of the highest mode that the selections of a cycle see in a live lane. -/
def Skein.topMode (k : Skein) (cycle : Nat) : Nat :=
  k.liveLanes.foldl (fun m l => max m ((k.lane l).modeAt cycle).code) 0

/-- `cand` of R130, as the selections of a cycle see it (R131). -/
def Skein.candidates (k : Skein) (cycle : Nat) : List Nat :=
  k.liveLanes.filter fun l => (k.lane l).mode.code == k.topMode cycle && (k.lane l).free && (k.lane l).seen cycle

/-- A lane of the top mode that may issue: the condition that R130 puts on a candidate, without the lists that compute it. -/
def Skein.CanIssue (k : Skein) (cycle l : Nat) : Prop :=
  l < 32 ∧ (k.lane l).free = true ∧ (k.lane l).seen cycle = true ∧
    ∀ m, m < 32 → (k.lane m).exited = false → ((k.lane m).modeAt cycle).code ≤ (k.lane l).mode.code

@[simp] theorem Skein.mem_liveLanes {k : Skein} {l : Nat} : l ∈ k.liveLanes ↔ l < 32 ∧ (k.lane l).exited = false := by
  simp [Skein.liveLanes]

theorem Skein.max?_modes (k : Skein) (cycle : Nat) :
    (0 :: k.liveLanes.map fun l => ((k.lane l).modeAt cycle).code).max? = some (k.topMode cycle) := by
  rw [List.max?_cons', List.foldl_map]; rfl

theorem Skein.topMode_le_iff {k : Skein} {cycle n : Nat} :
    k.topMode cycle ≤ n ↔ ∀ m, m < 32 → (k.lane m).exited = false → ((k.lane m).modeAt cycle).code ≤ n := by
  rw [List.max?_le_iff (k.max?_modes cycle), List.forall_mem_cons, List.forall_mem_map]
  simp

/-- A live lane that is seen as it is counts with its own mode towards the top mode. -/
theorem Skein.mode_le_topMode {k : Skein} {cycle l : Nat} (hl : l < 32) (hlive : (k.lane l).exited = false)
    (hseen : (k.lane l).seen cycle = true) : (k.lane l).mode.code ≤ k.topMode cycle := by
  rw [← Lane.modeAt_of_seen hseen]
  exact Skein.topMode_le_iff.mp le_rfl l hl hlive

theorem Skein.mem_candidates_iff {k : Skein} {cycle l : Nat} : l ∈ k.candidates cycle ↔ k.CanIssue cycle l := by
  simp only [Skein.candidates, Skein.CanIssue, ← Skein.topMode_le_iff, List.mem_filter, Skein.mem_liveLanes, Bool.and_eq_true, beq_iff_eq]
  constructor
  · rintro ⟨⟨hl, _⟩, ⟨hmode, hfree⟩, hseen⟩
    exact ⟨hl, hfree, hseen, hmode.ge⟩
  · rintro ⟨hl, hfree, hseen, htop⟩
    have hlive := Lane.not_exited_of_free hfree
    exact ⟨⟨hl, hlive⟩, ⟨(Skein.mode_le_topMode hl hlive hseen).antisymm htop, hfree⟩, hseen⟩

/-! ## The issue set -/

/-- R130: the issue set is the candidates that no candidate stands below. -/
theorem Skein.mem_select_iff {k : Skein} {cycle l : Nat} :
    l ∈ k.select cycle ↔ l ∈ k.candidates cycle ∧ ∀ j ∈ k.candidates cycle, (k.lane l).pc.toNat ≤ (k.lane j).pc.toNat := by
  unfold Skein.select
  dsimp only
  split
  case h_1 hcand =>
    change k.candidates cycle = [] at hcand
    simp [hcand]
  case h_2 c cs hcand =>
    change k.candidates cycle = c :: cs at hcand
    change l ∈ (k.candidates cycle).filter _ ↔ _
    rw [List.mem_filter, beq_iff_eq]
    refine and_congr_right fun hl => ?_
    have hmin : ((k.candidates cycle).map fun j => (k.lane j).pc.toNat).min? =
        some (cs.foldl (fun m j => min m (k.lane j).pc.toNat) (k.lane c).pc.toNat) := by
      rw [hcand, List.map_cons, List.min?_cons', List.foldl_map]
    rw [eq_comm, ← Option.some_inj, ← hmin, List.min?_eq_some_iff, List.forall_mem_map]
    exact and_iff_right (List.mem_map_of_mem hl)

/-- Settles O8: membership in the issue set, with the candidates told by their condition. -/
theorem selectTakesLowestPcOfTopMode : Obligations.SelectTakesLowestPcOfTopMode := by
  intro k cycle l _
  change l ∈ k.select cycle ↔ k.CanIssue cycle l ∧ ∀ j, k.CanIssue cycle j → (k.lane l).pc.toNat ≤ (k.lane j).pc.toNat
  simp only [← Skein.mem_candidates_iff]
  exact Skein.mem_select_iff

end Sys2Proof.Machine
end

section
/-!
Proofs about the taking of a cause by one lane: where each route leads (R380, R382, R391), what an entry writes, and what it leaves.
-/
namespace Sys2Proof.Machine

/-! ## What an entry writes -/

theorem blankBank_getElem? {n size : Nat} (h : n < size) : (blankBank size)[n]? = some ⟨0, 0⟩ :=
  List.getElem?_replicate_of_lt h

/-- R380: no cause leads from hypervisor mode down to supervisor mode. -/
theorem ne_hypervisor_of_route_supervisor {m : Mode} {c : Cause} (h : route m c = some .supervisor) : m ≠ .hypervisor := by
  rintro rfl
  cases c <;> cases h

/-- Bit 1 of lane.status.s is NEST (R379), and the code of user or supervisor mode leaves it clear. -/
theorem Lane.enterSup_nest {l : Lane} (entry : Dword) (t : Trap) (h : l.mode ≠ .hypervisor) :
    nestOfS (l.enterSup entry t).saveS.status = false := by
  simp only [Lane.enterSup]
  cases hm : l.mode with
  | user => rfl
  | supervisor => rfl
  | hypervisor => exact absurd hm h

section
variable (l : Lane) (entry : Dword) (t : Trap)

/-- The two low bits of lane.status.h keep the mode left (R379). -/
theorem Lane.enterHyp_oldMode : (l.enterHyp entry t).saveH.status.toNat % 4 = l.mode.code := by
  simp only [Lane.enterHyp]
  split <;> cases l.mode <;> rfl

theorem Lane.enterHyp_nest : nestOfH (l.enterHyp entry t).saveH.status = false := by
  simp only [Lane.enterHyp]
  split <;> cases l.mode <;> rfl

/-- Bit 3 of lane.status.h, SE, tells an entry by STEP (R379). -/
theorem Lane.enterHyp_stepEntry : (l.enterHyp entry t).saveH.status.getLsbD 3 = decide (t.cause = .step) := by
  simp only [Lane.enterHyp]
  split
  case isTrue hstep => rw [hstep]; cases l.mode <;> rfl
  case isFalse hstep => rw [decide_eq_false hstep]; cases l.mode <;> rfl

end

/-! ## Where each route leads -/

section
variable {l : Lane} {t : Trap} (sup hyp : Dword)

theorem Lane.takeTrap_eq_enterSup (hr : route l.mode t.cause = some .supervisor)
    (h : l.mode ≠ .supervisor ∨ nestOfS l.saveS.status = true) : l.takeTrap sup hyp t = (l.enterSup sup t, none) := by
  have hfirst : ¬(l.mode = .supervisor ∧ nestOfS l.saveS.status = false) := by
    rwa [not_and_or, Bool.not_eq_false]
  simp only [Lane.takeTrap, hr, if_neg hfirst]

/-- R382: a second trap into supervisor mode enters hypervisor mode as DOUBLE, with the first cause's code as tval. -/
theorem Lane.takeTrap_eq_double (hr : route l.mode t.cause = some .supervisor) (hm : l.mode = .supervisor)
    (hn : nestOfS l.saveS.status = false) :
    l.takeTrap sup hyp t = (l.enterHyp hyp { t with cause := .double, tval := BitVec.ofNat 64 t.cause.code }, none) := by
  simp only [Lane.takeTrap, hr, if_pos (And.intro hm hn)]

theorem Lane.takeTrap_eq_enterHyp (hr : route l.mode t.cause = some .hypervisor)
    (h : l.mode ≠ .hypervisor ∨ nestOfH l.saveH.status = true) : l.takeTrap sup hyp t = (l.enterHyp hyp t, none) := by
  have hfirst : ¬(l.mode = .hypervisor ∧ nestOfH l.saveH.status = false) := by
    rwa [not_and_or, Bool.not_eq_false]
  simp only [Lane.takeTrap, hr, if_neg hfirst]

/-- R391: a second trap into hypervisor mode is handed on, and the lane stays as it is. -/
theorem Lane.takeTrap_eq_stop (hr : route l.mode t.cause = some .hypervisor) (hm : l.mode = .hypervisor)
    (hn : nestOfH l.saveH.status = false) : l.takeTrap sup hyp t = (l, some t.cause) := by
  simp only [Lane.takeTrap, hr, if_pos (And.intro hm hn)]

end

/-! ## What no cause changes -/

/-- R382: a lane is left as it is, or enters one of the two handlers. -/
theorem Lane.takeTrap_cases (l : Lane) (sup hyp : Dword) (t : Trap) :
    (l.takeTrap sup hyp t).1 = l ∨ (l.takeTrap sup hyp t).1 = l.enterSup sup t ∨ ∃ u, (l.takeTrap sup hyp t).1 = l.enterHyp hyp u := by
  unfold Lane.takeTrap
  split
  case h_1 | h_2 => exact .inl rfl
  case h_3 =>
    split
    · exact .inr (.inr ⟨_, rfl⟩)
    · exact .inr (.inl rfl)
  case h_4 =>
    split
    · exact .inl rfl
    · exact .inr (.inr ⟨t, rfl⟩)

/-- The fields that taking a cause may write; every other field of the lane, its waits and its wake included, stays. -/
theorem Lane.takeTrap_rest (l : Lane) (sup hyp : Dword) (t : Trap) :
    (l.takeTrap sup hyp t).1 =
      { l with
        saveS := (l.takeTrap sup hyp t).1.saveS, saveH := (l.takeTrap sup hyp t).1.saveH, mode := (l.takeTrap sup hyp t).1.mode
        qSup := (l.takeTrap sup hyp t).1.qSup, qHyp := (l.takeTrap sup hyp t).1.qHyp, pc := (l.takeTrap sup hyp t).1.pc
        lastChange := (l.takeTrap sup hyp t).1.lastChange, needTgt := (l.takeTrap sup hyp t).1.needTgt } := by
  obtain h | h | ⟨u, h⟩ := l.takeTrap_cases sup hyp t <;> rw [h] <;> rfl

/-- Settles O26: each route's lemma says which entry is made, and an entry is a record update whose fields are read off. -/
theorem trapEntryFollowsTakeTrap : Obligations.TrapEntryFollowsTakeTrap := by
  intro l sup hyp t
  dsimp only
  refine ⟨fun hr h => ?supervisor, fun hr h => ?hypervisor, fun hr hm hn => ?double, fun hr hm hn => ?stop, ?rest⟩
  case supervisor =>
    rw [Lane.takeTrap_eq_enterSup sup hyp hr h]
    have hnest := Lane.enterSup_nest sup t (ne_hypervisor_of_route_supervisor hr)
    exact ⟨rfl, rfl, hnest, rfl, rfl, rfl, rfl, fun _ => blankBank_getElem?, rfl, rfl, rfl⟩
  case hypervisor =>
    rw [Lane.takeTrap_eq_enterHyp sup hyp hr h]
    have hse : (l.enterHyp hyp t).saveH.status.getLsbD 3 = true ↔ t.cause = .step := by
      rw [Lane.enterHyp_stepEntry, decide_eq_true_iff]
    exact ⟨rfl, rfl, rfl, rfl, Lane.enterHyp_oldMode .., Lane.enterHyp_nest .., hse, rfl, rfl, rfl, rfl,
      fun _ => blankBank_getElem?, rfl, rfl, rfl⟩
  case double =>
    rw [Lane.takeTrap_eq_double sup hyp hr hm hn]
    have hold := (Lane.enterHyp_oldMode l hyp { t with cause := .double, tval := BitVec.ofNat 64 t.cause.code }).trans
      (congrArg Mode.code hm)
    exact ⟨rfl, rfl, rfl, rfl, hold, Lane.enterHyp_nest .., Lane.enterHyp_stepEntry .., rfl, rfl, rfl, rfl, rfl,
      fun _ => blankBank_getElem?, rfl, rfl⟩
  case stop => exact Lane.takeTrap_eq_stop sup hyp hr hm hn
  case rest =>
    rw [l.takeTrap_rest sup hyp t]
    exact ⟨rfl, rfl, rfl, rfl, rfl, rfl⟩

end Sys2Proof.Machine
end

section
/-!
Proofs about TRET (R385, R404): what a return changes in a lane, the event once its gate is open, and the lanes after it.
-/
namespace Sys2Proof.Machine

/-! ## A lane's return -/

/-- R385: a return writes the lane's mode, its PC and the change's record; the save sets, NEST and the banks stay. -/
theorem Lane.trapReturn_rest (a : Lane) (pc : Dword) :
    a.trapReturn pc =
      { a with
        mode := (a.trapReturn pc).mode, pc := (a.trapReturn pc).pc
        lastChange := (a.trapReturn pc).lastChange, needTgt := (a.trapReturn pc).needTgt } := by
  unfold Lane.trapReturn; split <;> rfl

theorem Lane.trapReturn_of_supervisor {a : Lane} (h : a.mode = .supervisor) (pc : Dword) :
    a.trapReturn pc = { a.jump a.saveS.epc pc with mode := modeOfCode (a.saveS.status.toNat % 2) } := by
  simp only [Lane.trapReturn, h]

theorem Lane.trapReturn_of_hypervisor {a : Lane} (h : a.mode = .hypervisor) (pc : Dword) :
    a.trapReturn pc = { a.jump a.saveH.epc pc with mode := modeOfCode (a.saveH.status.toNat % 4) } := by
  simp only [Lane.trapReturn, h]

/-- What a lane comes back to after a CTXLOAD (R405) is whether it has exited, parks or is held, and nothing else. -/
theorem Lane.comeBack_rest (a : Lane) (gen : Nat → Nat) (cycle : Nat) :
    a.comeBack gen cycle =
      { a with
        back := (a.comeBack gen cycle).back, exited := (a.comeBack gen cycle).exited
        park := (a.comeBack gen cycle).park, held := (a.comeBack gen cycle).held } := by
  unfold Lane.comeBack
  split
  case h_1 => rfl
  case h_2 b _ => split_ifs <;> rfl

/-! ## The lane that a return leaves -/

/-- The lane that the TRET's event leaves of an active lane: the one returned, which transfers unless it came back exited. -/
def Frame.returnedLane (fr : Frame) (a : Lane) : Lane :=
  let r := fr.p.returned a fr.pc fr.cycle
  if r.exited = false then r.jump (a.trapReturn fr.pc).pc fr.pc else r

/-- Two lanes agree in what R385 leaves as it stands, the save sets and the banks, and in the vector registers. -/
def Lane.SameSaved (b a : Lane) : Prop :=
  b.saveS = a.saveS ∧ b.saveH = a.saveH ∧ b.qUser = a.qUser ∧ b.qSup = a.qSup ∧ b.qHyp = a.qHyp ∧ b.v = a.v

/-- A lane stands in a mode at a PC where a non-sequential change made at another brought it (R50). -/
def Lane.Arrived (b : Lane) (m : Mode) (dest by_ : Dword) : Prop := b.mode = m ∧ b.pc = dest ∧ b.lastChange = by_ ∧ b.needTgt = true

section
variable (fr : Frame) (a : Lane)

theorem Panel.returned_sameSaved (p : Panel) (pc : Dword) (cycle : Nat) : (p.returned a pc cycle).SameSaved a := by
  unfold Panel.returned
  rw [Lane.comeBack_rest, Lane.trapReturn_rest]
  exact ⟨rfl, rfl, rfl, rfl, rfl, rfl⟩

theorem Frame.returnedLane_sameSaved : (fr.returnedLane a).SameSaved a := by
  have h := Panel.returned_sameSaved a fr.p fr.pc fr.cycle
  unfold Frame.returnedLane
  dsimp only
  split_ifs <;> exact h

variable {a} {m : Mode} {dest : Dword}

/-- A return that arrives is not undone by what the lane comes back to, nor by the transfer that the event's end makes. -/
theorem Frame.returnedLane_arrived (h : (a.trapReturn fr.pc).Arrived m dest fr.pc) : (fr.returnedLane a).Arrived m dest fr.pc := by
  obtain ⟨hmode, hpc, hchange, htgt⟩ := h
  have hback : (fr.p.returned a fr.pc fr.cycle).Arrived m dest fr.pc := by
    unfold Panel.returned
    rw [Lane.comeBack_rest]
    exact ⟨hmode, hpc, hchange, htgt⟩
  obtain ⟨hmode', hrest⟩ := hback
  unfold Frame.returnedLane
  dsimp only
  split_ifs
  · exact ⟨hmode', hpc, rfl, rfl⟩
  · exact ⟨hmode', hrest⟩

theorem Frame.returnedLane_of_supervisor (h : a.mode = .supervisor) :
    (fr.returnedLane a).Arrived (modeOfCode (a.saveS.status.toNat % 2)) a.saveS.epc fr.pc :=
  fr.returnedLane_arrived (by rw [Lane.trapReturn_of_supervisor h]; exact ⟨rfl, rfl, rfl, rfl⟩)

theorem Frame.returnedLane_of_hypervisor (h : a.mode = .hypervisor) :
    (fr.returnedLane a).Arrived (modeOfCode (a.saveH.status.toNat % 4)) a.saveH.epc fr.pc :=
  fr.returnedLane_arrived (by rw [Lane.trapReturn_of_hypervisor h]; exact ⟨rfl, rfl, rfl, rfl⟩)

end

/-! ## The event -/

/-- Looking up a number in a list of pairs that a list of numbers makes. -/
theorem find?_map_key {β : Type} (ls : List Nat) (f : Nat → β) (l : Nat) :
    ((ls.map fun i => (i, f i)).find? fun g => g.1 == l) = if l ∈ ls then some (l, f l) else none := by
  induction ls with
  | nil => rfl
  | cons i is ih =>
    rw [List.map_cons]
    by_cases h : i = l
    · subst h
      rw [List.find?_cons_of_pos (by simp), if_pos List.mem_cons_self]
    · rw [List.find?_cons_of_neg (by simpa using h), ih]
      simp only [List.mem_cons, Ne.symm h, false_or]

section
variable {z : Slot} {s : State} {fr : Frame}

/-- The skein with the active lanes of a TRET returned (R385). -/
def Panel.returnLanes (p : Panel) (fr : Frame) (z : Slot) (k : Skein) : Skein :=
  k.onLanes (fr.actives z) fun _ a => p.returned a fr.pc fr.cycle

/-- The state with the active lanes of a TRET returned. -/
def State.returnActives (s : State) (fr : Frame) (z : Slot) : State :=
  s.onPanel fr.p.id fun p => p.onSkein fr.kx (p.returnLanes fr z)

/-- The transfers of a TRET: each active lane goes to its saved PC. -/
def Frame.returnGoes (fr : Frame) (z : Slot) : List (Nat × Dword × Dword) :=
  (fr.actives z).map fun l => (l, ((fr.k.lane l).trapReturn fr.pc).pc, fr.pc)

theorem execTret_of_user (h : s.openFrame = .ok fr) (hn : fr.notReady = false) (hm : fr.mode = .user) :
    exec (.tret z) s = .next (s.ended fr z [] [] (fr.allTrap .priv (slotHigh (encode (.tret z))))) := by
  have hpriv : fr.mode.allows .supervisor = false := by rw [hm]; rfl
  change execTret z s = _
  exact runSlot_priv h hn rfl hpriv rfl rfl

theorem execTret_of_gate (h : s.gate (.tret z) z {} false .supervisor = some fr) :
    exec (.tret z) s = .next ((s.returnActives fr z).ended fr z (fr.returnGoes z) [] []) := by
  change execTret z s = _
  rw [execTret, runSlot_open h rfl rfl rfl]
  rfl

theorem State.panel?_returnActives (h : s.panel? fr.p.id = some fr.p) :
    (s.returnActives fr z).panel? fr.p.id = some (fr.p.onSkein fr.kx (fr.p.returnLanes fr z)) := by
  have hon := State.panel?_onPanel s fr.p.id fr.p.id (fun p => p.onSkein fr.kx (p.returnLanes fr z)) fun _ hq => hq
  rw [h, Option.map_some, if_pos rfl] at hon
  exact hon

theorem Panel.stepping_returnLanes (p : Panel) (k : Skein) : stepping fr (p.returnLanes fr z k) = stepping fr k := by
  rw [Panel.returnLanes, Skein.onLanes_rest]
  rfl

theorem Frame.mem_actives {l : Nat} : l ∈ fr.actives z ↔ l ∈ fr.lanes ∧ predOn z fr.k l = true := List.mem_filter

variable {l : Nat} {a : Lane}

theorem Panel.lanes_returnLanes {p : Panel} {k : Skein} (hd : fr.lanes.Nodup) (hl : l ∈ fr.lanes) (ha : k.lanes[l]? = some a) :
    (p.returnLanes fr z k).lanes[l]? = some (if predOn z fr.k l = true then p.returned a fr.pc fr.cycle else a) := by
  have hon : (fr.actives z).Nodup := hd.filter _
  rw [Panel.returnLanes, Skein.lanes_onLanes _ _ _ _ hon, ha, Option.map_some]
  simp only [Frame.mem_actives, hl, true_and]

/-- The lanes of the issue set after a TRET: an active one has returned, the others go on. -/
theorem execTret_laneAt (h : s.openFrame = .ok fr) (hl : l ∈ fr.lanes) (ha : fr.k.lanes[l]? = some a) (he : a.exited = false)
    (hs : fr.k.step = 0) (hr : fr.k.reads = none) :
    ((s.returnActives fr z).ended fr z (fr.returnGoes z) [] []).laneAt fr.p.id fr.kx l =
      some (if predOn z fr.k l = true then fr.returnedLane a else a.advance (nextPc fr.pc)) := by
  obtain ⟨hp, _, _, hd, _⟩ := openFrame_facts h
  obtain ⟨hk, _⟩ := openFrame_skein_now h hr
  have hk1 : (fr.p.onSkein fr.kx (fr.p.returnLanes fr z)).skein? fr.kx = some (fr.p.returnLanes fr z fr.k) := by
    rw [Panel.skein?_onSkein, hk, Option.map_some, if_pos rfl]
  have hs1 : stepping fr (fr.p.returnLanes fr z fr.k) = false := by
    rw [Panel.stepping_returnLanes]
    simp [stepping, hs]
  rw [State.ended, State.closeEvent_lane _ fr _ _ _ _ _ _ _ _ l (State.panel?_returnActives hp) hk1 (Panel.lanes_returnLanes hd hl ha)
    hs1 hd, ite_self, List.filter_nil, List.foldl_nil, Frame.returnGoes, find?_map_key, Skein.lane_of ha]
  by_cases hpred : predOn z fr.k l = true
  case pos => simp [hpred, hl, Frame.mem_actives, Frame.returnedLane]
  case neg => simp [hpred, hl, he, Frame.mem_actives]

end

/-- Settles O27: in user mode the gate's mode check answers; once the gate is open the lane after the event is known, and R385's fields are
read off the returned lane or off the one that goes on. -/
theorem trapReturnRestoresModeAndPc : Obligations.TrapReturnRestoresModeAndPc := by
  refine ⟨fun z s fr h hn hm _ => execTret_of_user h hn hm, fun z s fr l a hg hl ha he hs hr => ?_⟩
  have hlane := execTret_laneAt (z := z) (gate_facts hg).1 hl ha he hs hr
  refine ⟨_, _, execTret_of_gate hg, hlane, ?_⟩
  by_cases hpred : predOn z fr.k l = true
  case pos =>
    rw [if_pos hpred]
    obtain ⟨hsup, hhyp, hqu, hqs, hqh, hv⟩ := fr.returnedLane_sameSaved a
    exact ⟨hsup, hhyp, hqu, hqs, hqh, hv, fun _ => fr.returnedLane_of_supervisor, fun _ => fr.returnedLane_of_hypervisor,
      fun hoff => absurd hpred (by simp [hoff])⟩
  case neg =>
    rw [if_neg hpred]
    exact ⟨rfl, rfl, rfl, rfl, rfl, rfl, fun hon => absurd hon hpred, fun hon => absurd hon hpred, fun _ => ⟨rfl, rfl, rfl⟩⟩

end Sys2Proof.Machine
end
